-- ==== Sys2Proof/Word.lean ====
section
/-! DEFINITION. The plain words of the part: bytes and 64-bit register words, and the simplest operations on numbers
kept as naturals. -/

namespace Sys2Proof

/-- One byte. -/
abbrev Byte := BitVec 8

/-- A 64-bit word: a register of BAR0, the loop-count register, an instruction. -/
abbrev Word64 := BitVec 64

end Sys2Proof
end

