-- ==== Sys2Proof/Syntax.lean ====
section
/-! DEFINITION. The commands of the block: one constructor per row of spec/opcode_table.json, and the values they carry.
A row of the table is an event of the part; unit numbers say where it happens, and what only the outside world knows (the
bytes of a packet, a sensor's reading, the bytes a host buffer holds) comes with it. -/

namespace Sys2Proof

/-- A sequence of a block: the A-stream, or a context of the X-stream. -/
inductive Seq
  | a | f | b
  deriving DecidableEq, Repr

/-- A context of the X-stream. -/
inductive Ctx
  | f | b
  deriving DecidableEq, Repr

/-- A packet of 80 bytes (R324, Table 12-4): header fields, 64 payload bytes, and the stored check. `via` is no part of the 80
bytes: it is the receive link whose slot the packet holds in this part (R319), 64 for none. -/
structure Packet where
  dst   : Nat
  src   : Nat
  slice : Nat
  vc    : Nat
  typ   : Nat
  first : Bool
  last  : Bool
  len   : Nat
  tag   : Nat
  seq   : Nat
  payload : List Byte
  crc   : Nat
  via   : Nat := 64
  deriving DecidableEq, Repr

/-- The step counter sample of a control slot (Table 13-6). -/
structure StcSample where
  int   : Nat
  frac  : Nat
  state : Nat
  valid : Bool
  deriving DecidableEq, Repr

/-- The identity record (Table 12-2, bytes 24 to 47). -/
structure Ident where
  node  : Nat
  port  : Nat
  axis  : Nat
  dir   : Nat
  major : Nat
  minor : Nat
  hash  : Nat
  deriving DecidableEq, Repr

/-- How a slot came off the wire (R315, R316): the count of its frame, its place in the frame, the symbol errors of each FEC
code word that it overlaps, and the LD_CLK cycle of its arrival within the 10 ns tick. -/
structure Rx where
  frame : Nat
  slot  : Nat
  errs  : List Nat
  cyc   : Nat
  deriving DecidableEq, Repr

/-- A control slot (Table 12-2). -/
structure CtlSlot where
  cred   : List Nat
  sample : StcSample
  ident  : Ident
  deriving DecidableEq, Repr

/-- What SFDP discovery reads of a flash device (R459): its signature, whether its table describes 8D-8D-8D, its density in
Gb, and its clock in MHz. -/
structure Sfdp where
  sign    : Nat
  octal   : Bool
  density : Nat
  mhz     : Nat
  deriving DecidableEq, Repr

/-- What a link trainer's steps 1 to 5 find (Tables 17-7, 18-5): lane order and polarity byte, a lane fault as (lane, kind),
whether step 3 reached its limit, the one-way delay in ps, and the neighbour's training slot of step 5 (Table 17-8). -/
structure Train where
  lanes : Nat
  fault : Option (Nat × Nat)
  eqFail : Bool
  delay : Nat
  slot  : List Byte
  deriving DecidableEq, Repr

/-- Where and when a packet enters the links (R330): the link die of its endpoint, and the LD_CLK cycle within the 10 ns tick. -/
structure InjAt where
  die : Nat
  cyc : Nat
  deriving DecidableEq, Repr

/-- How a memory trainer ends (R468): with the lane repairs that it made, or at the step that failed. -/
inductive MemVerdict
  | trained (repairs : Nat)
  | failed (step : Nat)
  deriving DecidableEq, Repr

/-- The commands, in the order of the table. -/
inductive Instr
  /-- R198: An instruction becomes the next of its stream or context and is decoded, with the faults raised at decode. -/
  | instructionDecode (b : Nat) (q : Seq)
  /-- R222: LOOP issues, latches its count and either skips the body or pushes a loop-stack entry. -/
  | loop (b : Nat) (q : Seq)
  /-- R179: TOK.WAIT issues when its token holds at least N and subtracts N. -/
  | tokWait (b : Nat) (q : Seq)
  /-- R181: TOK.SIG adds to a local token at issue or after its fence, or sends a token message to another block. -/
  | tokSig (b : Nat) (q : Seq)
  /-- R181: A token message from another block arrives and adds to the destination token, or is refused. -/
  | tokenMessage (src : Nat) (dst : Nat)
  /-- R168: CTX.MARK writes its immediate into the issuing context's marker. -/
  | ctxMark (b : Nat) (c : Ctx)
  /-- R219: DESC.SET in SET form writes one descriptor field at issue, sending pin requests or releases when the field is VER. -/
  | descSet (b : Nat)
  /-- R219: DESC.SET in ADD form adds a signed immediate modulo 2^48 to ADDR or SCALE_ADDR. -/
  | descSetAdd (b : Nat)
  /-- R219: DESC.SET in LCR form writes or adds to a loop-count register. -/
  | descSetLcr (b : Nat)
  /-- R219: DESC.SET in VIMM form writes an immediate register. -/
  | descSetVimm (b : Nat)
  /-- R216: LD issues and copies a tensor, or into a queue entry, without conversion. -/
  | ld (b : Nat)
  /-- R216: ST issues and copies a tensor or queue entry to its destination, including REMOTE. -/
  | st (b : Nat)
  /-- R190: GTH issues and gathers rows of an indexed descriptor into its destination. -/
  | gth (b : Nat)
  /-- R217: SCA issues and sends rows to the memory-side adders to combine into indexed rows, optionally returning old values. -/
  | sca (b : Nat)
  /-- R350: COLL of kind RS issues a reduce-scatter to its axis collective unit. -/
  | collRs (b : Nat) (transit : List (Nat × Nat))
  /-- R352: COLL of kind AG issues an all-gather, in gather form when it targets a GATHER binding's slot. -/
  | collAg (b : Nat) (transit : List (Nat × Nat))
  /-- R352: COLL of kind AR issues an all-reduce, including the closing collective form. -/
  | collAr (b : Nat) (transit : List (Nat × Nat))
  /-- R352: COLL of kind BC issues a broadcast from ring position ROOT. -/
  | collBc (b : Nat) (transit : List (Nat × Nat))
  /-- R352: COLL of kind A2A issues an all-to-all exchange of blocks. -/
  | collA2a (b : Nat) (transit : List (Nat × Nat))
  /-- R352: COLL of kind SHIFT issues a shift of SRC to the neighbour in direction DIR. -/
  | collShift (b : Nat) (transit : List (Nat × Nat))
  /-- R208: MM in MUL mode issues an array product in STAT or STRM mode into an accumulator tile. -/
  | mmMul (b : Nat) (c : Ctx)
  /-- R78: MM in L1 mode issues a sum of absolute differences on the mirrored layout. -/
  | mmL1 (b : Nat) (c : Ctx)
  /-- R78: MM in L2SQ mode issues a sum of squared differences on the mirrored layout. -/
  | mmL2sq (b : Nat) (c : Ctx)
  /-- R78: MM in MAXP mode issues a max-plus product combined by max in the accumulators. -/
  | mmMaxp (b : Nat) (c : Ctx)
  /-- R78: MM in MINP mode issues a min-plus product combined by min in the accumulators. -/
  | mmMinp (b : Nat) (c : Ctx)
  /-- R68: BLD starts loading the shadow set of all data cells and the check sums from a B descriptor. -/
  | bld (b : Nat) (c : Ctx)
  /-- R70: A stationary load reaches shadow complete, completing BLD and releasing a waiting swap. -/
  | shadowLoadComplete (b : Nat)
  /-- R71: SWP exchanges the active and shadow sets of all twenty cells in one ARRAY_CLK cycle. -/
  | swp (b : Nat) (c : Ctx)
  /-- R75: A later pass of a STRM MM starts once its A operand is present and its tile has been swapped in. -/
  | strmPassStart (b : Nat)
  /-- R81: PACK_HOLD cycles pass since a held slab's first row entered, and the packer issues it padded. -/
  | packHoldExpiry (b : Nat)
  /-- R88: The check cells give the verdict on a slab, completing MMs and closing tiles for drain. -/
  | slabVerdict (b : Nat)
  /-- R97: A drain writes its last output word, freeing the tile rows and completing its instruction. -/
  | drainComplete (b : Nat)
  /-- R103: SPL issues and, after the tile's verdicts, spills running totals into a binary64 wide buffer. -/
  | spl (b : Nat) (c : Ctx)
  /-- R103: A spill finishes writing the wide buffer, resets and links the tile, and completes SPL. -/
  | spillComplete (b : Nat)
  /-- R104: RSM opens a tile linked to a valid wide buffer to continue a sum. -/
  | rsm (b : Nat) (c : Ctx)
  /-- R213: CVT converts elements on the vector lanes with nearest or stochastic rounding, optionally seeding first. -/
  | cvt (b : Nat) (c : Ctx)
  /-- R215: Q.PUSH copies a LOCAL tensor into Q6 or Q7 as one entry when it can be reserved. -/
  | qPush (b : Nat) (c : Ctx)
  /-- R215: Q.POP copies or discards the head entry of a queue once it is present. -/
  | qPop (b : Nat) (c : Ctx)
  /-- R176: The last word of a queue entry is written and the entry is committed. -/
  | queueEntryCommit (b : Nat) (qn : Nat) (ent : Nat)
  /-- R122: VOP.ADD adds two operands element by element. -/
  | vopAdd (b : Nat) (c : Ctx)
  /-- R122: VOP.SUB subtracts two operands element by element. -/
  | vopSub (b : Nat) (c : Ctx)
  /-- R122: VOP.MUL multiplies two operands element by element. -/
  | vopMul (b : Nat) (c : Ctx)
  /-- R122: VOP.FMA forms A × B + C with one rounding. -/
  | vopFma (b : Nat) (c : Ctx)
  /-- R540: VOP.MAX takes the elementwise maximum with +0 above −0. -/
  | vopMax (b : Nat) (c : Ctx)
  /-- R540: VOP.MIN takes the elementwise minimum with +0 above −0. -/
  | vopMin (b : Nat) (c : Ctx)
  /-- R122: VOP.ABS takes the absolute value of each element. -/
  | vopAbs (b : Nat) (c : Ctx)
  /-- R122: VOP.NEG negates each element. -/
  | vopNeg (b : Nat) (c : Ctx)
  /-- R122: VOP.DIV divides A by B correctly rounded. -/
  | vopDiv (b : Nat) (c : Ctx)
  /-- R122: VOP.SQRT takes the correctly rounded square root. -/
  | vopSqrt (b : Nat) (c : Ctx)
  /-- R122: VOP.RCP takes the reciprocal within 1 ulp. -/
  | vopRcp (b : Nat) (c : Ctx)
  /-- R122: VOP.RSQRT takes the reciprocal square root within 1 ulp. -/
  | vopRsqrt (b : Nat) (c : Ctx)
  /-- R122: VOP.EXP computes e^a within 1 ulp. -/
  | vopExp (b : Nat) (c : Ctx)
  /-- R122: VOP.EXP2 computes 2^a within 1 ulp. -/
  | vopExp2 (b : Nat) (c : Ctx)
  /-- R122: VOP.LOG computes ln a within 1 ulp. -/
  | vopLog (b : Nat) (c : Ctx)
  /-- R122: VOP.LOG2 computes log2 a within 1 ulp. -/
  | vopLog2 (b : Nat) (c : Ctx)
  /-- R122: VOP.TANH computes tanh a within 2 ulp. -/
  | vopTanh (b : Nat) (c : Ctx)
  /-- R122: VOP.SIGM computes the logistic function within 2 ulp. -/
  | vopSigm (b : Nat) (c : Ctx)
  /-- R122: VOP.CMP.EQ writes 1.0 where A equals B, else +0. -/
  | vopCmpEq (b : Nat) (c : Ctx)
  /-- R122: VOP.CMP.NE writes 1.0 where A differs from B, else +0. -/
  | vopCmpNe (b : Nat) (c : Ctx)
  /-- R122: VOP.CMP.LT writes 1.0 where A is less than B, else +0. -/
  | vopCmpLt (b : Nat) (c : Ctx)
  /-- R122: VOP.CMP.LE writes 1.0 where A is at most B, else +0. -/
  | vopCmpLe (b : Nat) (c : Ctx)
  /-- R122: VOP.SEL selects A where C is nonzero or NaN, else B. -/
  | vopSel (b : Nat) (c : Ctx)
  /-- R125: VOP.RSUM reduces each row to its sum by the fixed tree and fold. -/
  | vopRsum (b : Nat) (c : Ctx)
  /-- R125: VOP.RMAX reduces each row to its maximum. -/
  | vopRmax (b : Nat) (c : Ctx)
  /-- R125: VOP.RMIN reduces each row to its minimum. -/
  | vopRmin (b : Nat) (c : Ctx)
  /-- R125: VOP.RSSQ reduces each row to its sum of squares. -/
  | vopRssq (b : Nat) (c : Ctx)
  /-- R126: VOP.ACC adds an M × 32 source into an accumulator tile of family SUM, SSQ or WEL. -/
  | vopAcc (b : Nat) (c : Ctx)
  /-- R211: VOP.MSET writes a mask register from 16 bytes of a LOCAL tensor. -/
  | vopMset (b : Nat) (c : Ctx)
  /-- R133: ROW.LN.F normalises rows by LayerNorm and stores mean and reciprocal deviation in side-memory slots. -/
  | rowLnF (b : Nat) (c : Ctx)
  /-- R133: ROW.LN.B looks up stored statistics and writes the LayerNorm input gradient. -/
  | rowLnB (b : Nat) (c : Ctx)
  /-- R133: ROW.RMS.F normalises rows by RMSNorm and stores the reciprocal deviation. -/
  | rowRmsF (b : Nat) (c : Ctx)
  /-- R133: ROW.RMS.B writes the RMSNorm input gradient from stored statistics. -/
  | rowRmsB (b : Nat) (c : Ctx)
  /-- R134: ROW.SM.F computes the soft-maximum of rows and stores maximum and log-sum. -/
  | rowSmF (b : Nat) (c : Ctx)
  /-- R134: ROW.SM.B writes the soft-maximum input gradient from stored statistics. -/
  | rowSmB (b : Nat) (c : Ctx)
  /-- R137: ROW.SM.CH processes one chunk of each row, merging running statistics and writing p and αa. -/
  | rowSmCh (b : Nat) (c : Ctx)
  /-- R138: ROW.SM.MRG merges incoming statistics pairs into stored ones and writes αa and αb. -/
  | rowSmMrg (b : Nat) (c : Ctx)
  /-- R138: ROW.GET writes stored V0, V1 or EXP(−l) as a row vector. -/
  | rowGet (b : Nat) (c : Ctx)
  /-- R132: ROW.ST writes side-memory slots to a descriptor as 16-byte records. -/
  | rowSt (b : Nat) (c : Ctx)
  /-- R132: ROW.LD writes records from a descriptor back into side-memory slots. -/
  | rowLd (b : Nat) (c : Ctx)
  /-- R171: An issued instruction reaches its completion event, incrementing its token, updating STATUS and possibly ending the block's run. -/
  | completionEvent (b : Nat) (job : Nat)
  /-- R345: An error completion or refusal reaches a requesting block, which stops with the named fault. -/
  | errorCompletion (b : Nat) (job : Nat)
  /-- R194: The stream watchdog count reaches WDOG and the block stops. -/
  | streamHang (b : Nat)
  /-- R159: A block-to-block transfer arrives whole at a network interface and is checked and committed or discarded. -/
  | nocTransferDelivery (src : Nat) (dst : Nat) (bad : Bool)
  /-- R159: A failure response for a discarded transfer reaches the sending block, which stops. -/
  | nocE2e (b : Nat)
  /-- R156: An access reaches a region store bank and takes effect in arrival order. -/
  | regionStoreAccess (r : Nat) (wr : Bool) (off : Nat) (len : Nat) (data : List Byte)
  /-- R151: The scrub tick reads one scratchpad word, correcting or poisoning it. -/
  | scratchpadScrubTick (b : Nat)
  /-- R155: A secure partition zero-fill ends, WIPING clears and waiting accesses proceed. -/
  | secureWipeComplete (b : Nat)
  /-- R446: A PRG_START start message reaches a block and applies the image header before first issue. -/
  | blockStartMessage (b : Nat)
  /-- R446: An admitted block clock finishes its ramp in an ARMED region and the block begins issue. -/
  | blockClockRampComplete (b : Nat)
  /-- R446: A block idle for 64 BLOCK_CLK cycles in an ARMED region gates its clock. -/
  | blockClockGate (b : Nat)
  /-- R263: A pin request reaches the region hub and binding, which grant the published version or refuse. -/
  | pinRequest (b : Nat) (h : Nat)
  /-- R265: A pin grant reaches the block, the handle becomes PINNED and pending reads resolve their slot. -/
  | pinGrant (b : Nat) (h : Nat)
  /-- R271: A pin refusal reaches the block, which stops. -/
  | pinRefused (b : Nat) (h : Nat)
  /-- R264: A pin release reaches the binding and lowers the slot's pin count, possibly releasing a waiting writer. -/
  | pinRelease (b : Nat) (h : Nat)
  /-- R282: The SUE accepts a write to a binding's trigger word and queues, holds or rejects the trigger. -/
  | triggerWrite (n : Nat) (layer : Nat) (w : Nat)
  /-- R284: The SUE serves the next eligible trigger, seeding lanes and starting a pass or skipping it. -/
  | suePassStart (n : Nat)
  /-- R284: A pass finishes its groups, writes the statistics record and publishes or withholds the version. -/
  | suePassEnd (n : Nat)
  /-- R305: The SUE accepts a write to its step word and begins closing the step or ignores it. -/
  | stepWordWrite (n : Nat) (w : Nat)
  /-- R305: Once every accepted trigger of the step has finished, the SUE rolls back or counts, sets CLOSED_STEP and writes the scale word. -/
  | stepClose (n : Nat)
  /-- R307: A split or rows rollback finishes rewriting bytes and grants held pin requests. -/
  | rollbackComplete (n : Nat) (layer : Nat)
  /-- R285: A layer-update deadline tick arrives while the trigger is queued, held or running, raising a miss. -/
  | layerUpdateDeadline (n : Nat) (layer : Nat)
  /-- R269: The deadline tick arrives while the writer waits on pins and the update is abandoned. -/
  | pinDeadline (n : Nat) (layer : Nat)
  /-- R249: The memory-side adders apply an arriving SCA row to the stack, setting touch bits. -/
  | scaRowApply (n : Nat)
  /-- R240: A read or write request reaches a stack controller and joins its class queue. -/
  | stackRequest (n : Nat) (cls : Nat) (wr : Bool) (off : Nat) (len : Nat)
  /-- R237: The write-combining buffer accepts a write, flushing a full line or evicting the oldest partial line. -/
  | stackWriteAccept (n : Nat) (off : Nat) (data : List Byte)
  /-- R238: A line still partial 2 µs after its first byte is written by read-modify-write. -/
  | wcbLineTimeout (n : Nat) (line : Nat)
  /-- R241: A WR, UPD or SCRUB request waits 8 µs and is promoted ahead of other classes. -/
  | writePromotion (n : Nat) (ch : Nat)
  /-- R243: A dwell limit or queue threshold switches a channel's direction. -/
  | channelDirectionSwitch (n : Nat) (ch : Nat)
  /-- R247: The controller refreshes the next bank by per-bank refresh. -/
  | stackRefresh (n : Nat)
  /-- R247: The stack temperature readout is sampled and the refresh rate doubled or restored. -/
  | stackTemperatureSample (n : Nat) (t : Int)
  /-- R251: The patrol scrubber reads one granule indivisibly, correcting or poisoning words. -/
  | patrolScrub (n : Nat)
  /-- R447: After the buffer drains the stack enters self refresh. -/
  | selfRefreshEntry (n : Nat)
  /-- R447: A stack in SELF_REFRESH woken by request or command becomes ready for access. -/
  | stackWake (n : Nat)
  /-- R330: A transmit link picks the packet for its next slot under credits and the bubble rule. -/
  | linkSlotTransmit (l : Nat)
  /-- R339: A packet arrives at a link and is checked against the slice table before buffering. -/
  | packetIngress (l : Nat) (p : Packet) (rx : Rx)
  /-- R317: A control slot is received, restoring credits, carrying an STC sample and checking the identity record. -/
  | controlSlotReceive (l : Nat) (bytes : List Byte) (rx : Rx)
  /-- R320: No good control slot for 2 µs declares the link down and drops its held packets. -/
  | linkDown (l : Nat)
  /-- R335: An endpoint numbers and injects a sequenced packet when its re-send limits allow. -/
  | packetInjection (d : InjAt)
  /-- R333: A packet reaches its destination endpoint and is checked, ordered, committed or dropped. -/
  | endpointReceive (d : Nat)
  /-- R334: 1 µs passes since the oldest unacknowledged commit and an ACK is sent. -/
  | ackTimer (d : Nat) (node : Nat)
  /-- R334: An ACK frees acknowledged packets from the source's re-send buffer. -/
  | ackReceive (d : Nat)
  /-- R335: The oldest unacknowledged packet of a pair times out and the pair is re-sent or declared lost. -/
  | resendTimeout (d : Nat) (node : Nat)
  /-- R336: An ERR packet reaches the requesting endpoint and completes the request with its cause. -/
  | errReceive (d : Nat)
  /-- R325: A RESP message returns read data or old values to the requesting unit. -/
  | respReceive (d : Nat)
  /-- R349: A HEAD packet of a collective arrives and is compared with the receiver's own collective. -/
  | collHeadReceive (a : Nat)
  /-- R350: A DATA packet arrives, is combined with own data and forwarded or written. -/
  | collDataReceive (a : Nat)
  /-- R354: A FLAG packet arrives and is relayed and ORed into the non-finite flag. -/
  | collFlagReceive (a : Nat)
  /-- R360: A CLOSE packet of the closing collective arrives and is combined and compared. -/
  | collCloseReceive (a : Nat)
  /-- R361: An ABORT packet arrives and the member abandons the collective and relays it. -/
  | collAbortReceive (a : Nat)
  /-- R357: A collective's writes are accepted, its packets acknowledged and its flag round done, so it completes. -/
  | collCompletion (a : Nat) (cseq : Nat)
  /-- R360: Once all twelve SUEs finish the step's triggers, the closing collective sends its contribution. -/
  | closingCollective
  /-- R368: The ACU's STC copy reaches a COLL deadline with the collective unfinished. -/
  | collDeadline (a : Nat) (cseq : Nat)
  /-- R365: Every 1 µs the part adjusts its STC rate from neighbour samples and updates its lock state. -/
  | stcSyncRound
  /-- R366: Node 0 without a LOCKED neighbour for 10 ms enters LOCKED without stepping. -/
  | stcSeedTimeout
  /-- R370: A deadline record CTRL packet arrives, is relayed and delivered to Thallus. -/
  | deadlineRecordReceive
  /-- R488: A slice-stop record arrives, is relayed and delivered to Thallus. -/
  | sliceStopRecordReceive
  /-- R487: Thallus starts a slice stop: relays the record, stops blocks, abandons collectives and rolls back SUEs. -/
  | sliceStop
  /-- R389: Thallus enters a forwarded event in the log, sets FAULT_SUMMARY bits and raises vector 16 or 17. -/
  | eventLogEntry
  /-- R391: The EVT_IRQ_GAP interval ends and one vector-16 message covers records entered during it. -/
  | evtIrqGapExpiry
  /-- R479: At the end of each STC second a unit that corrected words enters one summary record. -/
  | correctedSummary (level : Nat) (unit : Nat) (kind : Nat)
  /-- R378: A host write of MBX_CTL with OWNER 1 hands a command to Thallus and is latched by the watcher. -/
  | mbxHandoff (m : Nat) (off : Nat) (data : List Byte)
  /-- R379: Two CRUST_CLK cycles after a handoff the watcher wakes Thallus to begin commands. -/
  | thallusWake
  /-- R380: A command finishes, writes results, STATUS and MBX_CTL, and raises its vector if asked. -/
  | commandCompletion (m : Nat)
  /-- R387: A command's DEADLINE passes and Thallus stops it at a safe point or marks it late. -/
  | mailboxDeadline (m : Nat)
  /-- R382: A host write to a device-owned mailbox is dropped and counted. -/
  | mailboxWrite (m : Nat) (off : Nat) (data : List Byte)
  /-- R377: A write of 1s to FAULT_SUMMARY clears those bits unless set in the same cycle. -/
  | faultSummaryWrite (v : Nat)
  /-- R395: Any write to HOST_HB sets HEARTBEAT_AGE to 0. -/
  | hostHbWrite (v : Nat)
  /-- R390: A write to EVT_TAIL is accepted only within the unread range, else dropped and counted. -/
  | evtTailWrite (v : Nat)
  /-- R362: A 4-byte read of STC_NOW's low half latches the high half for the next read. -/
  | stcNowRead (off : Nat) (size : Nat)
  /-- R7: A write to a register without behaviour of its own acts by its access code. -/
  | registerWrite (off : Nat) (size : Nat) (v : Nat)
  /-- R392: A host BAR2 read or write reaches the interleaved window at BAR2_BASE. -/
  | bar2Access (wr : Bool) (off : Nat) (len : Nat) (data : List Byte)
  /-- R375: A function-level reset restores configuration, MSI-X and BAR2_BASE and abandons PCIe transactions. -/
  | functionLevelReset
  /-- R393: At the end of a kicked heartbeat period Crust increments HB_COUNT and writes the host record. -/
  | heartbeat
  /-- R395: HEARTBEAT_AGE passes its threshold and HOST_SILENT is logged once. -/
  | hostSilent
  /-- R403: DEV_IDENTIFY returns serial, versions, node number and certificate digest. -/
  | devIdentify (m : Nat)
  /-- R404: DEV_GRADE returns working arrays, grade and vector-block map. -/
  | devGrade (m : Nat)
  /-- R403: DEV_FW_VERSION returns ROM, slot and link protocol versions. -/
  | devFwVersion (m : Nat)
  /-- R405: DEV_HEARTBEAT sets the heartbeat period, silence threshold and record address. -/
  | devHeartbeat (m : Nat)
  /-- R443: PWR_CHIP_STATE moves the chip one state at a time toward its target. -/
  | pwrChipState (m : Nat)
  /-- R445: PWR_REGION_STATE moves named regions along OFF, RETAIN, ARMED and RUN, wiping secure partitions before OFF. -/
  | pwrRegionState (m : Nat)
  /-- R447: PWR_STACK_STATE moves stacks between ACTIVE and SELF_REFRESH. -/
  | pwrStackState (m : Nat)
  /-- R448: PWR_LINK_STATE moves links to UP, STANDBY or OFF. -/
  | pwrLinkState (m : Nat)
  /-- R406: PWR_QUERY returns chip, region, stack and link states and package power. -/
  | pwrQuery (m : Nat)
  /-- R392: MEM_MAP_WINDOW moves the BAR2 window base. -/
  | memMapWindow (m : Nat)
  /-- R411: MEM_WIPE zero-fills the named stores, discarding bindings and clearing secure and side-memory state. -/
  | memWipe (m : Nat)
  /-- R410: MEM_FILL writes a repeated 8-byte pattern over an extent. -/
  | memFill (m : Nat)
  /-- R410: MEM_COPY copies bytes between spaces, carrying poison unchanged. -/
  | memCopy (m : Nat) (dma : Option (List Byte))
  /-- R251: MEM_SCRUB_SET sets the patrol scrub period of named stacks. -/
  | memScrubSet (m : Nat)
  /-- R410: MEM_READ_BACK returns up to 4,032 bytes with a poison map. -/
  | memReadBack (m : Nat)
  /-- R413: PRG_LOAD reads a block image from the host, checks it and loads the named blocks. -/
  | prgLoad (m : Nat) (dma : Option (List Byte))
  /-- R414: PRG_CAST_OPEN opens a Sporecast session as source or receiver. -/
  | prgCastOpen (m : Nat)
  /-- R474: PRG_CAST_SEGMENT broadcasts one checked segment across the slice. -/
  | prgCastSegment (m : Nat) (dma : Option (List Byte))
  /-- R476: PRG_CAST_CLOSE fetches missing segments, checks the image and loads receiving blocks. -/
  | prgCastClose (m : Nat)
  /-- R415: PRG_START sends start messages to named blocks in ascending order. -/
  | prgStart (m : Nat)
  /-- R416: PRG_STOP stops issue in named blocks and waits for them to reach STOPPED. -/
  | prgStop (m : Nat)
  /-- R417: PRG_STATUS returns a block's status, markers, queue states and tokens. -/
  | prgStatus (m : Nat)
  /-- R417: DESC_WRITE replaces one descriptor of a block after checking CHK. -/
  | descWrite (m : Nat)
  /-- R420: FAB_PROFILE installs a torus profile record from the settings. -/
  | fabProfile (m : Nat)
  /-- R419: FAB_LINK_STATUS returns a status record per named link. -/
  | fabLinkStatus (m : Nat)
  /-- R340: FAB_SLICE_SET writes the slice table and resets sequence state. -/
  | fabSliceSet (m : Nat)
  /-- R340: FAB_SLICE_CLEAR leaves the slice, discarding buffered packets and held copies. -/
  | fabSliceClear (m : Nat)
  /-- R494: FAB_ACCEPT_WIRING sets an axis and direction override for a MISWIRED port. -/
  | fabAcceptWiring (m : Nat)
  /-- R421: FAB_RETRAIN_LINK retrains one link on the fast path or with the full gate. -/
  | fabRetrainLink (m : Nat)
  /-- R341: FAB_TRANSIT_ONLY sets or clears the part's transit-only membership. -/
  | fabTransitOnly (m : Nat)
  /-- R422: STC_READ returns the STC, its state and the recorded epoch. -/
  | stcRead (m : Nat)
  /-- R366: STC_SET_EPOCH without SEED records a host time against an STC value. -/
  | stcSetEpoch (m : Nat)
  /-- R366: STC_SET_EPOCH with SEED makes a FREE part LOCKED at once and records the epoch. -/
  | stcSetEpochSeed (m : Nat)
  /-- R423: DEADLINE_POLICY enables or disables each deadline kind, disarming disabled ones. -/
  | deadlinePolicy (m : Nat)
  /-- R287: SUE_LOAD_RULE loads a rule program with constants and power tables into named SUEs. -/
  | sueLoadRule (m : Nat)
  /-- R278: SUE_BIND_LAYER checks and installs a binding descriptor on an SUE. -/
  | sueBindLayer (m : Nat)
  /-- R425: SUE_BIND_LAYER with UNBIND discards a binding and returns its last version record. -/
  | sueUnbindLayer (m : Nat)
  /-- R424: SUE_VERSION_STATE returns a binding's version record, steps and trigger state. -/
  | sueVersionState (m : Nat)
  /-- R301: SUE_SCALE_MODE sets mode, loss scale, word offsets and START_STEP for all SUEs. -/
  | sueScaleMode (m : Nat)
  /-- R310: SUE_ROLLBACK rolls back one or every eligible binding. -/
  | sueRollback (m : Nat)
  /-- R300: SUE_STATS_READ returns a binding's statistics record. -/
  | sueStatsRead (m : Nat)
  /-- R427: TEL_COUNTERS returns the counters of a level's units and the chip sums. -/
  | telCounters (m : Nat) (dmaOk : Bool)
  /-- R428: TEL_SENSORS returns temperatures, rail voltages, current and power. -/
  | telSensors (m : Nat)
  /-- R427: TEL_CLEAR clears the counters of a level's units. -/
  | telClear (m : Nat)
  /-- R430: FLT_READ returns a unit's latest fault record. -/
  | fltRead (m : Nat)
  /-- R430: FLT_CLEAR moves a FAULTED block to STOPPED, releasing its pins, or clears a unit's record. -/
  | fltClear (m : Nat)
  /-- R430: FLT_INJECT logs FLT_INJECTED and injects a fault of the given kind. -/
  | fltInject (m : Nat)
  /-- R431: BLK_GRADE_DOWN disables a block's array and persists the vector-block map. -/
  | blkGradeDown (m : Nat)
  /-- R521: SEC_ATTEST returns a report signed by the identity key. -/
  | secAttest (m : Nat)
  /-- R512: SEC_LIFECYCLE verifies an authorisation, blows fuses, wipes and records the new state. -/
  | secLifecycle (m : Nat)
  /-- R514: SEC_OWNER_KEY installs a new owner public key. -/
  | secOwnerKey (m : Nat)
  /-- R434: FW_STAGE writes and verifies firmware in the inactive slot. -/
  | fwStage (m : Nat) (dma : Option (List Byte))
  /-- R396: FW_SWITCH rechecks the staged slot and restarts Thallus from it. -/
  | fwSwitch (m : Nat)
  /-- R435: SET_READ returns bytes of a settings block. -/
  | setRead (m : Nat) (dmaOk : Bool)
  /-- R435: SET_WRITE writes and verifies a signed settings block in the inactive copy. -/
  | setWrite (m : Nat) (dma : Option (List Byte))
  /-- R485: A lockstep mismatch halts Thallus and Crust restarts it from ROM. -/
  | thallusLockstep
  /-- R485: A Thallus restart ends, mailboxes are completed and held events entered. -/
  | thallusRestartComplete
  /-- R439: PWR_GOOD rises, straps are sampled and the OSC_WAIT delay starts. -/
  | pwrGoodRise (oscWait : Nat) (smbAddr : Nat)
  /-- R439: The OSC_WAIT delay ends and Crust starts on the oscillator input. -/
  | oscWaitExpiry (low : List Nat)
  /-- R450: RESET_N falls for at least 1 µs and Crust holds the core die in reset. -/
  | resetNLow
  /-- R449: RESET_N rises after 1 µs to 10 ms low and a warm reset restarts the core die. -/
  | warmReset
  /-- R449: PWR_GOOD low, RESET_N low for 10 ms or a reset-level rail resets the whole package. -/
  | packageReset (cause : Nat)
  /-- R449: VDD_CORE or VDD_SRAM at reset level resets the core die while link and base dies run. -/
  | coreDieReset (rail : Nat)
  /-- R452: A rail crossing its warning level pauses issue in blocks and SUEs. -/
  | supplyWarn (rail : Nat)
  /-- R453: Every crossed rail stays above warning for 10 µs and issue resumes. -/
  | supplyResume
  /-- R451: A rail above nominal + 5 % is logged. -/
  | supplyHigh (rail : Nat)
  /-- R454: The junction sensors are sampled every 1 µs and warning or trip levels act. -/
  | thermalSample (core : List Int) (dies : List Int)
  /-- R455: Five microseconds after a trip Crust stops every fast clock except SP_CLK. -/
  | tripClockStop
  /-- R455: A base die reports self-refresh entry after a trip, or 20 µs pass, and its SP_CLK stops. -/
  | tripStackStop (n : Nat)
  /-- R441: The 50 MHz input stops and Crust and the whole part stop. -/
  | oscillatorStop
  /-- R441: A link die sees four cycles without Crust's keep-alive toggle and idles its transmitters. -/
  | keepAliveLoss (d : Nat)
  /-- R441: A link reference input stops and that link die and its 32 links stop. -/
  | linkReferenceStop (d : Nat)
  /-- R441: A link die's bridge is silent for 1 µs and Thallus logs it. -/
  | linkDieLost (d : Nat)
  /-- R443: A chip state step finishes its latency and the chip enters the next state. -/
  | chipTransitionComplete
  /-- R445: A region state step finishes its latency and waiting requests are served or refused. -/
  | regionTransitionComplete (r : Nat)
  /-- R448: A link state change finishes draining or reaches its frame boundary. -/
  | linkTransitionComplete (l : Nat)
  /-- R456: Crust finishes reading and parity-checking the fuses. -/
  | fuseReadComplete (ok : Bool)
  /-- R456: Thallus finishes ROM boot with the control PLL locked and lockstep running. -/
  | romBootComplete (ok : Bool)
  /-- R460: Thallus discovers flash devices by SFDP and chooses one. -/
  | flashDiscovery (f0 : Sfdp) (f1 : Sfdp)
  /-- R460: The firmware image is read, hashed and verified, or the part halts. -/
  | firmwareVerify
  /-- R461: The firmware checks each settings block and applies clock settings. -/
  | settingsVerify
  /-- R463: A link trainer starts at stage 5 or on link down and runs its training steps. -/
  | linkTrainerStart (l : Nat) (t : Train)
  /-- R467: A link's error-rate gate ends and the link becomes UP, repeats or is held down. -/
  | linkGateVerdict (l : Nat) (corrected : Nat) (uncorr : Nat) (slot : List Byte)
  /-- R468: A memory trainer finishes its stack, which passes zero-filled or fails. -/
  | memoryTrainingComplete (n : Nat) (fail : MemVerdict)
  /-- R458: Once trainers, stack ports and fetches have verdicts, Thallus sets READY. -/
  | ready
  /-- R470: A block fetches its image from the manifest address, checks it and enters LOADED or stays IDLE. -/
  | blockFetch (b : Nat)
  /-- R471: With TEST set, every block runs the test image during stage 6 and failures are logged. -/
  | blockTest (fails : List (Nat × Nat))
  /-- R475: A CAST segment arrives, is relayed and accepted into the session bitmap or discarded. -/
  | castSegmentReceive
  /-- R477: A FETCH reaches the source, which answers with the segment or REFUSE. -/
  | castFetchReceive
  /-- R476: A REFUSE reaches a receiver and its PRG_CAST_CLOSE ends FAULTED. -/
  | castRefuseReceive
  /-- R518: A tamper sensor trips, the key store clears, blocks stop and secure partitions are wiped. -/
  | tamperEvent (sensor : Nat)
  /-- R513: A host debug access is served or, when locked, answered with zeros. -/
  | hostDebugAccess (b : Nat) (wr : Bool) (off : Nat) (len : Nat) (data : List Byte)
  /-- R538: A JTAG access is served by IEEE 1149.1 within the life-cycle limits. -/
  | jtagAccess (ir : Nat) (v : Nat)
  /-- R539: PORTpp_SB0 goes low and the port's links leave OFF to train on the full path. -/
  | cablePresent (p : Nat)
  /-- R495: A sideband pin shorted for 1 ms is current-limited and logged. -/
  | sidebandShort (p : Nat) (pin : Nat)
  /-- R536: An SMBus transaction to the part's address returns a latched register or is NACKed. -/
  | smbusCommand (code : Nat) (wr : Bool)
  /-- R537: A read of the alert response address returns the part's address while it drives SMB_ALERT_N. -/
  | smbusAlertResponse
  /-- R536: The SMBus timeout of 25 ms to 35 ms expires and the transaction is abandoned. -/
  | smbusTimeout
  /-- R450: Once VDD_CORE and VDD_SRAM have stayed above their warning levels for 100 µs, the core die leaves reset and restarts on the fast path. -/
  | coreDieResetRelease
  /-- R533: A rail found at or below its reset level when Crust starts has stayed above it for 100 µs, the package reset ends and the cold start continues from stage 1. -/
  | resetLevelRelease
  /-- R539: PORTpp_SB0 goes high and the port holds its links in OFF until SB0 goes low again. -/
  | cableRemoved (p : Nat)
  deriving DecidableEq, Repr

end Sys2Proof
end

