-- ==== Sys2Proof/Machine/Bits.lean ====
section
/-! DEFINITION. Bit fields, sign extension, byte order and small list helpers. Multi-byte fields are little-endian. -/

namespace Sys2Proof.Machine

/-- Bits `[lo + n - 1 : lo]` of a number. -/
def bits (w lo n : Nat) : Nat := (w >>> lo) % 2 ^ n

/-- Bit `i` of a number. -/
def bit (w i : Nat) : Bool := (w >>> i) % 2 == 1

/-- A flag as a bit. -/
def b2n (b : Bool) : Nat := if b then 1 else 0

/-- The value of an `n`-bit two's complement field. -/
def signed (n w : Nat) : Int :=
  if w % 2 ^ n < 2 ^ (n - 1) then ((w % 2 ^ n : Nat) : Int) else ((w % 2 ^ n : Nat) : Int) - 2 ^ n

/-- The `n`-bit two's complement field of an integer. -/
def unsigned (n : Nat) (i : Int) : Nat := (i % ((2 ^ n : Nat) : Int)).toNat

/-- `ceil(a / b)` of naturals (0 where b is 0). -/
def cdiv (a b : Nat) : Nat := if b = 0 then 0 else (a + b - 1) / b

/-- `ceil(a / b)` of an integer by a positive natural. -/
def icdiv (a : Int) (b : Nat) : Int := -((-a) / (b : Int))

/-- A number from its bytes, least significant first. -/
def ofLE : List Byte → Nat
  | [] => 0
  | b :: bs => b.toNat + 256 * ofLE bs

/-- The `n` low bytes of a number, least significant first. -/
def toLE : Nat → Nat → List Byte
  | 0, _ => []
  | n + 1, w => BitVec.ofNat 8 w :: toLE n (w / 256)

/-- The little-endian field of `n` bytes at offset `o` of a byte string (bytes past its end read 0). -/
def fld (bs : List Byte) (o n : Nat) : Nat := ofLE ((bs.drop o).take n)

/-- A byte string brought to exactly `n` bytes, zeros added at its end. -/
def fitTo (n : Nat) (bs : List Byte) : List Byte := bs.take n ++ List.replicate (n - bs.length) 0

/-- Element `i` of a list changed by `f` (nothing where `i` is out of range). -/
def updAt {α : Type} (l : List α) (i : Nat) (f : α → α) : List α :=
  match l, i with
  | [], _ => []
  | a :: as, 0 => f a :: as
  | a :: as, i + 1 => a :: updAt as i f

/-- A byte string with `new` laid over it from offset `o` (nothing past its end is kept). -/
def overlay (old : List Byte) (o : Nat) (new : List Byte) : List Byte :=
  old.take o ++ (new.take (old.length - o)) ++ old.drop (o + new.length)

/-- A list cut into pieces of `n` (with fuel for its length). -/
def chunksF {α : Type} : Nat → Nat → List α → List (List α)
  | 0, _, _ => []
  | _, _, [] => []
  | f + 1, n, l => l.take n :: chunksF f n (l.drop n)

def chunks {α : Type} (n : Nat) (l : List α) : List (List α) := chunksF l.length (max n 1) l

/-- Floor of the square root, by Newton's iteration with fuel. -/
def isqrtF : Nat → Nat → Nat → Nat
  | 0, _, x => x
  | f + 1, n, x => let y := (x + n / x) / 2; if y < x then isqrtF f n y else x

def isqrt (n : Nat) : Nat := if n = 0 then 0 else isqrtF (Nat.log2 n + 4) n (2 ^ (Nat.log2 n / 2 + 1))

/-- Floor of the 16th root. -/
def iroot16 (n : Nat) : Nat := isqrt (isqrt (isqrt (isqrt n)))

/-- The largest of a list of naturals (0 of none). -/
def maxOf (l : List Nat) : Nat := l.foldl max 0

/-- Number of set bits among the `n` low bits. -/
def popcount (n w : Nat) : Nat := ((List.range n).filter (fun i => bit w i)).length

/-- The mask with the listed bits set. -/
def maskOf (l : List Nat) : Nat := l.foldl (fun m i => m ||| (1 <<< i)) 0

/-- The numbers of the set bits among the `n` low bits, ascending. -/
def bitsOf (n w : Nat) : List Nat := (List.range n).filter (fun i => bit w i)

/-- Each element of a list with its place, counted from `n`. -/
def mapNum {α β : Type} (f : Nat → α → β) : Nat → List α → List β
  | _, [] => []
  | n, x :: xs => f n x :: mapNum f (n + 1) xs

end Sys2Proof.Machine
end

