-- ==== Sys2Proof/Machine/Formats.lean ====
section
/-! DEFINITION. Number formats (chapter 2): the code points of every format, exact values, rounding to nearest and
stochastic rounding into each format, block quantisation and the three numeric counts. Values are exact: a linear value
is an integer times a power of two, a logarithmic value is a power of 2^(1/16). -/

namespace Sys2Proof.Machine

/-- The formats of Table 2-2 (R27). -/
inductive Fmt
  | fp32 | bf16 | fp64 | e4m3 | e5m2 | mx4 | mx5 | lg4 | lg8f | lg8b | lgu8 | int32 | int64
  deriving DecidableEq, Repr

/-- The 4-bit format codes of Table 2-2; `none` is a reserved code (R27). -/
def Fmt.ofCode (c : Nat) : Option Fmt :=
  [Fmt.fp32, .bf16, .fp64, .e4m3, .e5m2, .mx4, .mx5, .lg4, .lg8f, .lg8b, .lgu8, .int32, .int64][c]?

/-- The code of a format (Table 2-2). -/
def Fmt.code : Fmt → Nat
  | .fp32 => 0 | .bf16 => 1 | .fp64 => 2 | .e4m3 => 3 | .e5m2 => 4 | .mx4 => 5 | .mx5 => 6 | .lg4 => 7
  | .lg8f => 8 | .lg8b => 9 | .lgu8 => 10 | .int32 => 11 | .int64 => 12

/-- Element width in bits (Table 2-1). -/
def Fmt.width : Fmt → Nat
  | .fp32 => 32 | .bf16 => 16 | .fp64 => 64 | .e4m3 => 8 | .e5m2 => 8 | .mx4 => 8 | .mx5 => 8 | .lg4 => 4
  | .lg8f => 8 | .lg8b => 8 | .lgu8 => 8 | .int32 => 32 | .int64 => 64

/-- Scale block size, 0 where the format has no block scale (Table 2-1). -/
def Fmt.block : Fmt → Nat
  | .lg4 => 16 | .lg8f => 32 | .lg8b => 32 | .lgu8 => 32 | .mx4 => 32 | .mx5 => 32 | _ => 0

def Fmt.scaled (f : Fmt) : Bool := f.block != 0

/-- The logarithmic formats. -/
def Fmt.isLog : Fmt → Bool
  | .lg4 => true | .lg8f => true | .lg8b => true | .lgu8 => true | _ => false

def Fmt.isInt : Fmt → Bool
  | .int32 => true | .int64 => true | _ => false

/-- Formats that may be array operands (Table 2-1, R26). -/
def Fmt.isOperand : Fmt → Bool
  | .fp32 | .fp64 | .lgu8 | .int32 | .int64 => false
  | _ => true

/-- An exact value: a signed zero, NaN, a signed infinity, a linear value `±m × 2^e` with `m > 0`, or a logarithmic
value `±2^(k/16)`. -/
inductive Val
  | zero (s : Bool)
  | nan
  | inf (s : Bool)
  | bin (s : Bool) (m : Nat) (e : Int)
  | lg (s : Bool) (k : Int)
  deriving DecidableEq, Repr

/-- Is a value finite? -/
def Val.finite : Val → Bool
  | .nan => false | .inf _ => false | _ => true

def Val.isZero : Val → Bool
  | .zero _ => true | _ => false

def Val.sign : Val → Bool
  | .zero s => s | .nan => false | .inf s => s | .bin s _ _ => s | .lg s _ => s

def Val.withSign (t : Bool) : Val → Val
  | .zero _ => .zero t | .nan => .nan | .inf _ => .inf t | .bin _ m e => .bin t m e | .lg _ k => .lg t k

/-- The parameters of a linear format (Table 2-6): mantissa bits, exponent of the unit in the last place of the
subnormals, the largest finite value as a code, whether it has infinities, the canonical NaN. -/
structure Lin where
  mb   : Nat
  eb   : Nat
  emin : Int
  maxc : Nat
  hasInf : Bool
  nan  : Nat
  deriving DecidableEq, Repr

/-- Table 2-6. -/
def Fmt.lin : Fmt → Lin
  | .e4m3 | .mx4 => ⟨3, 4, -9, 0x7E, false, 0x7F⟩
  | .e5m2 | .mx5 => ⟨2, 5, -16, 0x7B, true, 0x7E⟩
  | .bf16 => ⟨7, 8, -133, 0x7F7F, true, 0x7FC0⟩
  | .fp64 => ⟨52, 11, -1074, 0x7FEFFFFFFFFFFFFF, true, 0x7FF8000000000000⟩
  | _ => ⟨23, 8, -149, 0x7F7FFFFF, true, 0x7FC00000⟩

/-- Magnitude bits of a linear code. -/
def Lin.magBits (p : Lin) : Nat := p.mb + p.eb

/-- The exact magnitude of a finite linear magnitude code, as (m, e). -/
def Lin.mag (p : Lin) (c : Nat) : Nat × Int :=
  let ef := c / 2 ^ p.mb
  if ef = 0 then (c % 2 ^ p.mb, p.emin) else (c % 2 ^ p.mb + 2 ^ p.mb, p.emin + ef - 1)

/-- The value of an element code of a linear format, before any block scale (R35). -/
def Lin.decode (p : Lin) (w : Nat) : Val :=
  let s := bit w p.magBits
  let c := w % 2 ^ p.magBits
  if c > p.maxc then
    if p.hasInf && c % 2 ^ p.mb == 0 then .inf s else .nan
  else if c = 0 then .zero s
  else let me := p.mag c; .bin s me.1 me.2

/-- Steps per octave of a logarithmic format, its code offset and its largest magnitude code (Table 2-3, R29). -/
def Fmt.logP : Fmt → Nat × Nat × Nat
  | .lg4 => (2, 4, 7)
  | .lg8b => (8, 64, 127)
  | .lgu8 => (16, 128, 254)
  | _ => (16, 64, 127)

/-- The value of a logarithmic element code, before its block scale (R29). -/
def Fmt.decodeLog (f : Fmt) (w : Nat) : Val :=
  let (d, off, _) := f.logP
  if f = .lgu8 then
    if w % 256 = 0 then .zero false else if w % 256 = 255 then .nan
    else .lg false (((w % 256 : Nat) : Int) - off)
  else
    let n := f.width - 1
    let c := w % 2 ^ n
    let s := bit w n
    if c = 0 then (if s then .nan else .zero false) else .lg s (((c : Int) - off) * ((16 / d : Nat) : Int))

/-- Multiply a value by 2^j. -/
def Val.scale2 (j : Int) : Val → Val
  | .bin s m e => .bin s m (e + j)
  | .lg s k => .lg s (k + 16 * j)
  | v => v

/-- The value of an element code `w` of format `f` in a block whose scale byte is `e` (127 where the format has no
scale); a scale of 255 makes every element NaN (R29, R30). Integer formats are not converted and read as NaN here. -/
def Fmt.decode (f : Fmt) (e w : Nat) : Val :=
  if f.isInt then .nan
  else
    let v := if f.isLog then f.decodeLog w else f.lin.decode w
    if f.scaled then (if e % 256 = 255 then .nan else v.scale2 (((e % 256 : Nat) : Int) - 127)) else v

/-- The exact magnitude of `2^(k/16)` as a linear (m, e): exact where 16 divides k; otherwise the floor with 96
fraction bits and a last bit set, which stands strictly between two such values, so that rounding it to any linear
format gives the correct result (the value is irrational). -/
def lgToBin (k : Int) : Nat × Int :=
  let q := k / 16
  let r := (k % 16).toNat
  if r = 0 then (1, q) else (2 * iroot16 (2 ^ (r + 16 * 96)) + 1, q - 97)

/-- Every finite nonzero value as a linear magnitude. -/
def Val.binMag : Val → Nat × Int
  | .bin _ m e => (m, e)
  | .lg _ k => lgToBin k
  | _ => (0, 0)

/-- Comparison of m₁·2^e₁ with m₂·2^e₂. -/
def cmpDy (m1 : Nat) (e1 : Int) (m2 : Nat) (e2 : Int) : Ordering :=
  let e := min e1 e2
  compare (m1 * 2 ^ (e1 - e).toNat) (m2 * 2 ^ (e2 - e).toNat)

/-- Comparison of the magnitudes of two finite values. -/
def Val.cmpMag (a b : Val) : Ordering :=
  match a, b with
  | .lg _ k, .lg _ l => compare k l
  | _, _ =>
    if a.isZero || b.isZero then compare (b2n (!a.isZero)) (b2n (!b.isZero))
    else cmpDy a.binMag.1 a.binMag.2 b.binMag.1 b.binMag.2

/-- Round m·2^e to the nearest multiple of 2^u, ties to even: the multiple. -/
def rneAt (m : Nat) (e u : Int) : Nat :=
  if u ≤ e then m * 2 ^ (e - u).toNat
  else
    let d := (u - e).toNat
    let q := m / 2 ^ d
    let r := m % 2 ^ d
    let h := 2 ^ (d - 1)
    if r > h || (r == h && q % 2 == 1) then q + 1 else q

/-- The unit in the last place of m·2^e at `p` mantissa bits. -/
def ulpExp (p : Lin) (m : Nat) (e : Int) : Int := max (e + Nat.log2 m - p.mb) p.emin

/-- The rounding a conversion asks for: to nearest, or stochastic with the 16-bit draw given (R40, R41). -/
inductive Rnd
  | nearest
  | draw (r : Nat)
  deriving DecidableEq, Repr

/-- One converted element: its code and whether it counts as saturated, flushed, non-finite (R55). -/
structure Enc where
  code : Nat
  sat  : Bool := false
  flu  : Bool := false
  nf   : Bool := false
  deriving DecidableEq, Repr

/-- A finite nonzero magnitude into a linear format (R37, R41, R51): the magnitude code, and sat, inf flags.
`sat` says that a value beyond range saturates (8-bit targets, or SAT set). -/
def Lin.encMag (p : Lin) (sat : Bool) (rnd : Rnd) (m : Nat) (e : Int) : Enc :=
  let u := ulpExp p m e
  let q := rneAt m e u
  let mx := p.mag p.maxc
  if cmpDy q u mx.1 mx.2 == .gt then
    if sat then { code := p.maxc, sat := true } else { code := p.maxc + 1, nf := true }
  else
    let q' := match rnd with
      | .nearest => q
      | .draw r =>
        if u ≤ e then q
        else
          let d := (u - e).toNat
          let lo := m / 2 ^ d
          if r < 65536 * (m % 2 ^ d) / 2 ^ d then lo + 1 else lo
    let c := (u - p.emin).toNat * 2 ^ p.mb + q'
    { code := min c p.maxc, flu := c == 0 }

/-- A value into a linear format (R51, R53, Table 2-9). -/
def Lin.encode (p : Lin) (sat : Bool) (rnd : Rnd) (v : Val) : Enc :=
  let sg (s : Bool) : Nat := if s then 2 ^ p.magBits else 0
  match v with
  | .zero s => { code := sg s }
  | .nan => { code := p.nan, nf := true }
  | .inf s => if p.hasInf then { code := sg s + p.maxc + 1, nf := true } else { code := p.nan, nf := true }
  | v =>
    let me := v.binMag
    let r := p.encMag sat rnd me.1 me.2
    { r with code := sg v.sign + r.code }

/-- `round(d × log2 magnitude)`, the nearest code step in logarithm; a tie (only from a logarithmic source) goes to the
even step (R38). -/
def logStep (d : Nat) (v : Val) : Int :=
  match v with
  | .lg _ k =>
    let w : Int := ((16 / d : Nat) : Int)
    let q := k / w
    let r := k % w
    if 2 * r > w || (2 * r == w && q % 2 == 1) then q + 1 else q
  | v =>
    let me := v.binMag
    ((Nat.log2 (me.1 ^ (2 * d)) : Int) + 1) / 2 + d * me.2

/-- `floor(d × log2 magnitude)`. -/
def logFloor (d : Nat) (v : Val) : Int :=
  match v with
  | .lg _ k => k / ((16 / d : Nat) : Int)
  | v => let me := v.binMag; (Nat.log2 (me.1 ^ d) : Int) + d * me.2

/-- `floor(2^(k/16) × 2^n)`, to 160 bits. -/
def powScaled (k : Int) (n : Nat) : Nat :=
  let me := lgToBin k
  let e := me.2 + n
  if e ≥ 0 then me.1 * 2 ^ e.toNat else me.1 / 2 ^ (-e).toNat

/-- P of R41 for a logarithmic target whose neighbours are 2^(k1/16) (or zero) and 2^(k2/16). A logarithmic source is taken
relative to 2^(k2/16), so that a ratio that is a power of two comes out exactly; any other ratio is irrational. -/
def logProb (v : Val) (k1 : Option Int) (k2 : Int) : Nat :=
  match v, k1 with
  | .lg _ k, none => powScaled (k - k2) 16
  | .lg _ k, some l =>
    let lo := powScaled (l - k2) 90
    65536 * (powScaled (k - k2) 90 - lo) / (2 ^ 90 - lo)
  | v, k1 =>
    let sh : Int := -k2 / 16
    let me := (v.scale2 sh).binMag
    let x := let e := me.2 + 90; if e ≥ 0 then me.1 * 2 ^ e.toNat else me.1 / 2 ^ (-e).toNat
    let hi := powScaled (k2 + 16 * sh) 90
    let lo := match k1 with | some k => powScaled (k + 16 * sh) 90 | none => 0
    if hi ≤ lo then 0 else 65536 * (x - lo) / (hi - lo)

/-- Is the value exactly a step of the grid with `d` steps per octave? -/
def onGrid (d : Nat) (v : Val) : Bool :=
  match v with
  | .lg _ k => k % ((16 / d : Nat) : Int) == 0
  | v => let me := v.binMag; me.1 == 2 ^ Nat.log2 me.1

/-- A finite nonzero magnitude, already divided by the block scale, into a logarithmic format (R38, R41, R51). -/
def Fmt.encLogMag (f : Fmt) (rnd : Rnd) (v : Val) : Enc :=
  let (d, off, cmax) := f.logP
  let n := logStep d v
  let top : Int := (cmax : Int) - off
  let w : Int := ((16 / d : Nat) : Int)
  let bot : Int := 1 - (off : Int)
  if n > top then { code := cmax, sat := true }
  else match rnd with
    | .nearest =>
      if n < bot || logFloor d v < bot then
        -- below the smallest code: the boundary to zero is m/2, and a magnitude at it or above it takes m
        if v.cmpMag (.lg false (bot * w - 16)) == .lt then { code := 0, flu := true } else { code := 1 }
      else { code := (n + off).toNat }
    | .draw r =>
      let fl := logFloor d v
      if fl ≥ top then { code := cmax }
      else if fl < bot then
        if r < logProb v none (bot * w) then { code := 1 } else { code := 0, flu := true }
      else if onGrid d v then { code := (fl + off).toNat }
      else if r < logProb v (some (fl * w)) ((fl + 1) * w) then { code := (fl + 1 + off).toNat }
      else { code := (fl + off).toNat }

/-- A value, already divided by the block scale, into a logarithmic format (R53, Table 2-9). -/
def Fmt.encLog (f : Fmt) (rnd : Rnd) (v : Val) : Enc :=
  let nanc := if f = .lgu8 then 0xFF else 2 ^ (f.width - 1)
  match v with
  | .zero _ => { code := 0 }
  | .nan => { code := nanc, nf := true }
  | .inf _ => { code := nanc, nf := true }
  | v =>
    if f = .lgu8 && v.sign then { code := nanc, nf := true }
    else
      let r := f.encLogMag rnd v
      if r.code = 0 then r else { r with code := r.code + (if v.sign then 2 ^ (f.width - 1) else 0) }

/-- A value into an element of format `f` whose block scale is 2^(e − 127): the conversion of R39 with the range rule of
R51. `satBit` is the descriptor's SAT, which acts on BF16, FP32 and FP64 only. -/
def Fmt.encode (f : Fmt) (satBit : Bool) (rnd : Rnd) (e : Nat) (v : Val) : Enc :=
  let v' := if f.scaled then v.scale2 (127 - (e : Int)) else v
  if f.isLog then f.encLog rnd v'
  else
    let eight := f.width == 8
    f.lin.encode (eight || satBit) rnd v'

/-- The larger of two finite magnitudes. -/
def maxMag (a b : Val) : Val := if a.cmpMag b == .lt then b else a

/-- The block scale byte of a list of values (R46, R47, R48, R50). -/
def Fmt.scaleOf (f : Fmt) (vs : List Val) : Nat :=
  let a := (vs.filter Val.finite).foldl maxMag (.zero false)
  if a.isZero then 0
  else
    let k : Int :=
      if f.isLog then
        let (d, off, cmax) := f.logP
        icdiv (logStep d a - ((cmax : Int) - off)) d
      else
        let p := f.lin
        let me := a.binMag
        let u := me.2 + Nat.log2 me.1 - p.mb
        let q := rneAt me.1 me.2 u
        let mx := p.mag p.maxc
        -- the smallest k with q·2^u ≤ mx·2^k
        let e0 : Int := u + Nat.log2 q - (mx.2 + Nat.log2 mx.1)
        if cmpDy q u mx.1 (mx.2 + e0) == .gt then e0 + 1 else e0
    (max 0 (min 254 (k + 127))).toNat

/-- The three counts of an operation (R55). -/
structure Cnt where
  sat : Nat := 0
  flu : Nat := 0
  nf  : Nat := 0
  deriving DecidableEq, Repr

def Cnt.add (a b : Cnt) : Cnt := ⟨a.sat + b.sat, a.flu + b.flu, a.nf + b.nf⟩

def Enc.cnt (e : Enc) : Cnt := ⟨b2n e.sat, b2n e.flu, b2n e.nf⟩

def sumCnt (l : List Enc) : Cnt := l.foldl (fun c e => c.add e.cnt) {}

/-- One block of values (one row piece of the format's block size; the whole row where it has no scale) into codes: the
scale byte, the codes, and the counts. `rs` gives each element's rounding. A scale block whose elements are all zero, of
either sign, takes the zero code throughout (R48). -/
def Fmt.encBlock (f : Fmt) (sat : Bool) (rs : List Rnd) (vs : List Val) : Nat × List Enc :=
  let e := if f.scaled then f.scaleOf vs else 127
  if f.scaled && vs.all Val.isZero then (e, vs.map (fun _ => { code := 0 }))
  else (e, (rs.zip vs).map (fun rv => f.encode sat rv.1 e rv.2))

/-- One row of values into a format: the scale bytes in ascending block order, and the element codes (R31, R46). -/
def Fmt.encRow (f : Fmt) (sat : Bool) (rs : List Rnd) (vs : List Val) : List Nat × List Enc :=
  if f.scaled then
    let bs := ((chunks f.block rs).zip (chunks f.block vs)).map (fun rv => f.encBlock sat rv.1 rv.2)
    (bs.map Prod.fst, (bs.map Prod.snd).flatten)
  else ([], (rs.zip vs).map (fun rv => f.encode sat rv.1 127 rv.2))

/-- The random draw of R42: the next state and the 16-bit draw. -/
def lfsrStep (st : Nat) : Nat := if st % 2 = 1 then (st / 2) ^^^ 0x80200003 else st / 2

def drawNext (st : Nat) : Nat := Nat.repeat lfsrStep 16 st

def drawOf (st : Nat) : Nat := drawNext st % 65536

/-- The seeded state of lane `i` (R44). -/
def seedLane (seed i : Nat) : Nat :=
  let v := (seed + (i + 1) * 0x9E3779B9) % 2 ^ 32
  if v = 0 then 1 else v

def seedLanes (n seed : Nat) : List Nat := (List.range n).map (seedLane seed)

/-- Draws for `n` elements in traversal order, element `i` on lane `i mod lanes` (R43, R45): the draws and the new lane
states. -/
def drawMany : Nat → Nat → Nat → List Nat → List Nat × List Nat
  | 0, _, _, st => ([], st)
  | n + 1, i, lanes, st =>
    let l := i % lanes
    let s' := drawNext (st.getD l 1)
    let (ds, st') := drawMany n (i + 1) lanes (st.set l s')
    (s' % 65536 :: ds, st')

/-- An exact value rounded to FP32 and back: the arithmetic result of the vector engine, with its counts. -/
def roundTo (f : Fmt) (sat : Bool) (v : Val) : Enc := f.encode sat .nearest 127 v

/-- The result of a computation that is exact or already carries its sticky information, as a value again. -/
def fp32 (w : Nat) : Val := Fmt.decode .fp32 127 w
def fp64 (w : Nat) : Val := Fmt.decode .fp64 127 w
def bf16 (w : Nat) : Val := Fmt.decode .bf16 127 w

/-- An exact dyadic number, signed: i × 2^e. -/
structure Dy where
  i : Int
  e : Int
  deriving DecidableEq, Repr

def Dy.zero : Dy := ⟨0, 0⟩

def Dy.add (a b : Dy) : Dy :=
  if a.i = 0 then b else if b.i = 0 then a
  else
    let e := min a.e b.e
    ⟨a.i * 2 ^ (a.e - e).toNat + b.i * 2 ^ (b.e - e).toNat, e⟩

def Dy.mul (a b : Dy) : Dy := ⟨a.i * b.i, a.e + b.e⟩

def Dy.neg (a : Dy) : Dy := ⟨-a.i, a.e⟩

/-- The exact dyadic of a finite linear value (a logarithmic one through its linear approximation). -/
def Val.dy (v : Val) : Dy :=
  let me := v.binMag
  ⟨if v.sign then -(me.1 : Int) else me.1, me.2⟩

/-- The value of an exact dyadic, a zero taking the sign given. -/
def Dy.val (zs : Bool) (a : Dy) : Val :=
  if a.i = 0 then .zero zs else .bin (decide (a.i < 0)) a.i.natAbs a.e

/-- IEEE 754 addition of values before rounding: exact, an exact zero sum of unlike signs being +0. -/
def Val.add (a b : Val) : Val :=
  match a, b with
  | .nan, _ => .nan
  | _, .nan => .nan
  | .inf s, .inf t => if s == t then .inf s else .nan
  | .inf s, _ => .inf s
  | _, .inf t => .inf t
  | .zero s, .zero t => .zero (s && t)
  | .zero _, v => v
  | v, .zero _ => v
  | x, y => (x.dy.add y.dy).val false

def Val.neg (a : Val) : Val := a.withSign (!a.sign)

/-- IEEE 754 multiplication before rounding. -/
def Val.mul (a b : Val) : Val :=
  let s := xor a.sign b.sign
  match a, b with
  | .nan, _ => .nan
  | _, .nan => .nan
  | .inf _, .zero _ => .nan
  | .zero _, .inf _ => .nan
  | .inf _, _ => .inf s
  | _, .inf _ => .inf s
  | .zero _, _ => .zero s
  | _, .zero _ => .zero s
  | .lg _ k, .lg _ l => .lg s (k + l)
  | x, y => (x.dy.mul y.dy).val s

/-- A quotient n/d of positive naturals as a value correct for any rounding of up to 100 bits: floor with a sticky
bit. -/
def quotVal (s : Bool) (n d : Nat) (e : Int) : Val :=
  let sh := 128 + Nat.log2 d
  let q := n * 2 ^ sh / d
  let r := n * 2 ^ sh % d
  .bin s (2 * q + (if r = 0 then 0 else 1)) (e - sh - 1)

/-- IEEE 754 division before rounding. -/
def Val.div (a b : Val) : Val :=
  let s := xor a.sign b.sign
  match a, b with
  | .nan, _ => .nan
  | _, .nan => .nan
  | .inf _, .inf _ => .nan
  | .inf _, _ => .inf s
  | _, .inf _ => .zero s
  | .zero _, .zero _ => .nan
  | .zero _, _ => .zero s
  | _, .zero _ => .inf s
  | x, y => let p := x.binMag; let q := y.binMag; quotVal s p.1 q.1 (p.2 - q.2)

/-- IEEE 754 square root before rounding. -/
def Val.sqrt (a : Val) : Val :=
  match a with
  | .nan => .nan
  | .zero s => .zero s
  | .inf s => if s then .nan else .inf false
  | x =>
    if x.sign then .nan
    else
      let p := x.binMag
      let (m, e) := if p.2 % 2 = 0 then (p.1, p.2) else (2 * p.1, p.2 - 1)
      let n := m * 2 ^ 256
      let q := isqrt n
      .bin false (2 * q + (if q * q = n then 0 else 1)) (e / 2 - 129)

/-- Ordering of two values that are not NaN (zeros of either sign equal). -/
def Val.cmp (a b : Val) : Ordering :=
  if a.isZero && b.isZero then .eq
  else match a, b with
    | .inf s, .inf t => if s == t then .eq else if s then .lt else .gt
    | .inf s, _ => if s then .lt else .gt
    | _, .inf t => if t then .gt else .lt
    | x, y =>
      let sx := x.sign && !x.isZero
      let sy := y.sign && !y.isZero
      if sx && sy then y.cmpMag x
      else if sx then .lt
      else if sy then .gt
      else x.cmpMag y

/-- Maximum (R540): +0 above −0, NaN where either is NaN. -/
def Val.max (a b : Val) : Val :=
  match a, b with
  | .nan, _ => .nan
  | _, .nan => .nan
  | .zero s, .zero t => .zero (s && t)
  | x, y => if x.cmp y == .lt then y else x

/-- Minimum (R540). -/
def Val.min (a b : Val) : Val :=
  match a, b with
  | .nan, _ => .nan
  | _, .nan => .nan
  | .zero s, .zero t => .zero (s || t)
  | x, y => if x.cmp y == .gt then y else x

end Sys2Proof.Machine
end

