-- ==== Sys2Proof/Machine/Code.lean ====
section
/-! DEFINITION. The shared code of R229 and R230 over GF(2^8), the CRC-32C of transfers and packets, and the CRC-16 of
descriptors. The check bytes of a word are kept as their difference from the computed ones (`delta`, a 32-bit number,
byte j being check symbol j), so a clean word has difference 0. -/

namespace Sys2Proof.Machine

/-- Multiplication by α = x in GF(2^8), field polynomial x^8 + x^4 + x^3 + x^2 + 1 (R229). -/
def gfX (a : Nat) : Nat := if a < 128 then 2 * a else (2 * a) ^^^ 0x11D

/-- Multiplication in GF(2^8). -/
def gfMulF : Nat → Nat → Nat → Nat
  | 0, _, _ => 0
  | f + 1, a, b => (if b % 2 = 1 then a else 0) ^^^ gfMulF f (gfX a) (b / 2)

def gfMul (a b : Nat) : Nat := gfMulF 8 a b

/-- α^n. -/
def gfPow (n : Nat) : Nat := Nat.repeat gfX n 1

/-- Coefficients c0..c3 of g(x) = (x + 1)(x + α)(x + α²)(x + α³), the leading 1 left out (R229). -/
def genPoly : List Nat :=
  let mulRoot (p : List Nat) (r : Nat) : List Nat :=
    ((0 :: p).zip (p.map (gfMul r) ++ [0])).map (fun ab => ab.1 ^^^ ab.2)
  (([1, 2, 4, 8] : List Nat).foldl mulRoot [1]).take 4

/-- x · r mod g for a remainder r of four symbols, lowest first. -/
def remX (g : List Nat) (r : List Nat) : List Nat :=
  let t := r.getD 3 0
  ((0 :: r.take 3).zip (g.map (gfMul t))).map (fun ab => ab.1 ^^^ ab.2)

/-- x^n mod g as four symbols. -/
def powMod (n : Nat) : List Nat := Nat.repeat (remX genPoly) n [1, 0, 0, 0]

/-- Four symbols as one 32-bit number, symbol j at bits [8j + 7 : 8j]. -/
def pack4 (r : List Nat) : Nat := r.getD 0 0 + 256 * r.getD 1 0 + 65536 * r.getD 2 0 + 16777216 * r.getD 3 0

/-- The difference that marks poison: the coefficients of x^204 mod g(x) (R230). -/
def poisonDelta : Nat := pack4 (powMod 204)

/-- The change of the difference when data symbol `k` of a word is xored with `e` and its check bytes stay. -/
def dataErr (k e : Nat) : Nat := pack4 ((powMod (k + 4)).map (gfMul e))

/-- The syndrome S_i = δ(α^i) of a difference, i = 0 to 3. -/
def synd (d i : Nat) : Nat :=
  let a := gfPow i
  let r3 := bits d 24 8
  let r2 := bits d 16 8 ^^^ gfMul a r3
  let r1 := bits d 8 8 ^^^ gfMul a r2
  bits d 0 8 ^^^ gfMul a r1

/-- How a stored word decodes (Table 9-2): clean, corrected by xoring symbol `pos` (0 to 31 data, 32 to 35 check) with
`e`, poisoned, or uncorrectable. -/
inductive WordState
  | clean
  | corrected (pos e : Nat)
  | poisoned
  | uncorrectable
  deriving DecidableEq, Repr

/-- The first position p < n, counting up from `p`, whose locator `loc` = α^p fits the syndromes. -/
def findPos : Nat → Nat → Nat → Nat → Nat → Nat → Nat → Option Nat
  | 0, _, _, _, _, _, _ => none
  | n + 1, p, loc, s0, s1, s2, s3 =>
    if gfMul s0 loc = s1 && gfMul s1 loc = s2 && gfMul s2 loc = s3 then some p
    else findPos n (p + 1) (gfX loc) s0 s1 s2 s3

/-- Decoding a word from the difference of its check bytes (R230, Table 9-2). -/
def decodeDelta (d : Nat) : WordState :=
  if d = 0 then .clean
  else if d = poisonDelta then .poisoned
  else
    let s0 := synd d 0
    if s0 = 0 then .uncorrectable
    else match findPos 36 0 1 s0 (synd d 1) (synd d 2) (synd d 3) with
      | some p => .corrected (if p < 4 then 32 + p else p - 4) s0
      | none => .uncorrectable

/-- One byte into a reflected CRC-32C register. PRESUMED: the spec names CRC-32C and not its polynomial; 0x82F63B78 is
the reflected Castagnoli polynomial of that name. -/
def crc32cByte (c b : Nat) : Nat :=
  Nat.repeat (fun r => if r % 2 = 1 then (r / 2) ^^^ 0x82F63B78 else r / 2) 8 (c ^^^ b)

/-- CRC-32C of a byte string. -/
def crc32c (bs : List Byte) : Nat := (bs.foldl (fun c b => crc32cByte c b.toNat) 0xFFFFFFFF) ^^^ 0xFFFFFFFF

/-- One byte, most significant bit first, into a CRC-16 register with polynomial 0x1021. -/
def crc16Byte (c b : Nat) : Nat :=
  Nat.repeat (fun r => if r ≥ 0x8000 then ((2 * r) % 65536) ^^^ 0x1021 else 2 * r) 8 (c ^^^ (b * 256))

/-- CRC-16 of a byte string from an initial value. -/
def crc16 (init : Nat) (bs : List Byte) : Nat := bs.foldl (fun c b => crc16Byte c b.toNat) init

/-- One byte, most significant bit first, into a CRC-8 register with polynomial 0x07. -/
def crc8Byte (c b : Nat) : Nat := Nat.repeat (fun r => if r ≥ 0x80 then ((2 * r) % 256) ^^^ 0x07 else 2 * r) 8 (c ^^^ b)

/-- CRC-8 of a byte string. -/
def crc8 (bs : List Byte) : Nat := bs.foldl (fun c b => crc8Byte c b.toNat) 0

end Sys2Proof.Machine
end

