-- ==== Sys2Proof/Machine/Mem.lean ====
section
/-! DEFINITION. A store of code words: sparse bytes in one canonical form, and for each word whose check bytes do not
match its data the difference. A byte that nothing has written reads 0 (log entry 3). -/

namespace Sys2Proof.Machine

/-- A store: bytes by rising address, none zero; and (word number, difference) by rising word number, none zero. -/
structure Mem where
  cells : List Host.Cell
  errs  : List (Nat × Nat)
  deriving DecidableEq, Repr

/-- The store with nothing listed. -/
def Mem.empty : Mem := ⟨[], []⟩

/-- Are the keys of a list strictly rising? -/
def rising {α : Type} : List (Nat × α) → Bool
  | [] => true
  | [_] => true
  | a :: b :: l => decide (a.1 < b.1) && rising (b :: l)

/-- The canonical form: keys strictly rising, and no entry equal to what an unlisted key reads as. -/
def Mem.wf (m : Mem) : Bool :=
  rising m.cells && m.cells.all (fun c => c.2 != 0) && rising m.errs && m.errs.all (fun c => c.2 != 0)

/-- One stored byte; an unlisted byte reads 0. -/
def Mem.get (m : Mem) (a : Nat) : Byte :=
  match m.cells.find? (fun c => c.1 == a) with
  | some c => c.2
  | none => 0

/-- The difference of one word's check bytes. -/
def Mem.delta (m : Mem) (w : Nat) : Nat :=
  match m.errs.find? (fun c => c.1 == w) with
  | some c => c.2
  | none => 0

/-- Stored bytes, uncorrected. -/
def Mem.raw (m : Mem) (off len : Nat) : List Byte :=
  let near : Mem := ⟨m.cells.filter (fun c => off ≤ c.1 && c.1 < off + len), []⟩
  (List.range len).map (fun i => near.get (off + i))

/-- The nonzero bytes of a string as cells from address `off`. -/
def cellsOf : Nat → List Byte → List Host.Cell
  | _, [] => []
  | off, b :: bs => if b = 0 then cellsOf (off + 1) bs else (off, b) :: cellsOf (off + 1) bs

/-- A keyed list with the keys from `lo` to below `hi` replaced by `new`. -/
def splice {α : Type} (l : List (Nat × α)) (lo hi : Nat) (new : List (Nat × α)) : List (Nat × α) :=
  l.filter (fun c => c.1 < lo) ++ new ++ l.filter (fun c => hi ≤ c.1)

/-- Bytes put down as they are, check bytes not considered. -/
def Mem.put (m : Mem) (off : Nat) (bs : List Byte) : Mem :=
  { m with cells := splice m.cells off (off + bs.length) (cellsOf off bs) }

/-- The difference of word `w` set to `d`. -/
def Mem.setDelta (m : Mem) (w d : Nat) : Mem :=
  { m with errs := splice m.errs w (w + 1) (if d = 0 then [] else [(w, d)]) }

/-- How word `w` decodes (Table 9-2). -/
def Mem.state (m : Mem) (w : Nat) : WordState := decodeDelta (m.delta w)

/-- The 32 data bytes of word `w` as a reader receives them, corrected where the code corrects. -/
def Mem.word (m : Mem) (w : Nat) : List Byte :=
  let r := m.raw (32 * w) 32
  match m.state w with
  | .corrected p e => if p < 32 then updAt r p (fun b => b ^^^ BitVec.ofNat 8 e) else r
  | _ => r

/-- Is a word delivered poisoned (poisoned or uncorrectable)? -/
def WordState.bad : WordState → Bool
  | .poisoned => true | .uncorrectable => true | _ => false

/-- One byte as a reader receives it. -/
def Mem.byte (m : Mem) (a : Nat) : Byte :=
  match m.state (a / 32) with
  | .corrected p e => if p = a % 32 then m.get a ^^^ BitVec.ofNat 8 e else m.get a
  | _ => m.get a

/-- The words that a range of bytes touches. -/
def wordsOf (off len : Nat) : List Nat :=
  if len = 0 then [] else (List.range ((off + len - 1) / 32 - off / 32 + 1)).map (fun i => off / 32 + i)

/-- The listed words of a range, those whose check bytes differ. -/
def Mem.listedIn (m : Mem) (off len : Nat) : List Nat :=
  if len = 0 then [] else
    (m.errs.filter (fun c => off / 32 ≤ c.1 && c.1 ≤ (off + len - 1) / 32)).map Prod.fst

/-- Bytes as a reader receives them. -/
def Mem.read (m : Mem) (off len : Nat) : List Byte :=
  if m.listedIn off len = [] then m.raw off len
  else (List.range len).map (fun i => m.byte (off + i))

/-- Is any word of the range delivered poisoned? -/
def Mem.badIn (m : Mem) (off len : Nat) : Bool := (m.listedIn off len).any (fun w => (m.state w).bad)

/-- The numbers of words of the range that the code corrects, and the numbers of the words that are uncorrectable. -/
def Mem.correctedIn (m : Mem) (off len : Nat) : List Nat :=
  (m.listedIn off len).filter (fun w => match m.state w with | .corrected _ _ => true | _ => false)

def Mem.uncorrIn (m : Mem) (off len : Nat) : List Nat :=
  (m.listedIn off len).filter (fun w => m.state w == .uncorrectable)

/-- Word `w` corrected in place where the code corrects it. -/
def Mem.fix (m : Mem) (w : Nat) : Mem := (m.put (32 * w) (m.word w)).setDelta w 0

/-- A masked write's effect on the check bytes of a word it covers in part: clean or corrected becomes clean; poisoned or
uncorrectable becomes poisoned (R145, R231). -/
def Mem.touchPartial (m : Mem) (w : Nat) : Mem :=
  match m.state w with
  | .clean => m
  | .corrected _ _ => m.fix w
  | _ => m.setDelta w poisonDelta

/-- A write of bytes, clean: whole words get new check bytes, words covered in part follow R145. -/
def Mem.write (m : Mem) (off : Nat) (bs : List Byte) : Mem :=
  let len := bs.length
  let m1 := (m.listedIn off len).foldl (fun mm w =>
    if off ≤ 32 * w && 32 * w + 32 ≤ off + len then mm.setDelta w 0 else mm.touchPartial w) m
  m1.put off bs

/-- Make word `w` poisoned. -/
def Mem.poison (m : Mem) (w : Nat) : Mem := m.setDelta w poisonDelta

/-- A write whose bytes come with a poison mark: the words it touches become poisoned (R231). -/
def Mem.writeP (m : Mem) (off : Nat) (bs : List Byte) (bad : Bool) : Mem :=
  let m1 := m.write off bs
  if bad then (wordsOf off bs.length).foldl Mem.poison m1 else m1

/-- A run of zero bytes written clean over a range. -/
def Mem.zero (m : Mem) (off len : Nat) : Mem :=
  let m1 := (m.listedIn off len).foldl (fun mm w =>
    if off ≤ 32 * w && 32 * w + 32 ≤ off + len then mm.setDelta w 0 else mm.touchPartial w) m
  { m1 with cells := splice m1.cells off (off + len) [] }

/-- Bit errors put into a word: data byte `k` (0 to 31) or check byte `k − 32` xored with `e` (R430). -/
def Mem.flip (m : Mem) (w k e : Nat) : Mem :=
  if k < 32 then
    let a := 32 * w + k
    (m.put a [m.get a ^^^ BitVec.ofNat 8 e]).setDelta w (m.delta w ^^^ dataErr k e)
  else m.setDelta w (m.delta w ^^^ (e <<< (8 * (k - 32))))

end Sys2Proof.Machine
end

