-- ==== Sys2Proof/Machine/BlockState.lean ====
section
/-! DEFINITION. The state of one block (chapters 3 to 8 and 10): program state, sequencers, queues, tokens, descriptors,
scratchpad, accumulators, stationary sets, side memory, pins, and the instructions in flight. -/

namespace Sys2Proof.Machine

def seqOf : Ctx → Seq
  | .f => .f | .b => .b

/-- SRC of a block fault record (Table 18-7). -/
def srcOf : Seq → Nat
  | .a => 0 | .f => 1 | .b => 2

/-- Block program states (Table 7-3). -/
inductive BlkSt
  | idle | loaded | running | done | stopped | faulted
  deriving DecidableEq, Repr

/-- BLK_STATUS.STATE (Table 7-4). -/
def BlkSt.code : BlkSt → Nat
  | .idle => 0 | .loaded => 1 | .running => 2 | .done => 3 | .stopped => 4 | .faulted => 5

/-- A loop-stack entry (R222). -/
structure LoopE where
  start : Nat
  stop  : Nat
  left  : Nat
  deriving DecidableEq, Repr

/-- A sequencer: program counter, loop stack, and the word decoded and waiting to issue. -/
structure Seqr where
  pc    : Nat
  loops : List LoopE
  word  : Option Nat
  deriving DecidableEq, Repr

def Seqr.zero : Seqr := ⟨0, [], none⟩

/-- An instruction-memory word with its two stored parity bits, bit 0 over [31:0] and bit 1 over [63:32] (R199). -/
structure IWord where
  w   : Nat
  par : Nat
  deriving DecidableEq, Repr

/-- QCFG_n (Table 7-8). -/
structure QCfg where
  ctxB : Bool
  en   : Bool
  size : Nat
  base : Nat
  deriving DecidableEq, Repr

/-- A queue entry reserved in the ring: its first ring word, its length in words, and whether it is committed (R176). -/
structure QEnt where
  off   : Nat
  words : Nat
  done  : Bool
  job   : Option Nat
  deriving DecidableEq, Repr

/-- A queue: its configuration, the next ring word to reserve, and the entries not yet freed, oldest first. -/
structure Queue where
  cfg  : QCfg
  next : Nat
  ents : List QEnt
  deriving DecidableEq, Repr

def Queue.zero : Queue := ⟨⟨false, false, 0, 0⟩, 0, []⟩

/-- Accumulator formats (R95). -/
inductive AccF
  | fp32 | ext | wel
  deriving DecidableEq, Repr

/-- Tile families (R96). -/
inductive Fam
  | sum | max | min | ssq | wel
  deriving DecidableEq, Repr

/-- FAM of the wide-buffer header (Table 4-3). -/
def Fam.code : Fam → Nat
  | .sum => 0 | .max => 1 | .min => 2 | .ssq => 3 | .wel => 4

/-- An OPEN or CLOSING tile (R96). -/
structure Tile where
  base  : Nat
  m     : Nat
  af    : AccF
  fam   : Fam
  ctx   : Ctx
  steps : Nat            -- k-steps since the last spill
  terms : Nat
  past  : Bool           -- some stretch exceeded SPILL_K
  link  : Option Nat     -- byte address in LOCAL of the linked wide buffer
  poison : Bool
  flu   : Bool           -- operand counts of R58
  nf    : Bool
  closing : Bool
  deriving DecidableEq, Repr

/-- A stationary set of the twenty cells (R68): the operand pair, the layout, and for each of N columns its scale bytes and
its codes; in the mirrored layout the slice as k-rows 2 and 3 hold it (R79); the parity of each column's operand registers
(R85); and on the side of check cell 16 + c the row sums r(k, c) and magnitude sums q(k, c), as FP32 codes by column group and
k, and the check cells' own generation. -/
structure TSet where
  valid  : Bool
  pa     : Fmt
  pb     : Fmt
  mirror : Bool
  poison : Bool
  gen    : Nat
  k      : Nat
  cols   : List (List Nat × List Nat)
  flu    : Bool
  nf     : Bool
  copy   : List (List Nat × List Nat)
  par    : List Nat
  sums   : List (List (Nat × Nat))
  cgen   : Nat
  deriving DecidableEq, Repr

def TSet.invalid : TSet := ⟨false, .lg8f, .lg8f, false, false, 0, 0, [], false, false, [], [], [], 0⟩

/-- One A row held for the array: the job it belongs to, its row number in that job's tile, its scale bytes, codes, whether
a word of it was poisoned, and the parity of its operand registers (R85). -/
structure ARow where
  job    : Nat
  base   : Nat           -- base row of its tile
  row    : Nat
  scales : List Nat
  codes  : List Nat
  bad    : Bool
  par    : Nat
  deriving DecidableEq, Repr

/-- Array modes (Table 8-6). -/
inductive Mode
  | mul | l1 | l2sq | maxp | minp
  deriving DecidableEq, Repr

/-- What every row of a packed slab shares (R81). -/
structure PackKey where
  mode : Mode
  afmt : Fmt
  bfmt : Fmt
  ext  : Bool
  deriving DecidableEq, Repr

/-- A slab that has entered the array and awaits its verdict (R88): for each MM with rows in it the job, the base row of
its tile and the number of rows; its first row and its pass; and the column group in which a comparison, the parity or the
generation failed, none where all passed (R84 to R87). -/
structure Slab where
  parts : List (Nat × Nat × Nat)
  row   : Nat
  pass  : Nat
  fail  : Option Nat
  deriving DecidableEq, Repr

/-- The kinds of instruction in flight that later events act on. -/
inductive JobK
  | copy                 -- LD, ST, GTH, Q.PUSH, Q.POP: data movement
  | sca
  | coll
  | vec                  -- VOP, CVT, ROW
  | mm                   -- MM
  | acc                  -- VOP.ACC
  | bld
  | spl
  | rsm
  | sig                  -- TOK.SIG outstanding (R181, R220)
  deriving DecidableEq, Repr

/-- What an error completion or refusal carries to the block (R502). -/
structure ErrI where
  code : Nat
  sub  : Nat
  handle : Nat
  arg  : Nat
  spec : Nat
  node : Nat
  aux  : Nat := 0        -- ROW_MISS_INFO of a lookup that missed
  reads : List Nat := [] -- the slots that it and the lookups before it read
  deriving DecidableEq, Repr

/-- A streamed MM under way (R74): its B descriptor copy, K, N, next pass, passes in all, M, base row and A queue. -/
structure Strm where
  bd    : Nat            -- copy of descriptor BH
  key   : PackKey
  k     : Nat
  n     : Nat
  pass  : Nat
  passes : Nat
  m     : Nat
  base  : Nat
  aq    : Nat
  deriving DecidableEq, Repr

/-- An instruction issued and not complete: its identity, completion token, destination for STATUS, status flags
gathered, handles named, parts still outstanding, and what it waits for. -/
structure Job where
  id    : Nat
  seq   : Seq
  pc    : Nat
  word  : Nat
  kind  : JobK
  tok   : Option Nat
  dst   : Option Nat
  flags : Nat
  handles : List Nat
  rem   : Nat            -- parts outstanding: rows, transfers, packets, passes
  started : Bool         -- its accesses have begun (false while a pin grant is awaited, R265)
  done  : Bool           -- its completion condition of Table 7-6 holds
  err   : Option ErrI
  descs : List (Nat × Nat)   -- descriptor copies by handle (R185)
  awaits : List (Nat × Nat)  -- (handle, pin request) whose grant it waits for
  remote : Bool
  strm  : Option Strm
  drain : Option (Nat × Nat)  -- LAST: output handle, CHN
  wait  : Nat                 -- slabs of its tile still to pass before a spill may run (R103)
  got   : List (Nat × List (Byte × Bool))   -- bytes returned by remote parts or adders, by source address or row offset
  idx   : List (Nat × Nat)   -- index entries of GTH or SCA as read: 0 a row, 1 out of range, 2 poisoned; the index
  more  : List (Nat × Nat)   -- further output handles, each with its own status flags (R58, R188)
  packed : Bool              -- an MM whose rows went through the packer (R81)
  deriving DecidableEq, Repr

/-- A signal waiting on its fence (R181): the job standing for it and the earlier jobs it waits for. -/
structure Fence where
  job  : Nat
  tok  : Nat
  n    : Nat
  blk  : Nat
  before : List Nat
  seq  : Seq
  pc   : Nat
  sent : Bool
  deriving DecidableEq, Repr

/-- VPIN_h (Table 10-5) for a handle whose record is not all zero. -/
structure Pin where
  h      : Nat
  pinned : Bool
  pending : Bool
  slot   : Nat
  layer  : Nat
  ver    : Nat
  req    : Nat
  deriving DecidableEq, Repr

/-- The answer to a pin request. -/
inductive PinAns
  | waiting                          -- not yet at the binding
  | held (n k : Nat)                 -- held by a split binding of stack `n` being written, the `k`-th held there (R272)
  | granted (stack slot ver : Nat)
  | refused (sub : Nat)
  deriving DecidableEq, Repr

/-- A pin request awaiting its answer (R263): the handle, the binding, whether superseded, and the instruction that made it. -/
structure PinReq where
  req   : Nat
  h     : Nat
  layer : Nat
  sup   : Bool
  seq   : Seq
  pc    : Nat
  ans   : PinAns
  deriving DecidableEq, Repr

/-- A pin release on its way: it takes effect once the jobs listed have completed (R264). -/
structure PinRel where
  h     : Nat
  layer : Nat
  slot  : Nat
  after : List Nat
  deriving DecidableEq, Repr

/-- What PRG_START took from the image header. -/
structure RunHdr where
  aLen : Nat
  xLen : Nat
  xEntryB : Nat
  wdog : Nat
  secure : Bool
  deriving DecidableEq, Repr

/-- The clock of a block in an ARMED region (R446). -/
inductive BClk
  | gated | admitted | ramping | running
  deriving DecidableEq, Repr

structure Block where
  st    : BlkSt
  stopping : Bool                -- PRG_STOP or a slice stop drains the block
  fault : Nat
  seqA  : Seqr
  seqF  : Seqr
  seqB  : Seqr
  kept  : List Byte              -- first 256 bytes of the image, kept by Thallus (R163)
  run   : RunHdr
  imA   : List IWord
  imX   : List IWord
  descs : List Nat               -- 256 descriptors of 512 bits
  toks  : List Nat
  lcr   : List Nat
  vimm  : List Nat
  qs    : List Queue
  spad  : Mem
  sec   : Bool
  wiping : Bool
  clearSec : Bool                -- SEC clears when the wipe ends
  wipeStart : Bool               -- a start message waits on the wipe
  scrubAt : Nat                  -- next scratchpad word to scrub
  acc   : Mem                    -- 1,024 rows of 32 FP32 entries
  tiles : List Tile
  active : TSet
  shadow : TSet
  loading : Option (Nat × TSet)  -- BLD job and the set it loads
  gen   : Nat
  packKey : PackKey
  packed : List ARow
  packT : Nat                    -- STC ticks at which the hold began
  slabs : List Slab
  drains : List Nat              -- jobs whose tile is CLOSING, oldest first
  sideV : Mem                    -- 8,192 slots of 8 bytes: V0, V1
  sideT : Mem                    -- 8,192 tags of 8 bytes: key, kind, valid
  rowMiss : Nat
  arrCtl : Nat
  markF : Nat
  markB : Nat
  lanes : List Nat
  maskF : List Nat
  maskB : List Nat
  ctr   : List Nat               -- the 40 counters of Table 15-11, level 0
  jobs  : List Job
  nextJob : Nat
  fences : List Fence
  pins  : List Pin
  pinq  : List PinReq
  rels  : List PinRel
  nextReq : Nat
  clearing : Bool                -- FLT_CLEAR has come and waits for the answers of pin requests (R271)
  wd    : Nat                    -- BLOCK_CLK cycles counted by the stream watchdog
  clk   : BClk
  idle  : Nat                    -- BLOCK_CLK cycles without work in an ARMED region
  nocOut : List (Nat × Nat)      -- next sequence number by destination (R159)
  nocIn  : List (Nat × Nat)      -- expected sequence number by source
  arrInj : Option (Nat × Nat)    -- an injected error awaits the next slab: its ARG, and the free choice of its place (R430)
  lastFault : Option (Nat × Nat × Nat)   -- code, INFO, DETAIL of the latest fault
  evs   : List (Nat × Nat × Nat)   -- events found and not yet forwarded: code, INFO, DETAIL
  corrNow : List Nat             -- words corrected this STC second: scratchpad, accumulator, side memory
  deriving DecidableEq, Repr

/-- 36 lanes of R12 by 4 regions. -/
def numBlocks : Nat := 144

/-- An empty queue set. -/
def queues0 : List Queue := List.replicate 8 Queue.zero

/-- All 128 bits set. -/
def maskAll : Nat := 2 ^ 128 - 1

/-- A block right after a package reset (R6 and the reset columns of its tables; what they leave undefined reads 0, log
entry 4). -/
def Block.reset : Block where
  st := .idle
  stopping := false
  fault := 0
  seqA := Seqr.zero
  seqF := Seqr.zero
  seqB := Seqr.zero
  kept := []
  run := ⟨0, 0, 0, 0, false⟩
  imA := []
  imX := []
  descs := List.replicate 256 0
  toks := List.replicate 64 0
  lcr := List.replicate 8 0
  vimm := List.replicate 16 0
  qs := queues0
  spad := Mem.empty
  sec := false
  wiping := false
  clearSec := false
  wipeStart := false
  scrubAt := 0
  acc := Mem.empty
  tiles := []
  active := TSet.invalid
  shadow := TSet.invalid
  loading := none
  gen := 0
  packKey := ⟨.mul, .lg8f, .lg8f, false⟩
  packed := []
  packT := 0
  slabs := []
  drains := []
  sideV := Mem.empty
  sideT := Mem.empty
  rowMiss := 0xC00000000000
  arrCtl := 0x0801
  markF := 0
  markB := 0
  lanes := seedLanes 64 0
  maskF := List.replicate 8 maskAll
  maskB := List.replicate 8 maskAll
  ctr := List.replicate 40 0
  jobs := []
  nextJob := 0
  fences := []
  pins := []
  pinq := []
  rels := []
  nextReq := 0
  clearing := false
  wd := 0
  clk := .gated
  idle := 0
  nocOut := []
  nocIn := []
  arrInj := none
  lastFault := none
  evs := []
  corrNow := [0, 0, 0]

end Sys2Proof.Machine
end

