-- ==== Sys2Proof/Machine/Desc.lean ====
section
/-! DEFINITION. Tensor descriptors (Table 7-12): fields, checksum, field checks of R185, element addresses, DESC.SET
field writes, and the status word. -/

namespace Sys2Proof.Machine

/-- The fields of Table 7-12 as (low bit, width). -/
structure Fd where
  lo : Nat
  w  : Nat
  deriving DecidableEq, Repr

def fAddr : Fd := ⟨0, 48⟩
def fSpace : Fd := ⟨48, 3⟩
def fStack : Fd := ⟨51, 4⟩
def fFmt : Fd := ⟨55, 4⟩
def fRank : Fd := ⟨59, 3⟩
def fSat : Fd := ⟨62, 1⟩
def fStrict : Fd := ⟨63, 1⟩
def fScale : Fd := ⟨64, 48⟩
def fIdx : Fd := ⟨112, 8⟩
def fIdxEn : Fd := ⟨120, 1⟩
def fVer : Fd := ⟨121, 2⟩
def fISpace : Fd := ⟨123, 3⟩
def fSize (d : Nat) : Fd := ⟨128 + 24 * d, 24⟩
def fStride (d : Nat) : Fd := if d = 0 then ⟨256, 16⟩ else ⟨272 + 36 * (d - 1), 36⟩
def fNode : Fd := ⟨416, 16⟩
def fLayer : Fd := ⟨432, 16⟩
def fStatus : Fd := ⟨448, 32⟩
def fVpitch : Fd := ⟨480, 16⟩
def fChk : Fd := ⟨496, 16⟩

/-- A field of a word. -/
def Fd.get (f : Fd) (d : Nat) : Nat := bits d f.lo f.w

/-- A word with a field replaced. -/
def Fd.set (f : Fd) (d v : Nat) : Nat :=
  d - (bits d f.lo f.w) * 2 ^ f.lo + (v % 2 ^ f.w) * 2 ^ f.lo

/-- CHK of a descriptor: the CRC-16 over bytes 0 to 55 and 60 to 61 (R184). -/
def descChk (d : Nat) : Nat :=
  let bs := toLE 64 d
  crc16 0xFFFF (bs.take 56 ++ (bs.drop 60).take 2)

/-- A descriptor with its CHK recomputed (R184). -/
def descFix (d : Nat) : Nat := fChk.set d (descChk d)

def descOk (d : Nat) : Bool := fChk.get d == descChk d

def dRank (d : Nat) : Nat := fRank.get d
def dSize (d i : Nat) : Nat := (fSize i).get d + 1
def dStride (d i : Nat) : Nat := (fStride i).get d
def dSizes (d : Nat) : List Nat := (List.range (dRank d)).map (dSize d)
def dStrides (d : Nat) : List Nat := (List.range (dRank d)).map (dStride d)
def dFmt (d : Nat) : Option Fmt := Fmt.ofCode (fFmt.get d)
/-- The format of a descriptor whose format code passed the checks. -/
def dF (d : Nat) : Fmt := (dFmt d).getD .fp32
def dAddr (d : Nat) : Nat := fAddr.get d
def dScale (d : Nat) : Nat := fScale.get d
def dSpace (d : Nat) : Nat := fSpace.get d
def dSatB (d : Nat) : Bool := fSat.get d == 1
def dStrict (d : Nat) : Bool := fStrict.get d == 1
def dVer (d : Nat) : Nat := fVer.get d
def dN0 (d : Nat) : Nat := dSize d 0

def prodL (l : List Nat) : Nat := l.foldl (· * ·) 1

/-- The product of the outer sizes. -/
def dOuter (d : Nat) : Nat := prodL ((dSizes d).drop 1)

def dElems (d : Nat) : Nat := prodL (dSizes d)

/-- The inner space code that addresses are read in: SPACE, or ISPACE where SPACE is REMOTE. -/
def dISpace (d : Nat) : Nat := if dSpace d = 5 then fISpace.get d else dSpace d

/-- Bytes of a space (Table 7-13), the size of its whole address range. -/
def spaceBytes : Nat → Nat
  | 0 => 2 ^ 21
  | 1 => 144 * 2 ^ 21
  | 2 => 4 * 2 ^ 24
  | 3 => 864 * 2 ^ 30
  | 4 => 72 * 2 ^ 30
  | _ => 0

/-- Row index lists in traversal order: every combination of the outer indices, dimension 1 fastest. -/
def outerOffs : List (Nat × Nat) → List Nat
  | [] => [0]
  | (n, st) :: rest => (outerOffs rest).flatMap (fun o => (List.range n).map (fun i => o + i * st))

/-- Element offsets of each row start, in elements, in traversal order (R183). -/
def dRowOffs (d : Nat) : List Nat := outerOffs (((dSizes d).zip (dStrides d)).drop 1)

/-- The largest element offset. -/
def dMaxOff (d : Nat) : Nat := ((dSizes d).zip (dStrides d)).foldl (fun a ns => a + (ns.1 - 1) * ns.2) 0

/-- Byte offset of an element offset at the format's width. -/
def eByte (f : Fmt) (o : Nat) : Nat := o * f.width / 8

/-- Scale bytes of the whole tensor (R34). -/
def dScaleBytes (d : Nat) : Nat :=
  if (dF d).scaled then cdiv (dN0 d) (dF d).block * dOuter d else 0

/-- The roles that descriptors are checked for: the spaces they may name, the formats they accept, and whether they are a
destination or the indexed operand. -/
structure Role where
  spaces : List Nat
  fmts : List Fmt
  dest : Bool := false
  indexed : Bool := false

/-- Every format. -/
def allFmts : List Fmt :=
  [.fp32, .bf16, .fp64, .e4m3, .e5m2, .mx4, .mx5, .lg4, .lg8f, .lg8b, .lgu8, .int32, .int64]

/-- The unit a space's address must stay inside: an address of BLOCK or REGION may not run past its own block's or
region's range. -/
def spaceUnit : Nat → Nat
  | 1 => 2 ^ 21
  | 2 => 2 ^ 24
  | _ => 0

/-- Is the byte range [a, b] inside a space, and inside one block or region of it? -/
def inSpace (sp a b : Nat) : Bool :=
  decide (b < spaceBytes sp) && (spaceUnit sp == 0 || a / spaceUnit sp == b / spaceUnit sp)

/-- The field checks of R185 in their order; 0 where all pass, else the number of the first that fails. `idx` is the
index descriptor where the operand is indexed. -/
def descCheck (r : Role) (idx : Nat) (d : Nat) : Nat :=
  match dFmt d with
  | none => 1
  | some f =>
    if !(r.fmts.contains f) then 1
    else if dRank d = 0 || dRank d > 5 then 2
    else if dStride d 0 = 0
        || (f.scaled && (dStride d 0 != 1 || (f == .lg4 && ((dStrides d).drop 1).any (fun s => s % 2 == 1)))) then 3
    else if dSpace d > 5 || !(r.spaces.contains (dSpace d)) || (dSpace d == 5 && fISpace.get d > 4)
        || (dISpace d == 4 && fStack.get d > 11) then 4
    else if f.width ≥ 16 && dAddr d % (f.width / 8) != 0 then 5
    else if !(inSpace (dISpace d) (dAddr d) (dAddr d + eByte f (dMaxOff d) + (f.width / 8 - 1)))
        || (f.scaled && !(inSpace (dISpace d) (dScale d) (dScale d + (dScaleBytes d - 1)))) then 6
    else if r.dest && ((dSizes d).zip (dStrides d)).any (fun ns => ns.1 > 1 && ns.2 == 0) then 7
    else if (fIdxEn.get d == 1) != r.indexed then 8
    else if r.indexed && !((dF idx == .int32 || dF idx == .int64) && dRank idx == 1
        && (dFmt idx).isSome && [0, 2, 3, 4].contains (dSpace idx)) then 8
    else if dVer d > 1 then 9
    else 0

/-- Is a descriptor a column view (R256)? -/
def isColumnView (d : Nat) : Bool := dRank d ≥ 2 && dStride d 1 == 1 && dStride d 0 ≥ dSize d 1

/-- DESC.SET field codes (Table 8-19). -/
def setField : Nat → Option Fd
  | 0 => some ⟨0, 32⟩ | 1 => some ⟨32, 16⟩ | 2 => some ⟨64, 32⟩ | 3 => some ⟨96, 16⟩
  | 4 => some fSpace | 5 => some fStack | 6 => some fFmt | 7 => some fRank | 8 => some fSat | 9 => some fStrict
  | 10 => some fIdx | 11 => some fIdxEn | 12 => some fVer | 13 => some fISpace | 14 => some fNode | 15 => some fLayer
  | 16 => some fVpitch
  | 17 => some (fSize 0) | 18 => some (fSize 1) | 19 => some (fSize 2) | 20 => some (fSize 3) | 21 => some (fSize 4)
  | 22 => some (fStride 0) | 23 => some (fStride 1) | 24 => some (fStride 2) | 25 => some (fStride 3)
  | 26 => some (fStride 4)
  | 27 => some fStatus
  | _ => none

/-- STATUS after a completion: flags ORed in and COMPLETIONS one higher, stopping at 0xFFFF (R188, Table 7-14). -/
def statusAfter (d flags : Nat) : Nat :=
  let st := fStatus.get d
  let c := min 0xFFFF (st / 65536 + 1)
  fStatus.set d (c * 65536 + (st % 65536) ||| flags)

/-- The descriptor's addresses moved to version slot 1 (R189). -/
def toSlot (d slot : Nat) : Nat :=
  if slot = 0 then d
  else
    let p := fVpitch.get d * 2 ^ 20
    fScale.set (fAddr.set d (dAddr d + p)) (dScale d + p)

end Sys2Proof.Machine
end

