-- ==== Sys2Proof/Machine/Tensor.lean ====
section
/-! DEFINITION. Reading and writing tensors through descriptors: the byte runs that a descriptor names, elements with their
poison marks, scale bytes (R31 to R34), and their packing into bytes and queue entries (R176). -/

namespace Sys2Proof.Machine

/-- A byte with its poison mark: whether the word it comes from, or goes to, is poisoned. -/
abbrev PByte := Byte × Bool

/-- An element code with its poison mark. -/
abbrev El := Nat × Bool

/-- One row of a tensor: its scale bytes and its elements. -/
structure TRow where
  scales : List El
  elems  : List El
  deriving DecidableEq, Repr

/-- A tensor's content in traversal order: its format, its row length and its rows. -/
structure Tens where
  fmt  : Fmt
  n0   : Nat
  rows : List TRow
  deriving DecidableEq, Repr

def Tens.bad (t : Tens) : Bool :=
  t.rows.any (fun r => r.elems.any Prod.snd || r.scales.any Prod.snd)

/-- Bytes of a packed row of `n` elements (R33). -/
def rowBytes (f : Fmt) (n : Nat) : Nat := cdiv (n * f.width) 8

/-- Scale bytes of a row of `n` elements (R34). -/
def rowScales (f : Fmt) (n : Nat) : Nat := if f.scaled then cdiv n f.block else 0

/-- The byte runs (address, length) of the row whose first element lies `o` elements past ADDR. -/
def rowRuns (d o : Nat) : List (Nat × Nat) :=
  let f := dF d
  let st := dStride d 0
  if st = 1 then [(dAddr d + eByte f o, rowBytes f (dN0 d))]
  else (List.range (dN0 d)).map (fun i => (dAddr d + eByte f (o + i * st), f.width / 8))

/-- The byte run of row `r`'s scale bytes (R34). -/
def scaleRuns (d r : Nat) : List (Nat × Nat) :=
  let n := rowScales (dF d) (dN0 d)
  if n = 0 then [] else [(dScale d + r * n, n)]

/-- Every byte run a descriptor names, elements then scales. -/
def dRuns (d : Nat) : List (Nat × Nat) :=
  (dRowOffs d).flatMap (rowRuns d) ++ (List.range (if (dF d).scaled then dOuter d else 0)).flatMap (scaleRuns d)

/-- Element codes from packed bytes: two to a byte in LG4 (R33), little-endian otherwise (R5). -/
def unpack (f : Fmt) (n : Nat) (bs : List PByte) : List El :=
  if f = .lg4 then
    (bs.flatMap (fun b => [(b.1.toNat % 16, b.2), (b.1.toNat / 16, b.2)])).take n
  else (chunks (f.width / 8) bs).map (fun c => (ofLE (c.map Prod.fst), c.any Prod.snd))

/-- Pairs of LG4 codes as bytes, a last odd one with a zero high nibble (R33). -/
def pack4s : List El → List PByte
  | [] => []
  | [a] => [(BitVec.ofNat 8 (a.1 % 16), a.2)]
  | a :: b :: l => (BitVec.ofNat 8 (a.1 % 16 + 16 * (b.1 % 16)), a.2 || b.2) :: pack4s l

/-- Packed bytes of element codes. -/
def packEls (f : Fmt) (es : List El) : List PByte :=
  if f = .lg4 then pack4s es else es.flatMap (fun e => (toLE (f.width / 8) e.1).map (fun b => (b, e.2)))

def byteEls (es : List El) : List PByte := es.map (fun e => (BitVec.ofNat 8 e.1, e.2))

/-- A tensor read through a byte reader. -/
def readTens (rd : Nat → Nat → List PByte) (d : Nat) : Tens :=
  let f := dF d
  let offs := dRowOffs d
  { fmt := f, n0 := dN0 d,
    rows := (offs.zip (List.range offs.length)).map (fun or =>
      { scales := (scaleRuns d or.2).flatMap (fun r => (rd r.1 r.2).map (fun b => (b.1.toNat, b.2))),
        elems := unpack f (dN0 d) ((rowRuns d or.1).flatMap (fun r => rd r.1 r.2)) }) }

/-- A run of bytes to write. -/
abbrev Run := Nat × List PByte

/-- Adjacent runs joined, so that a word written whole is written in one write. -/
def coalesce : List Run → List Run
  | [] => []
  | [r] => [r]
  | (a, x) :: l =>
    match coalesce l with
    | (b, y) :: t => if a + x.length = b then (a, x ++ y) :: t else (a, x) :: (b, y) :: t
    | [] => [(a, x)]

/-- The write runs of one row of codes: the row's element bytes, all of them where the row is contiguous. -/
def rowWrites (d o : Nat) (es : List El) : List Run :=
  let f := dF d
  let st := dStride d 0
  if st = 1 then [(dAddr d + eByte f o, packEls f es)]
  else ((List.range es.length).zip es).map (fun ie => (dAddr d + eByte f (o + ie.1 * st), packEls f [ie.2]))

/-- The write runs of one row of which only the elements with a set flag are written (linear formats). -/
def rowWritesMasked (d o : Nat) (es : List (El × Bool)) : List Run :=
  let f := dF d
  let st := dStride d 0
  (((List.range es.length).zip es).filter (fun ie => ie.2.2)).map
    (fun ie => (dAddr d + eByte f (o + ie.1 * st), packEls f [ie.2.1]))

/-- The write runs of a tensor through a descriptor of its shape. -/
def tensWrites (d : Nat) (t : Tens) : List Run :=
  let offs := dRowOffs d
  let el := ((offs.zip t.rows).flatMap (fun or => rowWrites d or.1 or.2.elems))
  let sc := if t.fmt.scaled then
      ((List.range t.rows.length).zip t.rows).flatMap (fun ir =>
        (scaleRuns d ir.1).map (fun r => (r.1, byteEls ir.2.scales)))
    else []
  coalesce el ++ coalesce sc

/-- Bytes of a store with their poison marks. -/
def Mem.readP (m : Mem) (off len : Nat) : List PByte :=
  if m.listedIn off len = [] then (m.raw off len).map (fun b => (b, false))
  else (List.range len).map (fun i => (m.byte (off + i), (m.state ((off + i) / 32)).bad))

/-- Bytes with poison marks written: the words that hold a marked byte become poisoned (R231). -/
def Mem.writePB (m : Mem) (off : Nat) (bs : List PByte) : Mem :=
  let m1 := m.write off (bs.map Prod.fst)
  if bs.any Prod.snd then
    ((wordsOf off bs.length).filter (fun w =>
      ((List.range bs.length).zip bs).any (fun ib => ib.2.2 && (off + ib.1) / 32 == w))).foldl Mem.poison m1
  else m1

def Mem.writeRuns (m : Mem) (rs : List Run) : Mem := rs.foldl (fun mm r => mm.writePB r.1 r.2) m

/-- The decoded values of one row: each element under its scale byte, with its poison mark. A poisoned scale byte poisons
every element of its block. -/
def rowVals (f : Fmt) (r : TRow) : List (Val × Bool) :=
  if f.scaled then
    ((chunks f.block r.elems).zip r.scales).flatMap (fun cs =>
      cs.1.map (fun e => (f.decode cs.2.1 e.1, e.2 || cs.2.2)))
  else r.elems.map (fun e => (f.decode 127 e.1, e.2))

/-- A queue entry's header word from its fields (Table 7-9). -/
def entHeader (f : Fmt) (n0 n1 : Nat) (poison : Bool) : List Byte :=
  toLE 32 ((n0 - 1) % 2 ^ 24 + (n1 % 2 ^ 25) * 2 ^ 24 + f.code * 2 ^ 49 + b2n poison * 2 ^ 53)

/-- Words of an entry of `n1` rows of `n0` elements (R176). -/
def entWords (f : Fmt) (n0 n1 : Nat) : Nat :=
  1 + cdiv (n1 * rowBytes f n0) 32 + cdiv (n1 * rowScales f n0) 32

def padTo32 (bs : List PByte) : List PByte :=
  bs ++ List.replicate (cdiv bs.length 32 * 32 - bs.length) ((0 : Byte), false)

/-- The bytes of a queue entry: header, elements, scales, each part padded to a word (R176). -/
def entBytes (t : Tens) : List PByte :=
  ((entHeader t.fmt t.n0 t.rows.length t.bad).map (fun b => (b, false)))
    ++ padTo32 (t.rows.flatMap (fun r => packEls t.fmt r.elems))
    ++ padTo32 (t.rows.flatMap (fun r => byteEls r.scales))

/-- A queue entry's header fields: format, N0, N1, POISON; none where FMT is reserved. -/
def entFields (bs : List Byte) : Option (Fmt × Nat × Nat × Bool) :=
  let h := ofLE (bs.take 8)
  (Fmt.ofCode (bits h 49 4)).map (fun f => (f, bits h 0 24 + 1, bits h 24 25, bit h 53))

/-- The tensor of a queue entry from its bytes after the header. -/
def entTens (f : Fmt) (n0 n1 : Nat) (poison : Bool) (bs : List PByte) : Tens :=
  let eb := rowBytes f n0
  let sb := rowScales f n0
  let es := bs.take (n1 * eb)
  let ss := (bs.drop (32 * cdiv (n1 * eb) 32)).take (n1 * sb)
  { fmt := f, n0 := n0,
    rows := (List.range n1).map (fun i =>
      { scales := ((ss.drop (i * sb)).take sb).map (fun b => (b.1.toNat, b.2 || poison)),
        elems := (unpack f n0 ((es.drop (i * eb)).take eb)).map (fun e => (e.1, e.2 || poison)) }) }

end Sys2Proof.Machine
end

