-- ==== Sys2Proof/Machine/Isa.lean ====
section
/-! DEFINITION. Instruction words of the two streams (chapter 8): fields, opcodes, illegal encodings, and the faults raised
at decode. -/

namespace Sys2Proof.Machine

/-- What an instruction word is, by its stream's opcode map (Table 8-2). -/
inductive Op
  | illegal | loop | endl | tokWait | tokSig | ctxMark | bld | swp | spl | rsm | cvt | qPush | qPop
  | row (k : Nat)
  | ld | st | gth | sca | coll | descSet
  | vop (k : Nat) (bf : Bool)
  | mm (mode : Nat)
  deriving DecidableEq, Repr

/-- The operation of a word in a stream (R196, R197, Table 8-2). -/
def opOf (q : Seq) (w : Nat) : Op :=
  let o := bits w 56 8
  if q ≠ .a && bits w 62 2 = 3 then .mm (bits w 58 3)
  else if o = 1 then .loop
  else if o = 2 then .endl
  else if o = 3 then .tokWait
  else if o = 4 then .tokSig
  else if q = .a then
    (if o = 0x20 then .ld else if o = 0x21 then .st else if o = 0x22 then .gth else if o = 0x23 then .sca
     else if o = 0x24 then .coll else if o = 0x25 then .descSet else .illegal)
  else
    (if o = 5 then .ctxMark else if o = 8 then .bld else if o = 9 then .swp else if o = 0x0A then .spl
     else if o = 0x0B then .rsm else if o = 0x0C then .cvt else if o = 0x0D then .qPush else if o = 0x0E then .qPop
     else if 0x10 ≤ o && o ≤ 0x1A then .row (o - 0x10)
     else if 0x40 ≤ o && o ≤ 0x5C then .vop (o - 0x40) false
     else if 0x60 ≤ o && o ≤ 0x7A then .vop (o - 0x60) true
     else .illegal)

/-- Array format codes (Table 8-7). -/
def arrFmt : Nat → Fmt
  | 0 => .bf16 | 1 => .e4m3 | 2 => .e5m2 | 3 => .mx4 | 4 => .mx5 | 5 => .lg4 | 6 => .lg8f | _ => .lg8b

def isLgOp (f : Fmt) : Bool := f == .lg4 || f == .lg8f || f == .lg8b

def isFp8 (f : Fmt) : Bool := f == .e4m3 || f == .e5m2 || f == .mx4 || f == .mx5

/-- The operand pairs of Table 3-2, in either order (R66). -/
def pairOk (a b : Fmt) : Bool :=
  (isLgOp a && isLgOp b) || (isFp8 a && isFp8 b) || (a == .bf16 && (b == .bf16 || isFp8 b)) || (b == .bf16 && isFp8 a)

/-- The K-step of a pair in product layout (Table 3-1). -/
def kStep (a b : Fmt) : Nat :=
  if a = .lg4 && b = .lg4 then 64 else if a = .bf16 || b = .bf16 then 16 else 32

/-- The stationary K of the distance modes (Table 3-6). -/
def kStepD (a : Fmt) : Nat := if a = .bf16 then 4 else 8

def modeOf : Nat → Mode
  | 0 => .mul | 1 => .l1 | 2 => .l2sq | 3 => .maxp | _ => .minp

/-- MM fields (Table 8-6). -/
structure MmF where
  strm : Bool
  mode : Nat
  afmt : Fmt
  ext  : Bool
  init : Bool
  last : Bool
  chn  : Nat
  aq   : Nat
  base : Nat
  m    : Nat
  out  : Nat
  te   : Bool
  tok  : Nat
  bh   : Nat
  k    : Nat
  bfmt : Nat
  deriving DecidableEq, Repr

def mmF (w : Nat) : MmF where
  strm := bit w 61
  mode := bits w 58 3
  afmt := arrFmt (bits w 55 3)
  ext := bit w 54
  init := bit w 53
  last := bit w 52
  chn := bits w 50 2
  aq := bits w 47 3
  base := bits w 37 10
  m := bits w 27 10 + 1
  out := bits w 19 8
  te := bit w 18
  tok := bits w 12 6
  bh := bits w 4 8
  k := bits w 6 6 + 1
  bfmt := bits w 2 4

/-- VOP.ACC fields (Table 8-12). -/
structure AccFl where
  a    : Nat
  base : Nat
  m    : Nat
  fam  : Nat
  ext  : Bool
  init : Bool
  last : Bool
  chn  : Nat
  out  : Nat
  deriving DecidableEq, Repr

def accF (w : Nat) : AccFl :=
  ⟨bits w 38 11, bits w 28 10, bits w 18 10 + 1, bits w 16 2, bit w 15, bit w 14, bit w 13, bits w 11 2, bits w 3 8⟩

/-- An operand specifier's kind and value (Table 8-3). -/
def spKind (v : Nat) : Nat := bits v 8 3
def spVal (v : Nat) : Nat := bits v 0 8

/-- TE and TOK of a word. -/
def tokOf (q : Seq) (w : Nat) : Option Nat :=
  match opOf q w with
  | .mm _ => if bit w 18 then some (bits w 12 6) else none
  | _ => if bit w 55 then some (bits w 49 6) else none

/-- Accumulator rows of a tile (R95). -/
def accRows (af : AccF) (m : Nat) : Nat :=
  match af with | .fp32 => m | .ext => 2 * m | .wel => 3 * m

def afOf (ext : Bool) : AccF := if ext then .ext else .fp32

/-- Kinds a VOP accepts at DST, A, B, C; the empty list is an unused position (R202, Table 8-11). -/
def vopUse (k : Nat) : List (List Nat) :=
  let s := [1, 2, 3, 4, 5]
  let d := [1, 2]
  if k = 3 || k = 22 then [d, s, s, s]
  else if k = 0 || k = 1 || k = 2 || k = 4 || k = 5 || k = 8 || (18 ≤ k && k ≤ 21) then [d, s, s, []]
  else if 6 ≤ k && k ≤ 17 then [d, s, [], []]
  else if 23 ≤ k && k ≤ 26 then [d, [1, 2], [], []]
  else [[], [1], [], []]

def specOk (use : List Nat) (v : Nat) : Bool :=
  if use.isEmpty then spKind v == 0 else use.contains (spKind v)

/-- Is an MM word an illegal encoding at decode (R204, R205)? -/
def mmIllegal (w : Nat) : Bool :=
  let f := mmF w
  f.mode > 4 || f.aq > 5
    || (f.mode ≥ 3 && (f.ext || f.chn != 0))
    || (f.chn != 0 && !f.last)
    || (f.mode ≥ 1 && f.afmt == .lg4)
    || (!f.strm &&
        match Fmt.ofCode f.bfmt with
        | none => true
        | some b =>
          if f.mode = 0 then !(pairOk f.afmt b) || f.k > kStep f.afmt b
          else b != f.afmt || f.k > kStepD f.afmt)

/-- Is a word an illegal encoding at decode (R200, R201 and the per-instruction cases of chapter 8)? -/
def illegalWord (q : Seq) (w : Nat) : Bool :=
  let te := bit w 55
  match opOf q w with
  | .illegal => true
  | .mm _ => mmIllegal w
  | .loop => te || bits w 12 12 == 0
  | .endl => te
  | .tokWait => te || bits w 35 8 == 0
  | .tokSig => te || bits w 35 8 == 0 || (bit w 33 && bits w 25 8 > 143)
  | .ctxMark => te
  | .descSet =>
    let form := bits w 47 2
    let fld := bits w 42 5
    let imm := bits w 0 32
    te || (form ≤ 1 && fld ≥ 28)
      || (form == 0 && (match setField fld with | some d => imm / 2 ^ d.w != 0 | none => true))
      || (form == 1 && fld != 0 && fld != 2)
      || (form == 2 && fld % 2 == 0 && imm / 2 ^ 24 != 0)
  | .cvt =>
    let dst := bits w 38 11
    let src := bits w 27 11
    if bit w 25 && spKind src == 0 then spKind dst != 0
    else !(specOk [1, 2] dst) || !(specOk [1, 2, 3, 4, 5] src)
      || (spKind dst == 2 && (Fmt.ofCode (bits w 13 4)).isNone)
  | .vop k _ =>
    if k = 27 then
      let f := accF w
      !(specOk [1, 2] f.a) || f.fam == 3 || (f.chn != 0 && !f.last)
    else
      let vs := [bits w 38 11, bits w 27 11, bits w 16 11, bits w 5 11]
      !(((vopUse k).zip vs).all (fun uv => specOk uv.1 uv.2)) || (k == 28 && bit w 4)
  | .row k => k == 8 && bits w 2 2 == 3
  | .sca => bits w 47 2 == 3
  | .coll =>
    let kind := bits w 46 3
    let op := bits w 43 3
    kind > 5 || op > 2 || (op != 0 && (kind == 1 || kind ≥ 3))
  | _ => false

/-- The queues a word names, each with whether it is consumed (R173, R178): X-stream words. -/
def xQueues (q : Seq) (w : Nat) : List (Nat × Bool) :=
  match opOf q w with
  | .mm _ => [((mmF w).aq, true)]
  | .qPush => [(bits w 46 3, false)]
  | .qPop => [(bits w 46 3, true)]
  | .cvt =>
    let one (v : Nat) (c : Bool) := if spKind v = 2 then [(v % 8, c)] else []
    one (bits w 38 11) false ++ one (bits w 27 11) true
  | .vop k _ =>
    let one (v : Nat) (c : Bool) := if spKind v = 2 then [(v % 8, c)] else []
    if k = 27 then one (accF w).a true
    else one (bits w 38 11) false ++ one (bits w 27 11) true ++ one (bits w 16 11) true ++ one (bits w 5 11) true
  | .row k =>
    let qy := if bit w 48 && [0, 1, 2, 3, 4, 5, 6].contains k then [(bits w 40 3, false)] else []
    let qx := if bit w 39 && [0, 1, 2, 3, 4, 5, 6].contains k then [(bits w 31 3, true)] else []
    qy ++ qx
  | _ => []

/-- Is a queue usable by a sequence as named (R178)? -/
def queueBound (b : Block) (q : Seq) (n : Nat) (consume : Bool) : Bool :=
  let c := (b.qs.getD n Queue.zero).cfg
  match q with
  | .a => c.en && (if consume then n ≥ 6 else n ≤ 5)
  | .f => c.en && !c.ctxB && (if consume then n ≤ 5 else n ≥ 6)
  | .b => c.en && c.ctxB && (if consume then n ≤ 5 else n ≥ 6)

/-- Ring capacity in words. -/
def ringWords (c : QCfg) : Nat := 16 * c.size

/-- The end of a sequence's range (R166, R222). -/
def Block.rangeEnd (b : Block) : Seq → Nat
  | .a => b.run.aLen | .f => b.run.xEntryB | .b => b.run.xLen

def Block.seqr (b : Block) : Seq → Seqr
  | .a => b.seqA | .f => b.seqF | .b => b.seqB

def Block.setSeqr (b : Block) (q : Seq) (s : Seqr) : Block :=
  match q with
  | .a => { b with seqA := s } | .f => { b with seqF := s } | .b => { b with seqB := s }

/-- Has a sequence ended (R166)? -/
def Block.ended (b : Block) (q : Seq) : Bool := (b.seqr q).pc ≥ b.rangeEnd q

def Block.imem (b : Block) : Seq → List IWord
  | .a => b.imA | _ => b.imX

/-- The instruction-memory word at an index (0 with good parity past what was loaded). -/
def Block.iword (b : Block) (q : Seq) (pc : Nat) : IWord := (b.imem q).getD pc ⟨0, 0⟩

/-- Even parity of a 32-bit half. -/
def parity32 (w : Nat) : Nat := popcount 32 w % 2

/-- The two parity bits of a word as every write of the memory computes them (R199). -/
def parityOf (w : Nat) : Nat := parity32 (bits w 0 32) + 2 * parity32 (bits w 32 32)

def IWord.ok (i : IWord) : Bool := parityOf i.w == i.par

/-- An error record with only a code. -/
def ErrI.of (code : Nat) : ErrI := { code := code, sub := 0, handle := 0xFF, arg := 0, spec := 0, node := 0 }

/-- Faults raised at decode, in the order parity, word at a loop end, encoding, and the checks of the instruction
(R198 to R200, R222, R91, R178, R95, R76). A STAT MM's entry is one of M rows of K elements (R177, DEDUCED, log entry 126). `vec` says that the block is a vector block. -/
def decodeFault (vec : Bool) (b : Block) (q : Seq) (iw : IWord) : Option ErrI :=
  let s := b.seqr q
  let w := iw.w
  let op := opOf q w
  let atEnd := match s.loops with | e :: _ => e.stop == s.pc | [] => false
  let isEndl := match op with | .endl => true | _ => false
  if !iw.ok then some (ErrI.of 2)
  else if atEnd && !isEndl then some { ErrI.of 9 with sub := 2 }
  else if illegalWord q w then some (ErrI.of 1)
  else match op with
    | .endl => if atEnd then none else some { ErrI.of 9 with sub := 3 }
    | .loop => if s.pc + bits w 12 12 + 1 ≥ b.rangeEnd q then some { ErrI.of 9 with sub := 1 } else none
    | .tokWait | .tokSig | .ctxMark | .descSet | .ld | .st | .gth | .sca | .coll | .illegal => none
    | .bld | .swp => if vec then some (ErrI.of 12) else none
    | .mm _ =>
      let f := mmF w
      let c := (b.qs.getD f.aq Queue.zero).cfg
      if vec then some (ErrI.of 12)
      else if !(queueBound b q f.aq true) then some { ErrI.of 5 with handle := f.aq }
      else if f.base + accRows (afOf f.ext) f.m > 1024 then some (ErrI.of 16)
      else if !f.strm && entWords f.afmt f.k f.m > ringWords c then some { ErrI.of 6 with handle := f.aq }
      else none
    | op =>
      match (xQueues q w).find? (fun qc => !(queueBound b q qc.1 qc.2)) with
      | some qc => some { ErrI.of 5 with handle := qc.1 }
      | none =>
        match op with
        | .vop 27 _ =>
          let f := accF w
          let af := if f.fam = 2 then AccF.wel else afOf f.ext
          if f.base + accRows af f.m > 1024 then some (ErrI.of 16) else none
        | .spl =>
          if bits w 39 10 + accRows (afOf (bit w 28)) (bits w 29 10 + 1) > 1024 then some (ErrI.of 16) else none
        | _ => none

/-- ENDLs that retire with the instruction before them (R198, R222): while the word at the program counter is a good
ENDL standing at the top entry's end. At most four entries can be popped, and a branch back lands on a body instruction. -/
def foldEndl : Nat → Block → Seq → Block
  | 0, b, _ => b
  | n + 1, b, q =>
    let s := b.seqr q
    if s.pc ≥ b.rangeEnd q then b
    else
      let iw := b.iword q s.pc
      match opOf q iw.w, s.loops with
      | .endl, e :: es =>
        if e.stop = s.pc && iw.ok && !(illegalWord q iw.w) then
          if e.left > 1 then b.setSeqr q { s with pc := e.start, loops := { e with left := e.left - 1 } :: es }
          else foldEndl n (b.setSeqr q { s with pc := s.pc + 1, loops := es }) q
        else b
      | _, _ => b

/-- The sequence moves past its issued instruction (R198). -/
def Block.adv (b : Block) (q : Seq) : Block :=
  let s := b.seqr q
  foldEndl 5 (b.setSeqr q { s with pc := s.pc + 1, word := none }) q

end Sys2Proof.Machine
end

