-- ==== Sys2Proof/Machine/BlockOps.lean ====
section
/-! DEFINITION. Named operations of one block: counters, reads and writes of its scratchpad with code checking, queues,
instructions in flight, tokens, and descriptors at issue. -/

namespace Sys2Proof.Machine

/-- What an issue attempt comes to: the instruction cannot issue now, it faults before any effect, or it issues. -/
inductive Iss (α : Type)
  | hold
  | fault (e : ErrI)
  | go (a : α)
  deriving DecidableEq, Repr

def Iss.bind {α β : Type} (x : Iss α) (f : α → Iss β) : Iss β :=
  match x with
  | .hold => .hold
  | .fault e => .fault e
  | .go a => f a

/-- The largest count (Table 2-11). -/
def cntMax : Nat := 2 ^ 40 - 1

/-- A counter list with counter `i` raised by `n`, stopping at its maximum (R56, R57). -/
def ctrAdd (l : List Nat) (i n : Nat) : List Nat := updAt l i (fun c => min cntMax (c + n))

/-- Block counter numbers (Table 15-11, level 0). -/
def cArrFlu := 0
def cArrNf := 1
def cDrn := 2
def cVec := 5
def cCvt := 8
def cSlab := 11
def cPad := 12
def cSwap := 13
def cChk := 16
def cSpill := 18
def cBound := 19
def cAccCorr := 20
def cAccUnc := 21
def cGroups := 22
def cRows := 23
def cEvict := 24
def cSideCorr := 25
def cSideUnc := 26
def cSpadCorr := 27
def cSpadUnc := 28
def cScrub := 29
def cE2e := 30
def cIdx := 31
def cConf := 32

def Block.count (b : Block) (i n : Nat) : Block := { b with ctr := ctrAdd b.ctr i n }

/-- The three counts of a unit whose counters start at `i` (Table 2-10). -/
def Block.count3 (b : Block) (i : Nat) (c : Cnt) : Block :=
  { b with ctr := ctrAdd (ctrAdd (ctrAdd b.ctr i c.sat) (i + 1) c.flu) (i + 2) c.nf }

/-- Status flags of a set of counts (R58, Table 7-14). -/
def cntFlags (c : Cnt) : Nat := b2n (c.sat != 0) + 2 * b2n (c.flu != 0) + 4 * b2n (c.nf != 0)

/-- Duplicate-free list. -/
def dedup (l : List Nat) : List Nat := l.foldl (fun acc a => if acc.contains a then acc else acc ++ [a]) []

/-- The distinct listed words that runs touch. -/
def runWords (m : Mem) (rs : List (Nat × Nat)) : List Nat :=
  if m.errs.isEmpty then [] else dedup (rs.flatMap (fun r => m.listedIn r.1 r.2))

/-- The distinct listed words that a write of runs covers in part, and so reads (R145, R156, R238). -/
def partWords (m : Mem) (rs : List (Nat × List PByte)) : List Nat :=
  if m.errs.isEmpty then []
  else dedup (rs.flatMap (fun r => (m.listedIn r.1 r.2.length).filter
    (fun w => !(r.1 ≤ 32 * w && 32 * w + 32 ≤ r.1 + r.2.length))))

/-- Words of a store among those listed that the code corrects, and those that are uncorrectable. -/
def splitWords (m : Mem) (ws : List Nat) : List Nat × List Nat :=
  (ws.filter (fun w => match m.state w with | .corrected _ _ => true | _ => false),
   ws.filter (fun w => m.state w == .uncorrectable))

/-- A code-checked read's record for one of the block's stores: `ci` is its corrected counter, the next one its
uncorrectable counter, `kind` the DETAIL byte of Table 18-9, `k` the place in `corrNow`, `unit` bytes per word of an
address (R147, R230). -/
def Block.note (b : Block) (m : Mem) (ws : List Nat) (ci kind k : Nat) : Block :=
  let (c, u) := splitWords m ws
  if c.isEmpty && u.isEmpty then b
  else
    { b with
      ctr := ctrAdd (ctrAdd b.ctr ci c.length) (ci + 1) u.length
      evs := b.evs ++ u.map (fun w => (0x0102, 32 * w, kind))
      corrNow := updAt b.corrNow k (fun n => n + c.length) }

/-- A read of scratchpad runs: counts and events (R147). -/
def Block.touch (b : Block) (rs : List (Nat × Nat)) : Block := b.note b.spad (runWords b.spad rs) cSpadCorr 0 0

/-- A tensor read from LOCAL. -/
def Block.readT (b : Block) (d : Nat) : Tens := readTens b.spad.readP d

/-- A write of runs to the scratchpad: a word covered in part is read first (R145), and that read is recorded (R147). -/
def Block.writeR (b : Block) (rs : List Run) : Block :=
  let b1 := b.note b.spad (partWords b.spad rs) cSpadCorr 0 0
  { b1 with spad := b1.spad.writeRuns rs }

/-- A tensor written to LOCAL. -/
def Block.writeT (b : Block) (d : Nat) (t : Tens) : Block := b.writeR (tensWrites d t)

def Block.q (b : Block) (n : Nat) : Queue := b.qs.getD n Queue.zero

def Block.setQ (b : Block) (n : Nat) (f : Queue → Queue) : Block := { b with qs := updAt b.qs n f }

/-- Ring words reserved and not freed (QSTAT.USED). -/
def Queue.used (q : Queue) : Nat := q.ents.foldl (fun a e => a + e.words) 0

/-- Scratchpad byte addresses of `n` ring words from ring word `off`, as runs. -/
def ringRuns (c : QCfg) (off n : Nat) : List (Nat × Nat) :=
  (List.range n).map (fun i => (c.base + 32 * ((off + i) % max 1 (ringWords c)), 32))

/-- Reserve an entry of `n` words (R176): none where the ring has not that many free words. -/
def Block.reserve (b : Block) (qn n : Nat) (job : Option Nat) : Option Block :=
  let q := b.q qn
  if q.used + n ≤ ringWords q.cfg then
    some (b.setQ qn (fun q => { q with
      next := (q.next + n) % max 1 (ringWords q.cfg), ents := q.ents ++ [⟨q.next, n, false, job⟩] }))
  else none

/-- The bytes of an entry laid into its ring words. -/
def entRuns (c : QCfg) (off : Nat) (bs : List PByte) : List Run :=
  coalesce (((chunks 32 bs).zip (List.range (cdiv bs.length 32))).map (fun ci =>
    (c.base + 32 * ((off + ci.2) % max 1 (ringWords c)), ci.1)))

/-- The payload of a job's reserved entry written into the ring; it is committed later. -/
def Block.fillEntry (b : Block) (qn job : Nat) (t : Tens) : Block :=
  let q := b.q qn
  match q.ents.find? (fun e => e.job == some job) with
  | some e => b.writeR (entRuns q.cfg e.off (entBytes t))
  | none => b

/-- The head entry of a queue where it is present (R176). -/
def Queue.head (q : Queue) : Option QEnt :=
  match q.ents with
  | e :: _ => if e.done then some e else none
  | [] => none

/-- The bytes of an entry as its consumer reads them. -/
def Block.entRead (b : Block) (qn : Nat) (e : QEnt) : List PByte :=
  (ringRuns (b.q qn).cfg e.off e.words).flatMap (fun r => b.spad.readP r.1 r.2)

/-- The head entry's header fields as they stand in the ring. -/
def Block.headFields (b : Block) (qn : Nat) : Option (Option (Fmt × Nat × Nat × Bool)) :=
  (b.q qn).head.map (fun e => entFields (((b.entRead qn e).take 32).map Prod.fst))

/-- The head entry consumed: its tensor, and the block with its words freed and the reads recorded. The header's sizes are
used as they stand; bytes past the entry read as zero. -/
def Block.popEntry (b : Block) (qn : Nat) : Option (Tens × Block) :=
  match (b.q qn).head with
  | none => none
  | some e =>
    let bs := b.entRead qn e
    match entFields ((bs.take 32).map Prod.fst) with
    | none => none
    | some (f, n0, n1, p) =>
      let b1 := b.touch (ringRuns (b.q qn).cfg e.off e.words)
      some (entTens f n0 n1 p (bs.drop 32), b1.setQ qn (fun q => { q with ents := q.ents.drop 1 }))

/-- The head entry discarded. -/
def Block.dropEntry (b : Block) (qn : Nat) : Block := b.setQ qn (fun q => { q with ents := q.ents.drop 1 })

/-- A fresh instruction in flight. -/
def Job.mk0 (id : Nat) (q : Seq) (pc w : Nat) (k : JobK) : Job where
  id := id
  seq := q
  pc := pc
  word := w
  kind := k
  tok := tokOf q w
  dst := none
  flags := 0
  handles := []
  rem := 0
  started := true
  done := false
  err := none
  descs := []
  awaits := []
  remote := false
  strm := none
  drain := none
  wait := 0
  got := []
  idx := []
  more := []
  packed := false

/-- The job that the instruction at a sequence's program counter would become. -/
def Block.freshJob (b : Block) (q : Seq) (w : Nat) (k : JobK) : Job := Job.mk0 b.nextJob q (b.seqr q).pc w k

/-- A job put in flight. -/
def Block.addJob (b : Block) (j : Job) : Block := { b with jobs := b.jobs ++ [j], nextJob := b.nextJob + 1 }

def Block.job (b : Block) (id : Nat) : Option Job := b.jobs.find? (fun j => j.id == id)

def Block.updJob (b : Block) (id : Nat) (f : Job → Job) : Block :=
  { b with jobs := b.jobs.map (fun j => if j.id = id then f j else j) }

/-- Parts of a job finished: its completion condition holds when none is left. -/
def Job.less (j : Job) (n : Nat) : Job := { j with rem := j.rem - n, done := decide (j.rem ≤ n) && j.err.isNone }

/-- An increment of a token (R179, R182): none where it would pass 65,535. -/
def Block.tokAdd (b : Block) (t n : Nat) : Option Block :=
  let v := b.toks.getD t 0
  if v + n > 65535 then none else some { b with toks := b.toks.set t (v + n) }

/-- Descriptor of a handle. -/
def Block.desc (b : Block) (h : Nat) : Nat := b.descs.getD h 0

def Block.setDesc (b : Block) (h d : Nat) : Block := { b with descs := b.descs.set h d }

/-- The pin record of a handle. -/
def Block.pin (b : Block) (h : Nat) : Pin :=
  (b.pins.find? (fun p => p.h == h)).getD ⟨h, false, false, 0, 0, 0, 0⟩

def Block.setPin (b : Block) (p : Pin) : Block :=
  let rest := b.pins.filter (fun x => x.h != p.h)
  if p.pinned || p.pending || p.slot != 0 || p.layer != 0 || p.ver != 0 then { b with pins := rest ++ [p] }
  else { b with pins := rest }

/-- A descriptor as an instruction reads it at issue: the checksum and field checks (R185), then the version slot (R265):
the copy, and the pin request it waits for where its handle is PENDING. -/
def Block.operand (b : Block) (r : Role) (h : Nat) : Iss (Nat × Option Nat) :=
  let d := b.desc h
  if !(descOk d) then .fault { ErrI.of 3 with handle := h }
  else
    let c := descCheck r (b.desc (fIdx.get d)) d
    if c ≠ 0 then .fault { ErrI.of 4 with sub := c, handle := h }
    else if dVer d = 1 then
      let p := b.pin h
      if p.pinned then .go (toSlot d p.slot, none)
      else if p.pending then .go (d, some p.req)
      else .fault { ErrI.of 0x1A with handle := h }
    else .go (d, none)

/-- The same for an instruction that does not defer its reads: it holds while a grant is awaited. -/
def Block.operandNow (b : Block) (r : Role) (h : Nat) : Iss Nat :=
  (b.operand r h).bind (fun dp => match dp.2 with | none => .go dp.1 | some _ => .hold)

/-- Does an issue condition not hold yet? -/
def Iss.waits {α : Type} : Iss α → Bool
  | .hold => true
  | _ => false

/-- A LOCAL source of the given formats. -/
def localSrc (fs : List Fmt) : Role := { spaces := [0], fmts := fs }

/-- A LOCAL destination of the given formats. -/
def localDst (fs : List Fmt) : Role := { spaces := [0], fmts := fs, dest := true }

/-- A breach of an instruction's own rule on sizes or shapes (R185, check 11). -/
def shape11 (h : Nat) : ErrI := { ErrI.of 4 with sub := 11, handle := h }

/-- Formats that an FP32 value can be drained to (Table 2-8). -/
def fromFp32 : List Fmt := [.fp32, .bf16, .e4m3, .e5m2, .mx4, .mx5, .lg4, .lg8f, .lg8b, .lgu8]

/-- Formats that a vector or row result can be written in (R123, Table 2-8): FP64 beside them, exactly. -/
def fromLane : List Fmt := fromFp32 ++ [.fp64]

/-- Does the block hold this mask bit for lane `i`? -/
def laneOn (mask : Option Nat) (i : Nat) : Bool := match mask with | none => true | some m => bit m i

/-- A mask register of a sequence's context. -/
def Block.mask (b : Block) (q : Seq) (n : Nat) : Nat :=
  match q with
  | .b => b.maskB.getD n maskAll
  | _ => b.maskF.getD n maskAll

end Sys2Proof.Machine
end

