-- ==== Sys2Proof/Machine/Accum.lean ====
section
/-! DEFINITION. Accumulators (chapter 4): tiles and their states, the adds into an entry, spill and resume through the
wide buffer, and drains. -/

namespace Sys2Proof.Machine

/-- FP32 code of a value, rounded to nearest even. -/
def rn32 (v : Val) : Nat := (roundTo .fp32 false v).code

/-- A value rounded to FP32 (R37). -/
def rn (v : Val) : Val := fp32 (rn32 v)

/-- A value rounded to FP64. -/
def rn64 (v : Val) : Nat := (roundTo .fp64 false v).code

/-- A 32-bit entry of a store. -/
def Mem.w32 (m : Mem) (off : Nat) : Nat := ofLE (m.read off 4)

def Mem.set32 (m : Mem) (off v : Nat) : Mem := m.write off (toLE 4 v)

/-- Byte offset of entry `n` of accumulator row `r` (R94). -/
def accOff (r n : Nat) : Nat := (r * 32 + n) * 4

/-- The family identity (Table 4-2). -/
def famIdent : Fam → Nat
  | .max => 0xFF800000 | .min => 0x7F800000 | _ => 0

/-- Rows of a tile. -/
def Tile.rows (t : Tile) : Nat := accRows t.af t.m

/-- Do two row ranges meet? -/
def overlaps (a n b m : Nat) : Bool := a < b + m && b < a + n

/-- The verdict of Table 4-2 on an opening instruction: rows OPEN fault, rows CLOSING wait; where it meets both, it faults at
once (DESIGN CHOICE, log entry 115: Table 4-2 gives no order). -/
def Block.canOpen (b : Block) (base n : Nat) : Iss Unit :=
  let hit := b.tiles.filter (fun t => overlaps base n t.base t.rows)
  if hit.any (fun t => !t.closing) then .fault { ErrI.of 0x11 with handle := 0xFF, arg := base }
  else if hit.isEmpty then .go ()
  else .hold

/-- The OPEN tile an adding instruction names, or ACC_MISMATCH (Table 4-2). -/
def Block.openTile (b : Block) (base m : Nat) (af : AccF) (fam : Fam) (c : Ctx) : Iss Tile :=
  match b.tiles.find? (fun t => t.base == base && t.m == m && t.af == af && t.fam == fam && t.ctx == c && !t.closing) with
  | some t => .go t
  | none => .fault { ErrI.of 0x12 with handle := 0xFF, arg := base }

/-- The tile at a base row. -/
def Block.tileAt (b : Block) (base : Nat) : Option Tile := b.tiles.find? (fun t => t.base == base)

def Block.updTile (b : Block) (base : Nat) (f : Tile → Tile) : Block :=
  { b with tiles := b.tiles.map (fun t => if t.base = base then f t else t) }

/-- The rows of a tile become FREE (Table 4-2). -/
def Block.freeTile (b : Block) (base : Nat) : Block := { b with tiles := b.tiles.filter (fun x => x.base != base) }

/-- Every entry of a tile's rows set to the family identity. -/
def Block.resetRows (b : Block) (base n : Nat) (fam : Fam) : Block :=
  let id := famIdent fam
  if id = 0 then { b with acc := b.acc.zero (accOff base 0) (128 * n) }
  else { b with acc := b.acc.write (accOff base 0) ((List.replicate (32 * n) (toLE 4 id)).flatten) }

/-- The entries of a tile set to its identity: in EXT the compensations are 0. -/
def Block.resetTile (b : Block) (t : Tile) : Block :=
  match t.af with
  | .fp32 => b.resetRows t.base t.m t.fam
  | .ext => (b.resetRows t.base t.m t.fam).resetRows (t.base + t.m) t.m .sum
  | .wel => b.resetRows t.base (3 * t.m) .sum

def Tile.fresh (base m : Nat) (af : AccF) (fam : Fam) (c : Ctx) : Tile :=
  ⟨base, m, af, fam, c, 0, 0, false, none, false, false, false, false⟩

/-- A tile opened (Table 4-2). -/
def Block.openNew (b : Block) (t : Tile) : Block := { b.resetTile t with tiles := b.tiles ++ [t] }

/-- The tile that an instruction opens or adds to (Table 4-2): the block with it open. -/
def Block.takeTile (b : Block) (init : Bool) (base m : Nat) (af : AccF) (fam : Fam) (c : Ctx) : Iss Block :=
  if init then (b.canOpen base (accRows af m)).bind (fun _ => .go (b.openNew (Tile.fresh base m af fam c)))
  else (b.openTile base m af fam c).bind (fun _ => .go b)

/-- A read of accumulator rows: corrected words counted; an uncorrectable word counted, reported, and its tile poisoned
(R94, R117). -/
def Block.touchAcc (b : Block) (t : Tile) (row n : Nat) : Block :=
  let ws := runWords b.acc [(accOff row 0, 128 * n)]
  if ws.isEmpty then b
  else
    let b1 := b.note b.acc ws cAccCorr 3 1
    if ws.any (fun w => (b.acc.state w).bad) then b1.updTile t.base (fun t => { t with poison := true }) else b1

/-- One partial added to an entry (R99, R100, R78). -/
def addFp32 (e p : Nat) : Nat := rn32 ((fp32 e).add (fp32 p))

/-- EXT: the entry and its compensation (R99, R100). -/
def addExt (e c p : Nat) : Nat × Nat :=
  let x := (fp32 e).add (fp32 p)
  let s := rn32 x
  let sv := fp32 s
  if !sv.finite then (s, 0)
  else
    let t := x.add sv.neg
    (s, rn32 ((fp32 c).add t))

/-- An entry combined with a partial in its family, FP32 format. -/
def combine (fam : Fam) (e p : Nat) : Nat :=
  match fam with
  | .max => rn32 ((fp32 e).max (fp32 p))
  | .min => rn32 ((fp32 e).min (fp32 p))
  | .ssq => rn32 ((fp32 e).add ((fp32 p).mul (fp32 p)))
  | _ => addFp32 e p

/-- A value added to an EXT pair: the two-sum of R99 with an exact addend. -/
def addExtV (e c : Nat) (v : Val) : Nat × Nat :=
  let x := (fp32 e).add v
  let s := rn32 x
  let sv := fp32 s
  if !sv.finite then (s, 0) else (s, rn32 ((fp32 c).add (x.add sv.neg)))

/-- WEL: one element into (n, μ, q) (R115). -/
def addWel (n mu q x : Nat) : Nat × Nat × Nat :=
  let n' := rn32 ((fp32 n).add (fp32 0x3F800000))
  let d := rn ((fp32 x).add (fp32 mu).neg)
  let mu' := rn32 ((fp32 mu).add (rn (d.div (fp32 n'))))
  let e := rn ((fp32 x).add (fp32 mu').neg)
  let q' := rn32 ((fp32 q).add (rn (d.mul e)))
  (n', mu', q')

/-- A row of 32 or fewer partials added to row `r` of a tile's accumulators. `none` adds nothing. -/
def Block.addRow (b : Block) (t : Tile) (r : Nat) (ps : List (Option Nat)) : Block :=
  let go (acc : Mem) (np : Nat × Option Nat) : Mem :=
    match np.2 with
    | none => acc
    | some p =>
      let o := accOff (t.base + r) np.1
      match t.af with
      | .fp32 => acc.set32 o (combine t.fam (acc.w32 o) p)
      | .ext =>
        let o2 := accOff (t.base + t.m + r) np.1
        let add := if t.fam = .ssq then (fp32 p).mul (fp32 p) else fp32 p
        let ec := addExtV (acc.w32 o) (acc.w32 o2) add
        (acc.set32 o ec.1).set32 o2 ec.2
      | .wel =>
        let o2 := accOff (t.base + t.m + r) np.1
        let o3 := accOff (t.base + 2 * t.m + r) np.1
        let nmq := addWel (acc.w32 o) (acc.w32 o2) (acc.w32 o3) p
        ((acc.set32 o nmq.1).set32 o2 nmq.2.1).set32 o3 nmq.2.2
  let b1 := b.touchAcc t (t.base + r) 1
  let b2 := match t.af with
    | .fp32 => b1
    | .ext => b1.touchAcc t (t.base + t.m + r) 1
    | .wel => (b1.touchAcc t (t.base + t.m + r) 1).touchAcc t (t.base + 2 * t.m + r) 1
  { b2 with acc := ((List.range ps.length).zip ps).foldl go b2.acc }

/-- SPILL_K and the term limit of the bound (R108, R109, R111). -/
def spillK : Nat := 4096
def termMax : Nat := 2 ^ 20

/-- k-steps and terms added to a tile (R96, R111). -/
def Tile.addSteps (t : Tile) (steps terms : Nat) : Tile :=
  { t with steps := t.steps + steps, terms := t.terms + terms, past := t.past || decide (t.steps + steps > spillK) }

/-- Has the tile's bound been lost (R111)? `lost`: the linked header has LOST = 1; `bigN`: a WEL count exceeded 2^24. -/
def Tile.boundLost (t : Tile) (lost bigN : Bool) : Bool := t.past || lost || decide (t.terms > termMax) || bigN

/-- The exact value of entry (r, n) of a tile without its link: e, or e + c in EXT (R98). -/
def Block.entVal (b : Block) (t : Tile) (r n : Nat) : Val :=
  let e := fp32 (b.acc.w32 (accOff (t.base + r) n))
  match t.af with
  | .ext => e.add (fp32 (b.acc.w32 (accOff (t.base + t.m + r) n)))
  | _ => e

/-- Byte address of entry (r, n) of a binary64 tile of M × 32 entries at `a`. -/
def f64At (a r n : Nat) : Nat := a + 8 * (32 * r + n)

/-- A binary64 entry of the scratchpad. -/
def Block.f64 (b : Block) (a : Nat) : Nat := ofLE (b.spad.read a 8)

/-- The two values of a family combined exactly. -/
def famJoin (fam : Fam) (w e : Val) : Val :=
  match fam with
  | .max => w.max e | .min => w.min e | _ => w.add e

/-- The exact drain value of entry (r, n): the link and the chain input added (R106, R112), and whether a word read was
poisoned. -/
def Block.drainVal (b : Block) (t : Tile) (cin : Option Nat) (r n : Nat) : Val :=
  let e := b.entVal t r n
  let v := match t.link with
    | some a => famJoin t.fam (fp64 (b.f64 (f64At (a + 64) r n))) e
    | none => e
  match cin with
  | some a => famJoin t.fam v (fp64 (b.f64 (f64At a r n)))
  | none => v

/-- Forming the FP32 value at a drain (R98): rounding, with SAT saturating a finite sum beyond range. An entry already
non-finite stays so. Gives the code and the counts. -/
def form32 (sat : Bool) (v : Val) : Enc := roundTo .fp32 sat v

/-- One drained element formed as FP32, with what the forming counts: a saturation, or a flush (R98). A non-finite value is
counted by the conversion that follows. -/
def drainEl (sat : Bool) (v : Val) : Val × Cnt :=
  let e := form32 sat v
  (fp32 e.code, ⟨b2n e.sat, b2n e.flu, 0⟩)

/-- The values of an output plane converted to a descriptor's format and their counts (R98, Table 2-8). An element saturated at
its forming is not counted again, for whatever the conversion makes of it. -/
def drainRows (f : Fmt) (sat : Bool) (rows : List (List Val)) : List TRow × Cnt :=
  let rs := rows.map (fun vs =>
    let fm := vs.map (drainEl sat)
    let (sc, es) := f.encRow sat (List.replicate vs.length .nearest) (fm.map Prod.fst)
    let c1 := fm.foldl (fun c p => c.add p.2) ({} : Cnt)
    let es' := ((fm.zip es).filter (fun pe => pe.1.2.sat == 0)).map Prod.snd
    (({ scales := sc.map (fun s => (s, false)), elems := es.map (fun e => (e.code, false)) } : TRow),
      c1.add (sumCnt es')))
  (rs.map Prod.fst, rs.foldl (fun c p => c.add p.2) ({} : Cnt))

/-- A tensor with every word marked poisoned. -/
def poisonRows (rows : List TRow) : List TRow :=
  rows.map (fun r => { scales := r.scales.map (fun s => (s.1, true)), elems := r.elems.map (fun e => (e.1, true)) })

/-- The wide-buffer header fields (Table 4-3). -/
structure WHdr where
  lost  : Bool
  valid : Bool
  fam   : Nat
  spills : Nat
  terms : Nat
  deriving DecidableEq, Repr

def whdr (w : Nat) : WHdr := ⟨bit w 63, bit w 62, bits w 59 3, bits w 32 24, bits w 0 32⟩

def WHdr.enc (h : WHdr) : Nat :=
  b2n h.lost * 2 ^ 63 + b2n h.valid * 2 ^ 62 + h.fam * 2 ^ 59 + h.spills * 2 ^ 32 + h.terms

def Block.wideHdr (b : Block) (a : Nat) : WHdr := whdr (ofLE (b.spad.read a 8))

/-- Has the header of a tile's link LOST = 1 (R111)? -/
def Block.hdrLost (b : Block) (t : Tile) : Bool := match t.link with | some a => (b.wideHdr a).lost | none => false

/-- Bytes of a wide buffer of M rows (R101). -/
def wideBytes (m : Nat) : Nat := 64 + 256 * m

/-- Does a descriptor meet R101 for a tile of M rows (any M where `m` is none)? -/
def wideOk (d : Nat) (m : Option Nat) : Bool :=
  dFmt d == some .fp64 && dSpace d == 0 && dRank d == 2 && dSize d 0 == 32 && dStride d 0 == 1
    && dAddr d % 64 == 0 && (match m with | some m => dSize d 1 == m | none => true)

/-- Does the whole wide buffer, its header and its entries, lie in LOCAL? The checks of R185 look at the descriptor's own
extent, which leaves out 64 bytes; a buffer that passes them and still runs past LOCAL's end breaks R101 (DESIGN CHOICE, log
entry 116). -/
def wideFits (d : Nat) : Bool := dAddr d + wideBytes (dSize d 1) ≤ 2 ^ 21

/-- The family of a header code. -/
def famOf : Nat → Option Fam
  | 0 => some .sum | 1 => some .max | 2 => some .min | 3 => some .ssq | _ => none

/-- The spill of a tile into the wide buffer at `a` (R103): the entries written, the header updated, the tile linked,
reset and its stretch ended. A linked tile's sum and spill count are read from the buffer it is linked to and written to the
one that SPL names, to which it is linked from then on (DESIGN CHOICE, log entry 117, where the two differ). -/
def Block.spillTo (b : Block) (t : Tile) (a : Nat) : Block :=
  let linked := t.link.isSome
  let idx := (List.range t.m).flatMap (fun r => (List.range 32).map (fun n => (r, n)))
  let b0 := b.touchAcc t t.base t.rows
  let rd := match t.link with | some l => [(l, wideBytes t.m)] | none => []
  let b1 := b0.touch rd
  let bad := ((b1.tileAt t.base).map Tile.poison).getD t.poison
  let wbad (r n : Nat) : Bool := linked && b.spad.badIn (f64At (a + 64) r n) 8
  let body : List PByte := idx.flatMap (fun rn =>
    let e := b.entVal t rn.1 rn.2
    let v := match t.link with
      | some l => famJoin t.fam (fp64 (b.f64 (f64At (l + 64) rn.1 rn.2))) e
      | none => e
    (toLE 8 (rn64 v)).map (fun x => (x, bad || wbad rn.1 rn.2)))
  let old := match t.link with | some l => b.wideHdr l | none => ⟨false, false, t.fam.code, 0, 0⟩
  let h : WHdr := ⟨t.boundLost (b.hdrLost t) false, true, t.fam.code, min 0xFFFFFF (old.spills + 1), min 0xFFFFFFFF t.terms⟩
  let b2 := b1.writeR [(a, (toLE 8 h.enc).map (fun x => (x, false))), (a + 64, body)]
  let t' := { t with link := some a, steps := 0 }
  (b2.resetTile t').updTile t.base (fun _ => { t' with poison := bad })

end Sys2Proof.Machine
end

