-- ==== Sys2Proof/Machine/Array.lean ====
section
/-! DEFINITION. The matrix array (chapter 3): products and partials, stationary sets, slabs, the row packer, verdicts and
drains. -/

namespace Sys2Proof.Machine

/-- The antilog entry 2^(j/16) to 34 significant bits, rounded to nearest, as an integer times 2^-33 (R63). -/
def antilog (j : Nat) : Nat := (iroot16 (2 ^ (j + 16 * 34)) + 1) / 2

/-- The product of two decoded elements as the array forms it (R63): exact for linear pairs; for logarithmic pairs the
exact sum of the logarithms through the antilog table. -/
def arrMul (a b : Val) : Val :=
  match a, b with
  | .lg s k, .lg t l => .bin (xor s t) (antilog ((k + l) % 16).toNat) ((k + l) / 16 - 33)
  | _, _ => a.mul b

/-- The window sum of R64 over finite terms: bits below weight 2^(E − 96), E the largest term's exponent, are dropped
toward zero (DEDUCED, log entry 11), the rest is summed exactly. -/
def windowSum (ts : List Dy) : Dy :=
  let tops := (ts.filter (fun t => t.i != 0)).map (fun t => (Nat.log2 t.i.natAbs : Int) + t.e)
  match tops with
  | [] => Dy.zero
  | e0 :: es =>
    let lo := es.foldl max e0 - 96
    ts.foldl (fun s t => s.add (if t.e < lo then ⟨t.i.tdiv ((2 ^ (lo - t.e).toNat : Nat) : Int), lo⟩ else t)) Dy.zero

/-- A zero of either sign as +0 (R64, R78). -/
def posZero (v : Val) : Val := if v.isZero then .zero false else v

/-- A sum of terms rounded once to FP32, with the non-finite rules of R64; a zero sum is +0, and so is one that rounds to
zero. -/
def sumPartial (ts : List Val) : Nat :=
  if ts.any (fun t => t == .nan) then 0x7FC00000
  else
    let pos := ts.any (fun t => t == .inf false)
    let neg := ts.any (fun t => t == .inf true)
    if pos && neg then 0x7FC00000
    else if pos then 0x7F800000
    else if neg then 0xFF800000
    else rn32 (posZero (rn ((windowSum (ts.map Val.dy)).val false)))

/-- A logarithmic value as a linear one to 400 fraction bits and a last bit set: the differences and sums of the distance modes
are irrational, and their bits inside the window of R64 come out right (R78). -/
def fineVal (v : Val) : Val :=
  match v with
  | .lg s k =>
    let r := (k % 16).toNat
    if r = 0 then .bin s 1 (k / 16) else .bin s (2 * iroot16 (2 ^ (r + 16 * 400)) + 1) (k / 16 - 401)
  | v => v

/-- One FP32 partial of a K-step in a mode (R64, R78). -/
def arrPartial (m : Mode) (as bs : List Val) : Nat :=
  let ab := if m = .mul then as.zip bs else (as.map fineVal).zip (bs.map fineVal)
  match m with
  | .mul => sumPartial (ab.map (fun p => arrMul p.1 p.2))
  | .l1 => sumPartial (ab.map (fun p => (p.1.add p.2.neg).withSign false))
  | .l2sq => sumPartial (ab.map (fun p => let d := p.1.add p.2.neg; d.mul d))
  | .maxp =>
    match ab.map (fun p => posZero (p.1.add p.2)) with
    | [] => 0
    | v :: vs => rn32 (posZero (rn (vs.foldl Val.max v)))
  | .minp =>
    match ab.map (fun p => posZero (p.1.add p.2)) with
    | [] => 0
    | v :: vs => rn32 (posZero (rn (vs.foldl Val.min v)))

/-- The family of a mode's tile (R96). -/
def Mode.fam : Mode → Fam
  | .maxp => .max | .minp => .min | _ => .sum

/-- An operand element as the array uses it: BF16 subnormals flushed (R54). -/
def arrDecode (f : Fmt) (sc w : Nat) : Val × Bool :=
  let v := f.decode sc w
  if f = .bf16 && (w % 2 ^ 15) / 128 = 0 && w % 128 != 0 then (.zero (bit w 15), true) else (v, false)

/-- The values of one operand row or column, with the counts of flushed and non-finite elements (R54, R55). -/
def arrVals (f : Fmt) (scales codes : List Nat) : List Val × Nat × Nat :=
  let bl := max 1 f.block
  let vs := ((List.range codes.length).zip codes).map (fun ic =>
    arrDecode f (if f.scaled then scales.getD (ic.1 / bl) 127 else 127) ic.2)
  (vs.map Prod.fst, (vs.filter Prod.snd).length, (vs.filter (fun v => !v.1.finite)).length)

/-- The parity of the operand registers that hold one row or column: of its scale bytes and codes together (R85). -/
def parityOfCodes (scales codes : List Nat) : Nat := popcount 16 ((scales ++ codes).foldl (· ^^^ ·) 0) % 2

/-- A sum formed exactly and rounded once to FP32 (R68, R83); a zero sum is +0. -/
def sum32 (vs : List Val) : Nat := rn32 (posZero (rn (vs.foldl Val.add (.zero false))))

/-- r(k, c) and q(k, c) of one column group, for each of its `k` rows (R68). -/
def groupSums (f : Fmt) (k : Nat) (cols : List (List Nat × List Nat)) : List (Nat × Nat) :=
  let vs := cols.map (fun c => (arrVals f c.1 c.2).1)
  (List.range k).map (fun i =>
    let es := vs.map (fun v => v.getD i (.zero false))
    (sum32 es, sum32 (es.map (Val.withSign false))))

/-- A stationary tile from a B descriptor, from row `k0` of its dimension 0, at most `depth` deep (R65, R68 to R70,
R256): each column's codes run along dimension 0. The data cells and the check cells get the same generation number. -/
def Block.tileOf (b : Block) (d : Nat) (pa : Fmt) (mirror : Bool) (k0 depth gen : Nat) : TSet :=
  let f := dF d
  let t := b.readT d
  let bl := max 1 f.block
  let cols := t.rows.map (fun r =>
    let cs := (r.elems.drop k0).take depth
    let sc := if f.scaled then ((r.scales.drop (k0 / bl)).take (cdiv depth bl)) else []
    (sc.map Prod.fst, cs.map Prod.fst, cs.any Prod.snd || sc.any Prod.snd))
  let held := cols.map (fun c => (c.1, c.2.1))
  let stat := held.map (fun c => (arrVals f c.1 c.2).2)
  let k := min depth (dN0 d - k0)
  { valid := true, pa := pa, pb := f, mirror := mirror,
    poison := cols.any (fun c => c.2.2),
    gen := gen, k := k, cols := held,
    flu := stat.any (fun s => s.1 != 0), nf := stat.any (fun s => s.2 != 0)
    copy := if mirror then held else []
    par := held.map (fun c => parityOfCodes c.1 c.2)
    sums := (chunks 8 held).map (groupSums f k)
    cgen := gen }

/-- Operand counts of a tile load (R55). -/
def Block.countTile (b : Block) (s : TSet) : Block :=
  let st := s.cols.map (fun c => (arrVals s.pb c.1 c.2).2)
  (b.count cArrFlu (st.foldl (fun a x => a + x.1) 0)).count cArrNf (st.foldl (fun a x => a + x.2) 0)

/-- What the array forms of one A row: its partials, in the distance modes also those of k-rows 2 and 3 (R86), and the
magnitude sum of each column group in MUL mode (R83). -/
structure RowOut where
  ps  : List Nat
  ps2 : List Nat
  mus : List Nat
  deriving DecidableEq, Repr

/-- An element of A as a check cell multiplies it: a logarithmic one through the antilog table (R63, R83). -/
def checkVal (v : Val) : Val :=
  match v with
  | .lg s k => .bin s (antilog (k % 16).toNat) (k / 16 - 33)
  | v => v

/-- One A row through the array on a set (R64, R78, R83, R86). -/
def rowOut (key : PackKey) (set : TSet) (r : ARow) : RowOut :=
  let vs := (arrVals key.afmt r.scales r.codes).1.take set.k
  let parts (cols : List (List Nat × List Nat)) : List Nat :=
    cols.map (fun c => arrPartial key.mode vs (arrVals key.bfmt c.1 c.2).1)
  { ps := parts set.cols
    ps2 := if key.mode = .mul then [] else parts set.copy
    mus := if key.mode = .mul then set.sums.map (fun g =>
        sumPartial ((vs.zip g).map (fun t => ((checkVal t.1).withSign false).mul (fp32 t.2.2)))) else [] }

/-- The predicted sum of one column group for an A row (R83). -/
def predicted (key : PackKey) (set : TSet) (r : ARow) (c : Nat) : Nat :=
  sumPartial ((((arrVals key.afmt r.scales r.codes).1.take set.k).zip (set.sums.getD c [])).map
    (fun t => (checkVal t.1).mul (fp32 t.2.1)))

/-- Does the comparator fire on an observed sum, a predicted sum and a magnitude sum (R84, R87)? A row whose magnitude sum is
not finite is not compared; a non-finite sum against a finite magnitude sum fails. -/
def comparatorFires (o p mu : Nat) : Bool :=
  (fp32 mu).finite &&
    (!((fp32 o).finite && (fp32 p).finite)
      || (((fp32 o).add (fp32 p).neg).withSign false).cmp ((fp32 mu).mul (.bin false 248 (-24))) == .gt)

/-- The column group of an A row whose comparison fails: by the sums in MUL mode, where no operand is poisoned (R83, R84, R87);
bit for bit between the two halves in the distance modes (R86). -/
def rowFails (key : PackKey) (set : TSet) (r : ARow) (x : RowOut) : Option Nat :=
  match key.mode with
  | .mul =>
    if r.bad || set.poison then none
    else (List.range set.sums.length).find? (fun c =>
      comparatorFires (sum32 (((x.ps.drop (8 * c)).take 8).map fp32)) (predicted key set r c) (x.mus.getD c 0))
  | _ => ((List.range x.ps.length).find? (fun n => x.ps[n]? != x.ps2[n]?)).map (· / 8)

/-- The column group in which a slab fails (R84 to R87): a generation that differs from the check cells', a column or an A row
whose parity does not match, or the first row whose comparison fails. A generation or an A row's parity belongs to every group
and is named as group 0 (DESIGN CHOICE, log entry 119). -/
def slabFails (key : PackKey) (set : TSet) (rows : List ARow) (outs : List RowOut) : Option Nat :=
  if set.gen != set.cgen || rows.any (fun r => parityOfCodes r.scales r.codes != r.par) then some 0
  else
    match (List.range set.cols.length).find? (fun n =>
        (set.cols[n]?).map (fun c => parityOfCodes c.1 c.2) != set.par[n]?) with
    | some n => some (n / 8)
    | none => (rows.zip outs).findSome? (fun ro => rowFails key set ro.1 ro.2)

/-- An injected error of `arg` × τ added to one partial of a slab (R430): in MUL mode to a partial of a compared row whose τ is
not zero, with either sign; in the distance modes, which have no τ, to one half's result where `arg` is at least 1. Which partial
and which sign is the free choice `pick` (log entry 55). -/
def injectErr (key : PackKey) (set : TSet) (arg pick : Nat) (rows : List ARow) (outs : List RowOut) : List RowOut :=
  let cand := (List.range outs.length).flatMap (fun i =>
    let x := outs.getD i ⟨[], [], []⟩
    let bad := set.poison || (rows[i]?.map ARow.bad).getD true
    ((List.range x.ps.length).filter (fun n =>
      if key.mode = .mul then
        let mu := fp32 (x.mus.getD (n / 8) 0)
        !bad && mu.finite && !mu.isZero
      else true)).map (fun n => (i, n)))
  match cand[pick / 2 % max 1 cand.length]? with
  | none => outs
  | some (i, n) => updAt outs i (fun x =>
    let hit (p : Nat) : Nat :=
      if key.mode = .mul then
        let e := (fp32 (x.mus.getD (n / 8) 0)).mul ((Dy.mk arg (-16)).val false)
        rn32 ((fp32 p).add (if pick % 2 = 1 then e.neg else e))
      else if arg = 0 then p else p ^^^ 1
    { x with ps := updAt x.ps n hit })

/-- One A row's partials added to its tile, its operands counted (R64, R99, R55, R58, R90). -/
def Block.runRow (b : Block) (key : PackKey) (r : ARow) (x : RowOut) : Block :=
  let set := b.active
  let (_, flu, nf) := arrVals key.afmt r.scales r.codes
  let b1 := (b.count cArrFlu flu).count cArrNf nf
  match b1.tileAt r.base with
  | none => b1
  | some t =>
    (b1.addRow t r.row (x.ps.map some)).updTile r.base (fun t => { t with
      poison := t.poison || r.bad || set.poison
      flu := t.flu || flu != 0 || set.flu
      nf := t.nf || nf != 0 || set.nf })

/-- The parts of a slab: for each job among its rows, the job, its base row and its row count. -/
def slabParts (rows : List ARow) : List (Nat × Nat × Nat) :=
  let js := dedup (rows.map ARow.job)
  js.map (fun j =>
    let rs := rows.filter (fun r => r.job == j)
    (j, (rs.head?.map ARow.base).getD 0, rs.length))

/-- A slab of up to eight rows enters the array (R77, R83 to R88): its rows run on the active set, an injected error strikes one
of its partials (R430), its comparisons are made, and it awaits its verdict. In a packed slab the first row has its number within
its own MM (DESIGN CHOICE, log entry 120). -/
def Block.runSlab (b : Block) (key : PackKey) (pass : Nat) (rows : List ARow) : Block :=
  if rows.isEmpty then b
  else
    let outs0 := rows.map (rowOut key b.active)
    let outs := match b.arrInj with | some i => injectErr key b.active i.1 i.2 rows outs0 | none => outs0
    let b1 := (rows.zip outs).foldl (fun bb ro => bb.runRow key ro.1 ro.2) b
    let b2 := (b1.count cSlab 1).count cPad (8 - rows.length)
    let sl : Slab := ⟨slabParts rows, (rows.head?.map ARow.row).getD 0, pass, slabFails key b.active rows outs⟩
    { b2 with slabs := b2.slabs ++ [sl], arrInj := none }

/-- All rows of one pass, in slabs of eight. -/
def Block.runPass (b : Block) (key : PackKey) (pass : Nat) (rows : List ARow) : Block :=
  (chunks 8 rows).foldl (fun bb rs => bb.runSlab key pass rs) b

/-- The packer issues what it holds (R81). -/
def Block.flushPack (b : Block) : Block :=
  if b.packed.isEmpty then b else { b.runSlab b.packKey 0 b.packed with packed := [] }

/-- Rows enter the packer; full slabs issue (R80, R81). `now` restarts the hold timer where rows stay. -/
def packInF : Nat → Block → Nat → List ARow → Block
  | 0, b, _, _ => b
  | n + 1, b, now, rows =>
    let all := b.packed ++ rows
    if all.length < 8 then { b with packed := all, packT := if b.packed.isEmpty then now else b.packT }
    else
      let b1 := { b.runSlab b.packKey 0 (all.take 8) with packed := [] }
      if (all.drop 8).isEmpty then b1 else packInF n b1 now (all.drop 8)

def packHold (b : Block) : Nat := bits b.arrCtl 6 10

def Block.packIn (b : Block) (now : Nat) (rows : List ARow) : Block :=
  let b1 := packInF 3 b now rows
  if packHold b = 0 then b1.flushPack else b1

/-- A queue entry's rows as A rows of a job's tile. -/
def aRows (job base : Nat) (t : Tens) : List ARow :=
  ((List.range t.rows.length).zip t.rows).map (fun ir =>
    { job := job, base := base, row := ir.1, scales := ir.2.scales.map Prod.fst, codes := ir.2.elems.map Prod.fst,
      bad := ir.2.elems.any Prod.snd || ir.2.scales.any Prod.snd
      par := parityOfCodes (ir.2.scales.map Prod.fst) (ir.2.elems.map Prod.fst) })

/-- Does the head entry match what an MM expects (R177)? Hold where none is present. -/
def Block.headIs (b : Block) (qn : Nat) (f : Fmt) (n0 n1 : Nat) : Iss Unit :=
  match b.headFields qn with
  | none => .hold
  | some none => .fault { ErrI.of 7 with handle := qn }
  | some (some (g, m0, m1, _)) =>
    if g = f && m0 = n0 && m1 = n1 then .go () else .fault { ErrI.of 7 with handle := qn }

/-- Is a streamed MM still running passes (R72)? -/
def Block.streaming (b : Block) : Bool :=
  b.jobs.any (fun j => match j.strm with | some s => decide (s.pass < s.passes) | none => false)

/-- Does an SPL that names the tile still run (R103)? -/
def Block.spilling (b : Block) (base : Nat) : Bool :=
  b.jobs.any (fun j => j.kind == .spl && !j.done && bits j.word 39 10 == base)

/-- The output descriptors a LAST instruction names, checked at issue (R207): handles with their copies. `wel` adds the
variance plane. -/
def Block.drainDescs (b : Block) (last : Bool) (chn out m : Nat) (wel : Bool) : Iss (List (Nat × Nat)) :=
  if !last then .go []
  else
    let plain (h : Nat) : Iss (List (Nat × Nat)) :=
      (b.operandNow (localDst fromFp32) h).bind (fun d =>
        if dN0 d ≤ 32 && dOuter d == m then .go [(h, d)] else .fault (shape11 h))
    let cout (h : Nat) : Iss (List (Nat × Nat)) :=
      (b.operandNow { spaces := [1], fmts := [.fp64], dest := true } h).bind (fun d =>
        if dN0 d == 32 && dOuter d == m then .go [(h, d)] else .fault (shape11 h))
    let first := if chn / 2 = 1 then cout out
      else (plain out).bind (fun l =>
        if wel then (plain ((out + 2) % 256)).bind (fun l2 =>
          if (l ++ l2).all (fun hd => dN0 hd.2 == dN0 ((l.map Prod.snd).headD 0)) then .go (l ++ l2)
          else .fault (shape11 ((out + 2) % 256)))
        else .go l)
    first.bind (fun l =>
      if chn % 2 = 1 then
        let h := (out + 1) % 256
        (b.operandNow (localSrc [.fp64]) h).bind (fun d =>
          if dN0 d == 32 && dOuter d == m then .go (l ++ [(h, d)]) else .fault (shape11 h))
      else .go l)

/-- MM at issue (R208): the tile is taken, a STAT pass runs or enters the packer, a STRM pass sequence begins. Its faults are
raised in the cycle in which its issue condition holds (R198): while its A entry is absent, its rows are CLOSING or a version is
awaited it waits. -/
def Block.issueMM (b : Block) (q : Seq) (c : Ctx) (w now : Nat) : Iss Block :=
  let f := mmF w
  let mode := modeOf f.mode
  let mirror := mode != .mul
  let af := afOf f.ext
  if b.streaming || b.spilling f.base then .hold
  else if !f.strm then
    let bf := (Fmt.ofCode f.bfmt).getD .lg8f
    let s := b.active
    if (b.headIs f.aq f.afmt f.k f.m).waits || (b.takeTile f.init f.base f.m af mode.fam c).waits then .hold
    else (b.drainDescs f.last f.chn f.out f.m false).bind (fun ds =>
      if !s.valid then .fault (ErrI.of 13)
      else if s.pa != f.afmt || s.pb != bf || s.mirror != mirror then .fault (ErrI.of 14)
      else
        (b.headIs f.aq f.afmt f.k f.m).bind (fun _ =>
          (b.takeTile f.init f.base f.m af mode.fam c).bind (fun b1 =>
            match b1.popEntry f.aq with
            | none => .hold
            | some (t, b2) =>
              let j : Job := { b.freshJob q w .mm with
                rem := f.m, dst := if f.last then some f.out else none
                drain := if f.last then some (f.out, f.chn) else none
                descs := ds, handles := ds.map Prod.fst
                packed := f.m ≤ 7 && b.arrCtl % 2 == 1 }
              let b3 := (b2.addJob j).updTile f.base (fun t => t.addSteps 1 f.k)
              let key : PackKey := ⟨mode, f.afmt, bf, f.ext⟩
              let rows := aRows j.id f.base t
              if j.packed then
                let b4 := if b3.packKey = key then b3 else { b3.flushPack with packKey := key }
                .go ((b4.packIn now rows).adv q)
              else .go ((b3.flushPack.runPass key 0 rows).adv q))))
  else
    let role := localSrc [.bf16, .e4m3, .e5m2, .mx4, .mx5, .lg4, .lg8f, .lg8b]
    (b.operand role f.bh).bind (fun dp =>
      let d := dp.1
      let bf := dF d
      let ks := if mirror then kStepD f.afmt else kStep f.afmt bf
      if !(if mirror then bf == f.afmt else pairOk f.afmt bf) then .fault { ErrI.of 1 with handle := f.bh }
      else if dN0 d > 2 ^ 20 || dOuter d > 32 then .fault (shape11 f.bh)
      else if entWords f.afmt ks f.m > ringWords (b.q f.aq).cfg then .fault { ErrI.of 6 with handle := f.aq }
      else if (b.headIs f.aq f.afmt ks f.m).waits || (b.takeTile f.init f.base f.m af mode.fam c).waits then .hold
      else
        (b.drainDescs f.last f.chn f.out f.m false).bind (fun ds =>
            (b.headIs f.aq f.afmt ks f.m).bind (fun _ =>
              (b.takeTile f.init f.base f.m af mode.fam c).bind (fun b1 =>
                let passes := cdiv (dN0 d) ks
                let j : Job := { b.freshJob q w .mm with
                  rem := f.m * passes, dst := if f.last then some f.out else none
                  drain := if f.last then some (f.out, f.chn) else none
                  descs := ds ++ [(f.bh, d)], handles := f.bh :: ds.map Prod.fst
                  started := dp.2.isNone
                  awaits := match dp.2 with | some r => [(f.bh, r)] | none => []
                  strm := some ⟨d, ⟨mode, f.afmt, bf, f.ext⟩, ks, dOuter d, 0, passes, f.m, f.base, f.aq⟩ }
                .go ((b1.flushPack.addJob j).adv q)))))

/-- The next pass of the streamed MM begins (R71, R74, R75): once no shadow load of a BLD is in progress its tile is loaded into
the shadow set and swapped in, its A entry is consumed and its slabs run. Its tile's load advances the generation number as a
BLD's does (DESIGN CHOICE, log entry 121). -/
def Block.strmPass (b : Block) : Iss Block :=
  if b.loading.isSome then .hold
  else match b.jobs.find? (fun j => match j.strm with | some s => decide (s.pass < s.passes) | none => false) with
  | none => .hold
  | some j =>
    match j.strm with
    | none => .hold
    | some s =>
      if !j.started then .hold
      else
        (b.headIs s.aq s.key.afmt s.k s.m).bind (fun _ =>
          match b.popEntry s.aq with
          | none => .hold
          | some (t, b1) =>
            let set := b1.tileOf s.bd s.key.afmt (s.key.mode != .mul) (s.pass * s.k) s.k ((b.gen + 1) % 16)
            let b2 := ((b1.touch (dRuns s.bd)).countTile set).count cSwap 1
            let b3 := { b2 with shadow := b2.active, active := set, gen := (b.gen + 1) % 16 }
            let terms := min s.k (dN0 s.bd - s.pass * s.k)
            let b4 := (b3.updTile s.base (fun t => t.addSteps 1 terms)).updJob j.id
              (fun j => { j with strm := some { s with pass := s.pass + 1 } })
            .go (b4.runPass s.key s.pass (aRows j.id s.base t)))

/-- A tile becomes CLOSING for its LAST instruction, and its drain joins the queue (Table 4-2, R97). -/
def Block.toDrain (b : Block) (job base : Nat) : Block :=
  { b.updTile base (fun t => { t with closing := true }) with drains := b.drains ++ [job] }

/-- Rows of a job pass their verdict: the MM completes, or its tile closes for its drain (R81, R88, R97). -/
def Block.passRows (b : Block) (part : Nat × Nat × Nat) : Block :=
  match b.job part.1 with
  | none => b
  | some j =>
    let j' := { j with rem := j.rem - part.2.2 }
    let b1 := b.updJob j.id (fun _ => if j'.rem = 0 && j.drain.isNone then { j' with done := true } else j')
    if j'.rem = 0 && j.drain.isSome then b1.toDrain j.id part.2.1 else b1

/-- The verdict on the oldest slab where every comparison passes (R88). -/
def Block.slabPass (b : Block) : Block :=
  match b.slabs with
  | [] => b
  | s :: rest => s.parts.foldl Block.passRows { b with slabs := rest }

/-- The verdict on the oldest slab where a comparison fails (R89): its tiles poisoned, counted; the fault follows. -/
def Block.slabFail (b : Block) : Block :=
  match b.slabs with
  | [] => b
  | s :: rest =>
    (s.parts.foldl (fun (bb : Block) p => bb.updTile p.2.1 (fun t => { t with poison := true })) { b with slabs := rest }).count cChk 1

/-- BLD at issue (R209, R72): the descriptor checks, then the loader starts. -/
def Block.issueBld (b : Block) (q : Seq) (w : Nat) : Iss Block :=
  let bh := bits w 41 8
  let mirror := bit w 40
  let pa := arrFmt (bits w 37 3)
  if b.streaming || b.loading.isSome then .hold
  else
    (b.operand (localSrc [.bf16, .e4m3, .e5m2, .mx4, .mx5, .lg4, .lg8f, .lg8b]) bh).bind (fun dp =>
      let d := dp.1
      let f := dF d
      if (if mirror then pa != f || pa == .lg4 else !(pairOk pa f)) then .fault { ErrI.of 1 with handle := bh }
      else if dRank d ≠ 2 || dN0 d > (if mirror then kStepD f else kStep pa f) || dSize d 1 > 32 then
        .fault (shape11 bh)
      else
        let j : Job := { b.freshJob q w .bld with
          dst := none, handles := [bh], descs := [(bh, d)], rem := 1
          started := dp.2.isNone, awaits := match dp.2 with | some r => [(bh, r)] | none => [] }
        let b1 := b.flushPack
        let set := b1.tileOf d pa mirror 0 (dN0 d) ((b.gen + 1) % 16)
        let b2 := { b1.addJob j with loading := some (j.id, if dp.2.isNone then set else TSet.invalid), gen := (b.gen + 1) % 16 }
        .go ((if dp.2.isNone then (b2.touch (dRuns d)).countTile set else b2).adv q))

/-- The shadow load completes (R70): the loaded set becomes the shadow set. -/
def Block.shadowDone (b : Block) : Block :=
  match b.loading with
  | none => b
  | some (id, set) =>
    if !set.valid then b
    else { b.updJob id (fun j => { j with rem := 0, done := true }) with shadow := set, loading := none }

/-- SWP at issue (R71, R72): it waits for a shadow load in progress, then exchanges the sets in one cycle. -/
def Block.issueSwp (b : Block) (q : Seq) (w : Nat) : Iss Block :=
  if b.streaming || b.loading.isSome then .hold
  else
    let b1 := b.flushPack.count cSwap 1
    let j : Job := { b.freshJob q w .bld with done := true }
    .go (({ b1 with active := b.shadow, shadow := b.active }.addJob j).adv q)

end Sys2Proof.Machine
end

