-- ==== Sys2Proof/Config.lean ====
section
/-! DEFINITION. What the spec leaves to the implementation or does not state, as constants without a body: nothing in the
model or in a proof can see their values. -/

namespace Sys2Proof.Config

/-- The internal error of a vector-engine function at an input code, in units that `fnErr` brings within 2^-30 of the
result (R122: at least 30 significant bits). First argument: the function; second: the FP32 input code. -/
opaque fnErr : Nat → Nat → Int

/-- SM3 of a byte string (R474 and its kin name the standard and give no algorithm). -/
opaque sm3Word : List Byte → BitVec 256

/-- That digest as a number. -/
def sm3 (bs : List Byte) : Nat := (sm3Word bs).toNat

/-- Does an SM2 signature over a digest verify under a public key? Arguments: key, digest, signature. -/
opaque sm2Verify : Nat → Nat → Nat → Bool

/-- An SM2 signature by a private key over a digest (64 bytes as a number). Arguments: key, digest, and which draw of the
signer's randomness it uses. -/
opaque sm2Sign : Nat → Nat → Nat → Nat

/-- The SM2 public key of a private key. -/
opaque sm2Public : Nat → Nat

/-- The identity private key that the key derivation of GB/T 32918 gives for a fused secret (Table 19-1). -/
opaque identityOf : Nat → Nat

/-- The vendor public key in ROM (Table 19-1). -/
opaque vendorKey : Nat

/-- Does a certificate chain check against the root key in ROM, for a device whose identity public key is given (R507)? -/
opaque certOk : List Byte → Nat → Bool

/-- The device certificate of a chain (R507). -/
opaque certDevice : List Byte → List Byte

/-- The SM3 of the ROM (Table 17-1, stage 2). -/
opaque romDigest : Nat

/-- The ROM version and the silicon stepping (Table 15-2). -/
opaque romVersion : Nat
opaque stepping : Nat

/-- What power-up or loss of power leaves in a store (Tables 16-5, 16-9: contents undefined): address and byte pairs.
Argument: which loss. -/
opaque lostCells : Nat → List (Nat × Byte)

/-- Which words of that store have check bytes that do not match, and how they differ. -/
opaque lostErrs : Nat → List (Nat × Nat)

/-- What a loss leaves in a register: which loss, and the register. -/
opaque lost : Nat → Nat → Nat

/-- A value the spec leaves open, the n-th drawn. -/
opaque free : Nat → Nat

end Sys2Proof.Config
end

