-- ==== Sys2Proof/Machine/Elem.lean ====
section
/-! DEFINITION. The elementary functions of the vector engine (Table 5-1): exact to about 100 bits, then moved by an
internal error of at most 2^-30 that the spec leaves open (R122), then rounded by the caller. -/

namespace Sys2Proof.Machine

/-- Fixed-point one: 2^128. -/
def fx1 : Nat := 2 ^ 128

/-- ln 2 in fixed point of 128 bits. -/
def fxLn2 : Nat := 235865763225513294137944142764154484399

/-- e^x − 1 series: sum of x^n / n! for n from `n`, each term from the last, in fixed point. -/
def expSer : Nat → Nat → Nat → Nat → Nat
  | 0, _, _, _ => 0
  | f + 1, n, x, t => t + expSer f (n + 1) x (t * x / fx1 / n)

/-- 2^f for a fixed-point fraction 0 ≤ f < 1. -/
def fxExp2 (f : Nat) : Nat := expSer 40 1 (f * fxLn2 / fx1) fx1

/-- A signed linear value in fixed point of 128 fraction bits, rounded toward minus infinity. -/
def toFx (v : Val) : Int :=
  let d := v.dy
  let e := d.e + 128
  if e ≥ 0 then d.i * 2 ^ e.toNat else d.i / ((2 ^ (-e).toNat : Nat) : Int)

/-- 2^y for a fixed-point y (128 fraction bits). -/
def exp2Fx (y : Int) : Val :=
  let k := y / (fx1 : Int)
  let f := (y % (fx1 : Int)).toNat
  .bin false (fxExp2 f) (k - 128)

/-- Is the magnitude at or above 2^13, where every exponential overflows or vanishes? -/
def hugeVal (v : Val) : Bool := let me := v.binMag; me.2 + Nat.log2 me.1 ≥ 13

/-- 2^a or e^a of a finite nonzero value. -/
def expVal (base2 : Bool) (a : Val) : Val :=
  if hugeVal a then (if a.sign then .bin false 1 (-8192) else .bin false 1 8192)
  else
    let x := toFx a
    let me := a.binMag
    if me.2 + Nat.log2 me.1 < -100 then .bin false (2 ^ 120 + (if a.sign then 0 else 2)) (-120)
    else exp2Fx (if base2 then x else x * (fx1 : Int) / (fxLn2 : Int))

/-- Fraction bits of log2 of a fixed-point value in [1, 2): repeated squaring. -/
def logBits : Nat → Nat → Nat → Nat
  | 0, _, acc => acc
  | n + 1, x, acc =>
    let y := x * x / fx1
    if y ≥ 2 * fx1 then logBits n (y / 2) (2 * acc + 1) else logBits n y (2 * acc)

/-- log2 of a positive finite value in fixed point of 110 fraction bits. -/
def log2Fx (a : Val) : Int :=
  let me := a.binMag
  let l := Nat.log2 me.1
  let x := if l ≤ 128 then me.1 * 2 ^ (128 - l) else me.1 / 2 ^ (l - 128)
  (me.2 + l) * 2 ^ 110 + (logBits 110 x 0 : Int)

/-- A fixed-point number of 110 fraction bits as a value. -/
def ofFx110 (i : Int) : Val := (Dy.mk i (-110)).val false

/-- The functions, numbered as the error constant names them. -/
inductive Fn
  | rcp | rsqrt | exp | exp2 | log | log2 | tanh | sigm
  deriving DecidableEq, Repr

def Fn.id : Fn → Nat
  | .rcp => 0 | .rsqrt => 1 | .exp => 2 | .exp2 => 3 | .log => 4 | .log2 => 5 | .tanh => 6 | .sigm => 7

def oneVal : Val := .bin false 1 0

/-- tanh of a finite nonzero value. -/
def tanhVal (a : Val) : Val :=
  let me := a.binMag
  if me.2 + Nat.log2 me.1 < -20 then
    let x2 := a.mul a
    a.mul (oneVal.add ((x2.div (.bin false 3 0)).neg.add ((x2.mul x2).mul (quotVal false 2 15 0))))
  else if hugeVal a then .bin a.sign (2 ^ 100 - 1) (-100)
  else
    let t := expVal false (a.scale2 1)
    (t.add oneVal.neg).div (t.add oneVal)

/-- The function's real value at an input (IEEE 754 special cases, R60). -/
def fnReal (f : Fn) (a : Val) : Val :=
  match f, a with
  | _, .nan => .nan
  | .rcp, a => oneVal.div a
  | .rsqrt, .zero s => .inf s
  | .rsqrt, a => oneVal.div a.sqrt
  | .exp, .zero _ => oneVal
  | .exp2, .zero _ => oneVal
  | .exp, .inf s => if s then .zero false else .inf false
  | .exp2, .inf s => if s then .zero false else .inf false
  | .exp, a => expVal false a
  | .exp2, a => expVal true a
  | .log, .zero _ => .inf true
  | .log2, .zero _ => .inf true
  | .log, .inf s => if s then .nan else .inf false
  | .log2, .inf s => if s then .nan else .inf false
  | .log, a => if a.sign then .nan else ((Dy.mk (log2Fx a) (-110)).mul ⟨(fxLn2 : Int), -128⟩).val false
  | .log2, a => if a.sign then .nan else ofFx110 (log2Fx a)
  | .tanh, .zero s => .zero s
  | .tanh, .inf s => .bin s 1 0
  | .tanh, a => tanhVal a
  | .sigm, .zero _ => .bin false 1 (-1)
  | .sigm, .inf s => if s then .zero false else oneVal
  | .sigm, a => oneVal.div (oneVal.add (expVal false a.neg))

/-- The internal error brought within 2^-30 of the value, as a factor. -/
def errFactor (i : Int) : Val := (Dy.mk (2 ^ 40 + ((i % 2049) - 1024)) (-40)).val false

/-- A function's value before its rounding (R122). It depends only on the function and its input. -/
def fnVal (f : Fn) (a : Val) : Val :=
  match fnReal f a with
  | .bin s m e => (Val.bin s m e).mul (errFactor (Config.fnErr f.id (roundTo .fp32 false a).code))
  | v => v

/-- EXP, LOG and RSQRT rounded to FP32, for the row engine. -/
def expR (a : Val) : Val := rnF (fnVal .exp a)
  where rnF (v : Val) : Val := fp32 (roundTo .fp32 false v).code
def logR (a : Val) : Val := fp32 (roundTo .fp32 false (fnVal .log a)).code
def rsqrtR (a : Val) : Val := fp32 (roundTo .fp32 false (fnVal .rsqrt a)).code

end Sys2Proof.Machine
end

