-- ==== Sys2Proof/Machine/Vector.lean ====
section
/-! DEFINITION. The vector engine (chapter 5): VOP operations, row reductions, VOP.ACC, VOP.MSET and CVT. -/

namespace Sys2Proof.Machine

/-- A shape: dimension-0 size, the other sizes, and whether it comes from a queue entry, whose outer sizes are one
number. -/
structure Shape where
  n0 : Nat
  outer : List Nat
  queue : Bool
  deriving DecidableEq, Repr

def dropOnes (l : List Nat) : List Nat := (l.reverse.dropWhile (· == 1)).reverse

def descShape (d : Nat) : Shape := ⟨dN0 d, (dSizes d).drop 1, false⟩

def Shape.rows (s : Shape) : Nat := prodL s.outer

/-- Have two operands the same sizes in every dimension (R120)? A queue entry has one outer size (R176). -/
def Shape.same (a b : Shape) : Bool :=
  a.n0 == b.n0 && (if a.queue || b.queue then a.rows == b.rows else dropOnes a.outer == dropOnes b.outer)

/-- A source operand read at issue. -/
inductive VSrc
  | tens (d : Nat) (isDesc : Bool) (s : Shape)
  | queue (q : Nat) (s : Shape)
  | imm (v : Nat)
  | rowB (d : Nat)
  | colB (d : Nat)
  deriving DecidableEq, Repr

/-- A source specifier resolved (R120, R123, R202): its descriptor checked, its queue's head entry present; a format that is not
accepted fails check 1 for a descriptor and for an entry alike. An operation that names one queue twice reads the same head entry
for both and consumes an entry for each (DESIGN CHOICE, log entry 122). -/
def Block.vsrc (b : Block) (ok : List Fmt) (v : Nat) : Iss (Option VSrc) :=
  let h := spVal v
  match spKind v with
  | 0 => .go none
  | 3 => .go (some (.imm (b.vimm.getD (h % 16) 0)))
  | 2 =>
    match b.headFields (h % 8) with
    | none => .hold
    | some none => .fault { ErrI.of 7 with handle := h % 8 }
    | some (some (f, n0, n1, _)) =>
      if ok.contains f then .go (some (.queue (h % 8) ⟨n0, [n1], true⟩)) else .fault { ErrI.of 4 with sub := 1, handle := h % 8 }
  | k =>
    (b.operandNow (localSrc ok) h).bind (fun d =>
      .go (some (if k = 1 then .tens d true (descShape d) else if k = 4 then .rowB d else .colB d)))

def VSrc.shape : VSrc → Option Shape
  | .tens _ _ s => some s
  | .queue _ s => some s
  | _ => none

/-- Do broadcast sizes match the rows or dimension 0 they serve (R120)? -/
def VSrc.fits (o : VSrc) (s : Shape) : Bool :=
  match o with
  | .rowB d => dElems d == s.rows
  | .colB d => dElems d == s.n0
  | _ => true

/-- The values of a source as rows × n0, with poison marks. -/
def VSrc.get (b : Block) (o : VSrc) (s : Shape) : List (List (Val × Bool)) :=
  let flat (d : Nat) : List (Val × Bool) := ((b.readT d).rows.map (rowVals (dF d))).flatten
  match o with
  | .tens d _ _ => (b.readT d).rows.map (rowVals (dF d))
  | .queue q _ =>
    match b.popEntry q with
    | some (t, _) => t.rows.map (rowVals t.fmt)
    | none => []
  | .imm v => List.replicate s.rows (List.replicate s.n0 (fp32 v, false))
  | .rowB d => (flat d).map (fun v => List.replicate s.n0 v)
  | .colB d => List.replicate s.rows (flat d)

/-- The reads of a source recorded, and a queue entry consumed. -/
def Block.consume (b : Block) (o : VSrc) : Block :=
  match o with
  | .tens d _ _ => b.touch (dRuns d)
  | .rowB d => b.touch (dRuns d)
  | .colB d => b.touch (dRuns d)
  | .queue q _ => match b.popEntry q with | some (_, b') => b' | none => b
  | .imm _ => b

/-- One value of a list of rows. -/
def at2 (l : List (List (Val × Bool))) (r i : Nat) : Val × Bool := (l.getD r []).getD i (.zero false, false)

/-- A comparison result (R122): false where either is NaN. -/
def cmpRes (k : Nat) (a b : Val) : Val :=
  let t := if a == .nan || b == .nan then false
    else match k with
      | 18 => a.cmp b == .eq
      | 19 => a.cmp b != .eq
      | 20 => a.cmp b == .lt
      | _ => a.cmp b != .gt
  if t then oneVal else .zero false

/-- Elementwise VOP k on up to three values, before rounding (Table 5-1, Table 8-11). -/
def vopVal (k : Nat) (a b c : Val) : Val :=
  match k with
  | 0 => a.add b
  | 1 => a.add b.neg
  | 2 => a.mul b
  | 3 => (a.mul b).add c
  | 4 => a.max b
  | 5 => a.min b
  | 6 => a.withSign false
  | 7 => a.neg
  | 8 => a.div b
  | 9 => a.sqrt
  | 10 => fnVal .rcp a
  | 11 => fnVal .rsqrt a
  | 12 => fnVal .exp a
  | 13 => fnVal .exp2 a
  | 14 => fnVal .log a
  | 15 => fnVal .log2 a
  | 16 => fnVal .tanh a
  | 17 => fnVal .sigm a
  | 22 => if c == .nan || !c.isZero then a else b
  | k => cmpRes k a b

/-- The lane format of a VOP. -/
def laneFmt (bf : Bool) : Fmt := if bf then .bf16 else .fp32

/-- One lane result: rounded once to the lane format, counted (R123). -/
def laneRes (bf sat : Bool) (v : Val) : Val × Cnt :=
  let e := roundTo (laneFmt bf) sat v
  ((laneFmt bf).decode 127 e.code, e.cnt)

/-- Tree reduction of a power-of-two list by adjacent pairs (R125). -/
def treeF : Nat → (Val → Val → Val) → List Val → Val
  | 0, _, l => l.headD (.zero false)
  | n + 1, f, l => if l.length ≤ 1 then l.headD (.zero false) else treeF n f ((chunks 2 l).map (fun p =>
      match p with | [a, b] => f a b | _ => p.headD (.zero false)))

/-- One add of the tree: exact, rounded to FP32 (R125). -/
def addRn (a b : Val) : Val := rn (a.add b)

/-- The combining step and identity of row reductions RSUM, RMAX, RMIN, RSSQ. -/
def redOp (k : Nat) : Val → Val → Val :=
  match k with | 24 => Val.max | 25 => Val.min | _ => addRn
def redId (k : Nat) : Val :=
  match k with | 24 => .inf true | 25 => .inf false | _ => .zero false

/-- A row reduced in groups of `lanes` (R125): masked lanes and the padding give the identity. -/
def reduceRow (k lanes : Nat) (mask : Option Nat) (vs : List Val) : Val :=
  let sq (v : Val) : Val := if k = 26 then v.mul v else v
  let gs := (chunks lanes vs).map (fun g =>
    treeF 8 (redOp k) ((List.range lanes).map (fun i =>
      if laneOn mask i then (match g[i]? with | some v => sq v | none => redId k) else redId k)))
  match gs with
  | [] => redId k
  | g :: rest => rest.foldl (redOp k) g

/-- Did the exact result of a sum of squares that came out zero have a nonzero square in it (R55)? -/
def redFlushed (k lanes : Nat) (mask : Option Nat) (vs : List Val) (res : Val) : Bool :=
  k == 26 && res.isZero && ((List.range vs.length).zip vs).any (fun iv => laneOn mask (iv.1 % lanes) && !iv.2.isZero)

/-- Sum of a row by R125, as the row engine uses it. -/
def rowSum (vs : List Val) : Val := reduceRow 23 64 none vs

/-- A destination: the descriptor copy or the queue, with its format. -/
inductive VDst
  | desc (h d : Nat)
  | queue (q : Nat) (f : Fmt)
  | nothing
  deriving DecidableEq, Repr

def VDst.fmt : VDst → Fmt
  | .desc _ d => dF d | .queue _ f => f | .nothing => .fp32

def VDst.sat : VDst → Bool
  | .desc _ d => dSatB d | _ => false

/-- The destination specifier resolved: a descriptor accepting `ok`, or a queue whose ring can hold the entry (R176,
R178). The queue is reserved by the caller. -/
def Block.vdst (b : Block) (ok : List Fmt) (qf : Fmt) (v : Nat) : Iss VDst :=
  if spKind v = 1 then (b.operandNow (localDst ok) (spVal v)).bind (fun d => .go (.desc (spVal v) d))
  else if spKind v = 2 then .go (.queue (spVal v % 8) qf)
  else .go .nothing

/-- Room for an entry in a queue destination: oversize faults, no room holds (R176, R178). -/
def Block.room (b : Block) (dst : VDst) (n0 n1 : Nat) : Iss Unit :=
  match dst with
  | .queue q f =>
    let w := entWords f n0 n1
    if w > ringWords (b.q q).cfg then .fault { ErrI.of 6 with handle := q }
    else if (b.q q).used + w > ringWords (b.q q).cfg then .hold
    else .go ()
  | _ => .go ()

/-- One result row with per-element facts: the value, poisoned, masked off and kept as it was, masked off (not counted),
and the count found in the lanes. -/
structure RElem where
  v    : Val
  bad  : Bool := false
  keep : Bool := false
  quiet : Bool := false
  cnt  : Cnt := {}
  rnd  : Rnd := .nearest
  fill : Bool := false

/-- Rows of results encoded into a format: rows of codes with the kept elements' old codes in place, and the counts of the
counted elements (R55, R124, R127). `old` are the destination's present rows. `cvt`: a scale block whose elements are all
kept keeps its scale byte. -/
def encodeRows (f : Fmt) (sat : Bool) (rows : List (List RElem)) (old : List TRow) : List TRow × Cnt :=
  let one (re : List RElem) (o : TRow) : TRow × Cnt :=
    let ov := rowVals f o
    let vals := ((List.range re.length).zip re).map (fun ie =>
      if ie.2.fill && f.scaled then (ov.getD ie.1 (.zero false, false)).1 else ie.2.v)
    let (sc, es) := f.encRow sat (re.map RElem.rnd) vals
    let bl := max 1 f.block
    let kept (j : Nat) : Bool := ((re.drop (j * bl)).take bl).all RElem.keep
    let sc' := ((List.range sc.length).zip sc).map (fun js =>
      if kept js.1 then o.scales.getD js.1 (js.2, false)
      else (js.2, ((re.drop (js.1 * bl)).take bl).any (fun e => e.bad && !e.keep)))
    let els := ((List.range re.length).zip (re.zip es)).map (fun ie =>
      if ie.2.1.keep then o.elems.getD ie.1 (0, false) else (ie.2.2.code, ie.2.1.bad))
    let c := (re.zip es).foldl (fun c p =>
      if p.1.quiet || p.1.bad then c
      else c.add (if p.2.cnt == {} then p.1.cnt else p.2.cnt)) ({} : Cnt)
    ({ scales := sc', elems := els }, c)
  let rs := (rows.zip (old ++ List.replicate rows.length ⟨[], []⟩)).map (fun ro => one ro.1 ro.2)
  (rs.map Prod.fst, rs.foldl (fun c p => c.add p.2) ({} : Cnt))

/-- Results written to their destination by a fresh job: a tensor at once, an entry reserved and filled and still to be
committed (R176). `unit` is the first counter of the unit. -/
def Block.deliver (b : Block) (j : Job) (dst : VDst) (unit : Nat) (rows : List (List RElem)) : Block :=
  match dst with
  | .desc h d =>
    let old := if rows.any (fun r => r.any RElem.keep) then (b.readT d).rows else []
    let (rs, c) := encodeRows (dF d) (dSatB d) rows old
    let bad := rs.any (fun r => r.elems.any Prod.snd)
    let anyKeep := rows.any (fun r => r.any RElem.keep)
    let b1 := if anyKeep && !(dF d).scaled then
        b.writeR (coalesce (((dRowOffs d).zip (rs.zip rows)).flatMap (fun orr =>
          rowWritesMasked d orr.1 (orr.2.1.elems.zip (orr.2.2.map (fun e => !e.keep))))))
      else b.writeT d { fmt := dF d, n0 := dN0 d, rows := rs }
    (b1.count3 unit c).addJob { j with dst := some h, handles := h :: j.handles, done := true, flags := cntFlags c + 32 * b2n bad }
  | .queue q f =>
    let n0 := (rows.head?.map List.length).getD 0
    let (rs, c) := encodeRows f false rows []
    match b.reserve q (entWords f n0 rows.length) (some j.id) with
    | none => b
    | some b1 =>
      ((b1.addJob { j with rem := 1 }).fillEntry q j.id { fmt := f, n0 := n0, rows := rs }).count3 unit c
  | .nothing => b.addJob { j with done := true }

/-- Handles that a word's VOP or CVT specifiers name. -/
def specHandles (vs : List Nat) : List Nat :=
  (vs.filter (fun v => spKind v == 1 || spKind v == 4 || spKind v == 5)).map spVal

/-- The shape that the non-broadcast operands fix (R120): a descriptor's, else that of a queue's entry; a reduction's
destination fixes none. Sources come with their specifiers' values, the destination descriptor with its handle. -/
def vecShape (srcs : List (Nat × VSrc)) (dst : Option (Nat × Shape)) (red : Bool) : Option Shape :=
  let tens := srcs.filterMap (fun x => match x.2 with | .tens _ _ s => some s | _ => none)
  let ques := srcs.filterMap (fun x => match x.2 with | .queue _ s => some s | _ => none)
  (tens ++ (if red then [] else (dst.map Prod.snd).toList) ++ ques).head?

/-- The first operand that does not match a shape: VEC_SHAPE naming a source, then a destination, whose descriptor does not
match (R120); QUEUE_SHAPE naming a queue whose entry does not (R177). -/
def vecFault (srcs : List (Nat × VSrc)) (dst : Option (Nat × Shape)) (red : Bool) (s : Shape) : Option ErrI :=
  let out : Shape := if red then ⟨1, s.outer, s.queue⟩ else s
  let isQ (o : VSrc) : Bool := match o with | .queue _ _ => true | _ => false
  let wrong (o : VSrc) : Bool := !(o.fits s) || !((o.shape.getD s).same s)
  let dWrong := match dst with
    | some (_, t) => if s.queue then t.n0 != out.n0 else !(t.same out)
    | none => false
  let qWrong := s.queue && (match dst with | some (_, t) => t.rows != s.rows | none => false)
  match srcs.find? (fun x => !(isQ x.2) && wrong x.2) with
  | some x => some { ErrI.of 0x14 with handle := x.1 }
  | none =>
    if dWrong then some { ErrI.of 0x14 with handle := ((dst.map Prod.fst).getD 0xFF) }
    else
      match srcs.find? (fun x => isQ x.2 && (wrong x.2 || qWrong)) with
      | some x => some { ErrI.of 7 with handle := x.1 % 8 }
      | none => none

/-- VOP at issue, other than ACC and MSET (R120 to R125, R211). -/
def Block.issueVop (b : Block) (q : Seq) (w k : Nat) (bf : Bool) : Iss Block :=
  let vs := [bits w 27 11, bits w 16 11, bits w 5 11]
  let dv := bits w 38 11
  let ok := if bf then [Fmt.bf16] else [Fmt.fp32, .bf16]
  let red := 23 ≤ k && k ≤ 26
  (b.vsrc ok (vs.getD 0 0)).bind (fun a =>
  (b.vsrc ok (vs.getD 1 0)).bind (fun bb =>
  (b.vsrc ok (vs.getD 2 0)).bind (fun cc =>
  (b.vdst (if bf then [.bf16] else fromLane) (laneFmt bf) dv).bind (fun dst =>
    let srcs := [a, bb, cc].filterMap id
    let named := ((vs.map spVal).zip [a, bb, cc]).filterMap (fun x => x.2.map (fun o => (x.1, o)))
    let dsh := match dst with | .desc h d => some (h, descShape d) | _ => none
    match vecShape named dsh red with
    | none => .fault (ErrI.of 0x14)
    | some s =>
      match vecFault named dsh red s with
      | some e => .fault e
      | none =>
        (b.room dst (if red then 1 else s.n0) s.rows).bind (fun _ =>
          let lanes := if bf then 128 else 64
          let mask := if bit w 4 then some (b.mask q (bits w 1 3)) else none
          let zero := bit w 0
          let sat := dst.sat
          let ga := (a.map (fun o => o.get b s)).getD []
          let gb := (bb.map (fun o => o.get b s)).getD []
          let gc := (cc.map (fun o => o.get b s)).getD []
          let rows : List (List RElem) := (List.range s.rows).map (fun r =>
            if red then
              let row := ga.getD r []
              let v := reduceRow k lanes mask (row.map Prod.fst)
              let bad := ((List.range row.length).zip row).any (fun iv => laneOn mask (iv.1 % lanes) && iv.2.2)
              let vc := laneRes bf sat v
              [{ v := vc.1, bad := bad
                 cnt := if redFlushed k lanes mask (row.map Prod.fst) v then { flu := 1 } else vc.2 }]
            else (List.range s.n0).map (fun i =>
              let t := r * s.n0 + i
              if laneOn mask (t % lanes) then
                let x := at2 ga r i
                let y := at2 gb r i
                let z := at2 gc r i
                let vc := laneRes bf sat (vopVal k x.1 y.1 z.1)
                ({ v := vc.1, bad := x.2 || y.2 || z.2, cnt := vc.2 } : RElem)
              else if zero then { v := .zero false, quiet := true }
              else { v := .zero false, keep := true, quiet := true, fill := true }))
          let rows := match dst with
            | .queue _ _ => rows.map (fun r => r.map (fun e => if e.keep then { e with v := .zero false, keep := false } else e))
            | _ => rows
          let b1 := srcs.foldl Block.consume b
          let j : Job := { b.freshJob q w .vec with handles := specHandles vs }
          let groups := if red then s.rows * cdiv s.n0 lanes else cdiv (s.rows * s.n0) lanes
          .go (((b1.deliver j dst cVec rows).count cGroups groups).adv q))))))

/-- VOP.MSET (Table 8-11): the mask register from the 16 bytes at A's ADDR. -/
def Block.issueMset (b : Block) (q : Seq) (w : Nat) : Iss Block :=
  let h := spVal (bits w 27 11)
  (b.operandNow (localSrc allFmts) h).bind (fun d =>
    if (dMaxOff d + 1) * (dF d).width < 128 then .fault (shape11 h)
    else
      let v := ofLE (b.spad.read (dAddr d) 16)
      let mk := bits w 1 3
      let b1 := b.touch [(dAddr d, 16)]
      let b2 := match q with
        | .b => { b1 with maskB := b1.maskB.set mk v }
        | _ => { b1 with maskF := b1.maskF.set mk v }
      .go ((b2.addJob { b.freshJob q w .vec with done := true, handles := [h] }).adv q))

/-- Do partials of an MM still to come reach the tile at `base`: rows in the packer, or passes of a streamed MM (R114)? -/
def Block.partialsDue (b : Block) (base : Nat) : Bool :=
  b.packed.any (fun r => r.base == base)
    || b.jobs.any (fun j => match j.strm with | some s => s.base == base && decide (s.pass < s.passes) | none => false)

/-- VOP.ACC at issue (R126, R212): the source rows added to the tile, which closes for its drain with LAST. Its rows add after the
partials of every MM on the tile that issued before it, so that the sum's order is the program's (R114, DEDUCED, log entry 123). -/
def Block.issueAcc (b : Block) (q : Seq) (c : Ctx) (w : Nat) : Iss Block :=
  let f := accF w
  let fam := if f.fam = 0 then Fam.sum else if f.fam = 1 then Fam.ssq else Fam.wel
  let af := if f.fam = 2 then AccF.wel else afOf f.ext
  if b.spilling f.base || b.partialsDue f.base then .hold
  else
    (b.vsrc [.fp32, .bf16] f.a).bind (fun src =>
      match src with
      | none => .hold
      | some o =>
        match o.shape with
        | none => .fault (ErrI.of 0x14)
        | some s =>
          if s.n0 ≠ 32 || s.rows ≠ f.m then
            .fault (if s.queue then { ErrI.of 7 with handle := spVal f.a % 8 } else { ErrI.of 0x14 with handle := spVal f.a })
          else
            (b.drainDescs f.last f.chn f.out f.m (f.fam == 2)).bind (fun ds =>
              (b.takeTile f.init f.base f.m af fam c).bind (fun b1 =>
                let rows := o.get b s
                let b2 := b1.consume o
                let b3 := ((List.range rows.length).zip rows).foldl (fun bb ir =>
                  match bb.tileAt f.base with
                  | some t => bb.addRow t ir.1 (ir.2.map (fun v => some (rn32 v.1)))
                  | none => bb) b2
                let bad := rows.any (fun r => r.any Prod.snd)
                let b4 := (b3.updTile f.base (fun t => { t.addSteps 1 1 with poison := t.poison || bad })).count
                  cGroups (cdiv f.m 2)
                let j : Job := { b.freshJob q w .acc with
                  dst := if f.last then some f.out else none
                  drain := if f.last then some (f.out, f.chn) else none
                  descs := ds, done := !f.last
                  handles := specHandles [f.a] ++ ds.map Prod.fst }
                let b5 := b4.addJob j
                .go ((if f.last then b5.toDrain j.id f.base else b5).adv q))))

/-- Does Table 2-8 list a CVT path (R52)? -/
def cvtPath (s d : Fmt) : Bool :=
  let low (f : Fmt) : Bool := f.isLog || isFp8 f
  match s with
  | .fp32 | .bf16 => low d || d == .fp64 || (s != d && (d == .fp32 || d == .bf16))
  | _ => low s && s != d && (low d || d == .fp32 || d == .bf16)

/-- Does a CVT path round stochastically where SR is set (R40, Table 2-8)? -/
def cvtStoch (s d : Fmt) : Bool :=
  match d with
  | .fp32 | .fp64 => false
  | .bf16 => s == .fp32
  | _ => true

/-- CVT at issue (R120, R127, R213): its source is any operand of Table 8-3, an immediate an FP32 value. A mask suppresses
element writes only: masked elements convert, draw and count. -/
def Block.issueCvt (b : Block) (q : Seq) (w : Nat) : Iss Block :=
  let dv := bits w 38 11
  let sv := bits w 27 11
  let sr := bit w 26
  let lanes0 := if bit w 25 then seedLanes 64 (b.vimm.getD (bits w 21 4) 0) else b.lanes
  if spKind sv = 0 then
    .go (({ b with lanes := lanes0 }.addJob { b.freshJob q w .vec with done := true }).adv q)
  else
    (b.vsrc allFmts sv).bind (fun so =>
      match so with
      | none => .hold
      | some o =>
        let sf := match o with
          | .tens d _ _ | .rowB d | .colB d => dF d
          | .queue qn _ => match b.headFields qn with | some (some (f, _, _, _)) => f | _ => .fp32
          | .imm _ => .fp32
        let tf := (Fmt.ofCode (bits w 13 4)).getD .fp32
        (b.vdst allFmts tf dv).bind (fun dst =>
          let dsh := match dst with | .desc h d => some (h, descShape d) | _ => none
          match vecShape [(spVal sv, o)] dsh false with
          | none => .fault (ErrI.of 0x14)
          | some s =>
            if !(cvtPath sf dst.fmt) then .fault { ErrI.of 1 with handle := if spKind dv = 1 then spVal dv else 0xFF }
            else
              match vecFault [(spVal sv, o)] dsh false s with
              | some e => .fault e
              | none =>
              (b.room dst s.n0 s.rows).bind (fun _ =>
                let mask := if bit w 20 then some (b.mask q (bits w 17 3)) else none
                let rows := o.get b s
                let (draws, lanes1) := if sr then drawMany (s.rows * s.n0) 0 64 lanes0 else ([], lanes0)
                let st := sr && cvtStoch sf dst.fmt
                let res : List (List RElem) := ((List.range s.rows).zip rows).map (fun rr =>
                  ((List.range s.n0).zip rr.2).map (fun iv =>
                    let t := rr.1 * s.n0 + iv.1
                    let on := laneOn mask (t % 64)
                    { v := iv.2.1, bad := iv.2.2, keep := !on
                      rnd := if st then .draw (draws.getD t 0) else .nearest }))
                let b1 := b.consume o
                let j : Job := { b.freshJob q w .vec with handles := specHandles [sv] }
                .go ((({ b1 with lanes := lanes1 }.deliver j dst cCvt res).count cGroups
                  (cdiv (s.rows * s.n0) 64)).adv q))))

end Sys2Proof.Machine
end

