-- ==== Sys2Proof/Machine/Row.lean ====
section
/-! DEFINITION. The row engine and its side memory (chapter 5): normalisation, soft-maximum, statistics kept by key. -/

namespace Sys2Proof.Machine

/-- A side-memory slot: key, kind, valid, V0, V1, whether its tag cannot be trusted, and whether a word that it depends on is
bad. -/
structure Slot where
  key  : Nat
  kind : Nat
  valid : Bool
  v0   : Nat
  v1   : Nat
  tagBad : Bool
  bad  : Bool
  deriving DecidableEq, Repr

/-- The slot as read (R129). A tag word that is uncorrectable says nothing of its four slots. Once a valid bit has been cleared in
it (R141) the word is poisoned, and of its slots those still valid cannot be trusted (DEDUCED, log entry 124). -/
def Block.slot (b : Block) (i : Nat) : Slot :=
  let t := ofLE (b.sideT.read (8 * i) 8)
  let st := b.sideT.state (i / 4)
  let tagBad := st == .uncorrectable || (st == .poisoned && bit t 34)
  { key := bits t 0 32, kind := bits t 32 2, valid := bit t 34,
    v0 := b.sideV.w32 (8 * i), v1 := b.sideV.w32 (8 * i + 4),
    tagBad := tagBad, bad := tagBad || b.sideV.badIn (8 * i) 8 }

/-- The reads of a slot's words recorded (R129, R141). -/
def Block.touchSlots (b : Block) (is : List Nat) : Block :=
  let rs := is.map (fun i => (8 * i, 8))
  let b1 := b.note b.sideT (runWords b.sideT rs) cSideCorr 4 2
  b1.note b.sideV (runWords b.sideV rs) cSideCorr 4 2

/-- A slot's tag written. -/
def Block.setTag (b : Block) (i key kind : Nat) (valid : Bool) : Block :=
  { b with sideT := b.sideT.write (8 * i) (toLE 8 (key + kind * 2 ^ 32 + b2n valid * 2 ^ 34)) }

/-- A slot's tag and values written, its words read first as each is shared by four slots (R129, R142, R145). -/
def Block.writeSlot (b : Block) (i key kind : Nat) (valid : Bool) (vs : List Byte) : Block :=
  let b1 := b.touchSlots [i]
  { b1.setTag i key kind valid with sideV := b1.sideV.write (8 * i) vs }

/-- A slot written with valid statistics; a valid slot with another key counts as an eviction (R130). -/
def Block.putSlot (b : Block) (i key kind v0 v1 : Nat) : Block :=
  let s := b.slot i
  (if s.valid && s.key != key then b.count cEvict 1 else b).writeSlot i key kind true (toLE 4 v0 ++ toLE 4 v1)

/-- Kind codes (Table 5-2). -/
def kLN := 0
def kRMS := 1
def kSM := 2

/-- A lookup (R131): a hit, or the CAUSE of Table 5-7. A slot whose tag cannot be trusted is no miss: its row goes on and is written
poisoned (R141). -/
def lookup (s : Slot) (key kind : Nat) : Option Nat :=
  if s.tagBad then none else if !s.valid then some 0 else if s.key ≠ key then some 1 else if s.kind ≠ kind then some 2 else none

/-- ROW_MISS_INFO of a miss (Table 5-7). -/
def missInfo (cause : Nat) (ctxB : Bool) (slot key : Nat) : Nat :=
  cause * 2 ^ 46 + b2n ctxB * 2 ^ 45 + slot * 2 ^ 32 + key

/-- One merge of statistics (R136): (m, l, αa, αb), the factors before their rounding. -/
def smMerge (ma la mb lb : Val) : Val × Val × Val × Val :=
  if ma == .inf true && mb == .inf true then (.inf true, .inf true, .zero false, .zero false)
  else
    let m := ma.max mb
    let da := rn (ma.add m.neg)
    let db := rn (mb.add m.neg)
    let ta := rn (da.add la)
    let tb := rn (db.add lb)
    let l := logR (rn ((expR ta).add (expR tb)))
    (m, l, fnVal .exp da, fnVal .exp db)

/-- (max, ln Σ exp) of one group of scaled inputs (R134, R136). -/
def smGroup (zs : List Val) : Val × Val :=
  let pad (i : Nat) : Val := zs.getD i (.inf true)
  let m := treeF 8 Val.max ((List.range 64).map pad)
  if m == .inf true then (.inf true, .inf true)
  else
    let es := (List.range 64).map (fun i => match zs[i]? with | some z => expR (rn (z.add m.neg)) | none => .zero false)
    (m, logR (treeF 8 addRn es))

/-- The running fold of a row's groups, ascending (R134). It starts from (−∞, −∞) and merges the first group too, as ROW.SM.CH does
with FIRST (DEDUCED, log entry 125). -/
def smStats (zs : List Val) : Val × Val :=
  if zs.any (fun z => z == .nan) then (.nan, .nan)
  else (chunks 64 zs).foldl (fun s g =>
    let gs := smGroup g
    let r := smMerge s.1 s.2 gs.1 gs.2
    (r.1, r.2.1)) (.inf true, .inf true)

/-- Scaled inputs of row `i`: z = RN32(σ × x), −infinity where excluded, whatever x is there (R134, DEDUCED, log entry 125). -/
def smScaled (sigma : Val) (causal : Bool) (off : Int) (i : Nat) (xs : List Val) : List Val :=
  ((List.range xs.length).zip xs).map (fun jx =>
    if causal && decide ((jx.1 : Int) > (i : Int) + off) then .inf true else rn (sigma.mul jx.2))

/-- y of one element from its row's statistics, before its rounding: 0 in a row whose elements are all excluded (R134). -/
def smY (m l z : Val) : Val := if m == .inf true then .zero false else fnVal .exp (rn ((rn (z.add m.neg)).add l.neg))

/-- Division of an R125 sum by N, correctly rounded (R133). -/
def meanOf (s : Val) (n : Nat) : Val := rn (s.div (Dy.mk n 0 |>.val false))

/-- One row's work: the values written (first output, second output or x̂, row-vector values), each before the rounding of its last
operation, which its lane does and counts (R51, R55, R123); and the statistics stored. -/
structure RowRes where
  y    : List Val
  xh   : List Val
  va   : Option Val
  vb   : Option Val
  stat : Option (Nat × Nat × Nat)   -- kind, V0, V1

/-- ROW.LN.F (R133). -/
def rowLnF (x g be : List Val) (eps : Val) : RowRes :=
  let n := x.length
  let mu := meanOf (rowSum x) n
  let d := x.map (fun v => rn (v.add mu.neg))
  let v := meanOf (rowSum (d.map (fun e => rn (e.mul e)))) n
  let rho := rsqrtR (rn (v.add eps))
  let xh := d.map (fun e => rn (e.mul rho))
  { y := (xh.zip (g.zip be)).map (fun t => (t.1.mul t.2.1).add t.2.2), xh := [], va := none, vb := none
    stat := some (kLN, rn32 mu, rn32 rho) }

/-- ROW.RMS.F (R133). -/
def rowRmsF (x g : List Val) (eps : Val) : RowRes :=
  let ms := meanOf (rowSum (x.map (fun v => rn (v.mul v)))) x.length
  let rho := rsqrtR (rn (ms.add eps))
  let xh := x.map (fun v => rn (v.mul rho))
  { y := (xh.zip g).map (fun t => t.1.mul t.2), xh := [], va := none, vb := none
    stat := some (kRMS, 0, rn32 rho) }

/-- ROW.LN.B and ROW.RMS.B (R133): `ln` subtracts the mean of ĝ. -/
def rowB (ln : Bool) (x dy g : List Val) (mu rho : Val) : RowRes :=
  let n := x.length
  let xe := x.map (fun v => (if ln then rn (v.add mu.neg) else v).mul rho)
  let xh := xe.map rn
  let gh := (dy.zip g).map (fun t => rn (t.1.mul t.2))
  let a := meanOf (rowSum gh) n
  let bb := meanOf (rowSum ((gh.zip xh).map (fun t => rn (t.1.mul t.2)))) n
  { y := (gh.zip xh).map (fun t =>
      let u := if ln then rn (t.1.add a.neg) else t.1
      rho.mul (rn (u.add (rn (t.2.mul bb)).neg))),
    xh := xe, va := none, vb := none, stat := none }

/-- ROW.SM.F (R134). -/
def rowSmF (z : List Val) : RowRes :=
  let ml := smStats z
  { y := z.map (fun e => if ml.1 == .nan then .nan else smY ml.1 ml.2 e), xh := [], va := none, vb := none
    stat := some (kSM, rn32 ml.1, rn32 ml.2) }

/-- ROW.SM.B (R134). -/
def rowSmB (sigma : Val) (z dy : List Val) (m l : Val) : RowRes :=
  let y := z.map (fun e => rn (smY m l e))
  let g := rowSum ((dy.zip y).map (fun t => rn (t.1.mul t.2)))
  let nan := z.any (fun v => v == .nan) || dy.any (fun v => v == .nan) || m == .nan
  { y := (y.zip dy).map (fun t =>
      if nan then .nan else (rn (sigma.mul t.1)).mul (rn (t.2.add g.neg))),
    xh := [], va := none, vb := none, stat := none }

/-- ROW.SM.CH (R137). -/
def rowSmCh (z : List Val) (ma la : Val) : RowRes :=
  let s := smStats z
  let r := smMerge ma la s.1 s.2
  { y := z.map (fun e => if r.1 == .inf true then .zero false else fnVal .exp (rn (e.add r.1.neg))), xh := []
    va := some r.2.2.1, vb := some r.2.2.2, stat := some (kSM, rn32 r.1, rn32 r.2.1) }

/-- ROW.SM.MRG (R138). -/
def rowMrg (ma la mb lb : Val) : RowRes :=
  let r := smMerge ma la mb lb
  { y := [], xh := [], va := some r.2.2.1, vb := some r.2.2.2, stat := some (kSM, rn32 r.1, rn32 r.2.1) }

/-- A ROW operand X: a descriptor or a queue, its shape. -/
def Block.rowX (b : Block) (qx : Bool) (v : Nat) : Iss (VSrc × Shape) :=
  (b.vsrc [.fp32, .bf16] ((if qx then 512 else 256) + (if qx then v % 8 else v))).bind (fun o =>
    match o with
    | some o => (match o.shape with | some s => .go (o, s) | none => .fault (ErrI.of 0x14))
    | none => .fault (ErrI.of 0x14))

/-- Sizes that do not match an X taken from a queue: the entry is the mismatch, QUEUE_SHAPE (R177). -/
def Iss.againstX {α : Type} (r : Iss α) (s : Shape) (xv : Nat) : Iss α :=
  match r with
  | .fault e => if s.queue && e.code = 0x14 then .fault { ErrI.of 7 with handle := xv % 8 } else r
  | _ => r

/-- A second tensor operand of the same shape as X. -/
def Block.rowSame (b : Block) (h : Nat) (s : Shape) : Iss Nat :=
  (b.operandNow (localSrc [.fp32, .bf16]) h).bind (fun d =>
    if (descShape d).same s then .go d else .fault { ErrI.of 0x14 with handle := h })

/-- A second tensor destination of the same shape as X. -/
def Block.rowLike (b : Block) (h : Nat) (s : Shape) : Iss Nat :=
  (b.operandNow (localDst fromLane) h).bind (fun d =>
    if (descShape d).same s then .go d else .fault { ErrI.of 0x14 with handle := h })

/-- A column-broadcast operand (R120, R214). -/
def Block.rowCol (b : Block) (h : Nat) (s : Shape) : Iss Nat :=
  (b.operandNow (localSrc [.fp32, .bf16]) h).bind (fun d =>
    if dElems d = s.n0 then .go d else .fault { ErrI.of 0x14 with handle := h })

/-- A row-vector destination of n values. -/
def Block.rowVec (b : Block) (h n : Nat) : Iss Nat :=
  (b.operandNow (localDst fromLane) h).bind (fun d =>
    if dElems d = n then .go d else .fault { ErrI.of 0x14 with handle := h })

/-- The destination Y of X's shape: a descriptor, or Q6 or Q7 with FP32 entries (R123). -/
def Block.rowY (b : Block) (qy : Bool) (v : Nat) (s : Shape) : Iss VDst :=
  if qy then (b.room (.queue (v % 8) .fp32) s.n0 s.rows).bind (fun _ => .go (.queue (v % 8) .fp32))
  else
    (b.operandNow (localDst fromLane) v).bind (fun d =>
      if (descShape d).same s then .go (.desc v d) else .fault { ErrI.of 0x14 with handle := v })

/-- One-value rows through a row-vector descriptor, written at once. -/
def Block.putVec (b : Block) (d : Nat) (vs : List (Val × Bool)) : Block × Cnt :=
  -- the values in traversal order over the descriptor's own rows
  let rows := (chunks (dN0 d) vs).map (fun r => r.map (fun v =>
    let vc := laneRes false (dSatB d) v.1
    ({ v := vc.1, bad := v.2, cnt := vc.2 } : RElem)))
  let (rs, c) := encodeRows (dF d) (dSatB d) rows []
  (b.writeT d { fmt := dF d, n0 := dN0 d, rows := rs }, c)

/-- KEY, SLOT of row `i` (R130, R214). -/
def Block.rowKey (b : Block) (kr i : Nat) : Nat × Nat :=
  ((b.vimm.getD kr 0 + i) % 2 ^ 32, (b.vimm.getD ((kr + 1) % 16) 0 % 8192 + i) % 8192)

/-- The kind a ROW operation looks up, none where it does not (R131, Table 8-14). GET takes any kind but EXP(−l). -/
def rowKind (k gsel : Nat) (first : Bool) (s : Slot) : Option Nat :=
  match k with
  | 1 => some kLN
  | 3 => some kRMS
  | 5 => some kSM
  | 6 => if first then none else some kSM
  | 7 => some kSM
  | 8 => some (if gsel = 2 then kSM else s.kind)
  | _ => none

/-- The first miss of a ROW operation over n rows, with its fault and the slots read up to it (R131, R142). -/
def Block.rowMissK (b : Block) (k gsel kr n : Nat) (first ctxB : Bool) : Option ErrI :=
  (List.range n).findSome? (fun i =>
    let ks := b.rowKey kr i
    let s := b.slot ks.2
    match rowKind k gsel first s with
    | none => none
    | some kd =>
      match lookup s ks.1 kd with
      | some c => some { ErrI.of 0x15 with
          sub := c, aux := missInfo c ctxB ks.2 ks.1, reads := (List.range (i + 1)).map (fun r => (b.rowKey kr r).2) }
      | none => none)

/-- Slots whose words were uncorrectable lose their valid bit after use (R141). -/
def Block.dropBad (b : Block) (is : List Nat) : Block :=
  (is.filter (fun i => (b.slot i).bad)).foldl (fun (bb : Block) i =>
    let s := bb.slot i
    bb.setTag i s.key s.kind false) b

/-- One row's work in ROW operations 0 to 6 (R133 to R137): `x` its inputs, `z` its scaled inputs, `g` and `be` the column
operands, `dy` the gradient, `c` the constant of register CR, and the statistics V0, V1 of its slot. -/
def rowWork (k : Nat) (first : Bool) (c : Val) (x z g be dy : List Val) (v0 v1 : Nat) : RowRes :=
  match k with
  | 0 => rowLnF x g be c
  | 1 => rowB true x dy g (fp32 v0) (fp32 v1)
  | 2 => rowRmsF x g c
  | 3 => rowB false x dy g (.zero false) (fp32 v1)
  | 4 => rowSmF z
  | 5 => rowSmB c z dy (fp32 v0) (fp32 v1)
  | _ => if first then rowSmCh z (.inf true) (.inf true) else rowSmCh z (fp32 v0) (fp32 v1)

/-- The operands of ROW operations 0 to 6 once they have resolved: X and its shape, the column operands, DY, the row vector,
x̂, and Y. -/
structure RowOps where
  x   : VSrc
  s   : Shape
  g   : Nat
  be  : Nat
  dy  : Nat
  vec : Nat
  xh  : Nat
  dst : VDst
  deriving DecidableEq, Repr

/-- Does operation `k` take the gradient DY? -/
def rowTakesDy (k : Nat) : Bool := k == 1 || k == 3 || k == 5

/-- Does operation `k` read its rows' statistics (R131)? -/
def rowLooks (k : Nat) (first : Bool) : Bool := k == 1 || k == 3 || k == 5 || (k == 6 && !first)

/-- The values of a tensor in traversal order. -/
def Block.flatVals (b : Block) (d : Nat) : List (Val × Bool) := ((b.readT d).rows.map (rowVals (dF d))).flatten

/-- The work of every row of a ROW operation, each with whether it is poisoned (R133 to R137, R141). -/
def Block.rowResults (b : Block) (w k : Nat) (o : RowOps) : List (RowRes × Bool) :=
  let kr := bits w 11 4
  let cr := bits w 7 4
  let first := bit w 4
  let c := fp32 (b.vimm.getD cr 0)
  let off := signed 32 (b.vimm.getD ((cr + 1) % 16) 0)
  let xs := o.x.get b o.s
  let gs := if k ≤ 3 then b.flatVals o.g else []
  let bs := if k = 0 then b.flatVals o.be else []
  let dys := if rowTakesDy k then (b.readT o.dy).rows.map (rowVals (dF o.dy)) else []
  (List.range o.s.rows).map (fun i =>
    let sl := b.slot (b.rowKey kr i).2
    let x := (xs.getD i []).map Prod.fst
    (rowWork k first c x (smScaled c (bit w 5) off i x) (gs.map Prod.fst) (bs.map Prod.fst) ((dys.getD i []).map Prod.fst) sl.v0 sl.v1,
      (xs.getD i []).any Prod.snd || (dys.getD i []).any Prod.snd || (rowLooks k first && sl.bad)
        || gs.any Prod.snd || bs.any Prod.snd))

/-- The statistics of a row stored under its key (R130, R141). -/
def Block.keepStat (b : Block) (key slot : Nat) (r : RowRes × Bool) : Block :=
  match r.1.stat with
  | some st =>
    let b1 := b.putSlot slot key st.1 st.2.1 st.2.2
    if r.2 then { b1 with sideV := b1.sideV.poison (slot / 4) } else b1
  | none => b

/-- The source handles that a ROW word of operation 0 to 6 names (Table 8-14). -/
def rowHandles (w k : Nat) : List Nat :=
  (if bit w 39 then [] else [bits w 31 8])
    ++ (if k ≤ 3 || k = 5 then [bits w 23 8] else []) ++ (if k = 0 || k = 1 || k = 3 then [bits w 15 8] else [])

/-- The counts of rows of results on their way to a destination. -/
def rowsCnt (dst : VDst) (rows : List (List RElem)) : Cnt := (encodeRows dst.fmt dst.sat rows []).2

/-- A ROW operation whose operands have resolved: the reads recorded, the statistics kept, the row vector, x̂ and Y written,
and the counts of all three in the status flags (R58, R188). -/
def Block.rowFinish (b : Block) (q : Seq) (w k : Nat) (o : RowOps) : Block :=
  let res := b.rowResults w k o
  let looks := rowLooks k (bit w 4)
  let keys := (List.range o.s.rows).map (b.rowKey (bits w 11 4))
  let lane (sat : Bool) (rb : RowRes × Bool) (vs : List Val) : List RElem := vs.map (fun v =>
    let vc := laneRes false sat v
    { v := vc.1, bad := rb.2, cnt := vc.2 })
  let rows := res.map (fun rb => lane o.dst.sat rb rb.1.y)
  let b1 := (b.consume o.x).touch
    ((if k ≤ 3 then dRuns o.g else []) ++ (if k = 0 then dRuns o.be else []) ++ (if rowTakesDy k then dRuns o.dy else []))
  let b2 := if looks then b1.touchSlots (keys.map Prod.snd) else b1
  let b3 := (keys.zip res).foldl (fun bb kr => bb.keepStat kr.1.1 kr.1.2 kr.2) b2
  let b4 := if looks then b3.dropBad ((keys.map Prod.snd).filter (fun i => (b.slot i).bad)) else b3
  let (b5, c2) := if k = 6 then b4.putVec o.vec (res.map (fun rb => (rb.1.va.getD (.zero false), rb.2))) else (b4, {})
  let xhOut := bit w 6 && (k == 1 || k == 3)
  let (b6, c3) := if xhOut then
      let (rs, cc) := encodeRows (dF o.xh) (dSatB o.xh) (res.map (fun rb => lane (dSatB o.xh) rb rb.1.xh)) []
      (b5.writeT o.xh { fmt := dF o.xh, n0 := dN0 o.xh, rows := rs }, cc)
    else (b5, {})
  let second := (if k = 6 then [bits w 15 8] else []) ++ (if xhOut then [(bits w 40 8 + 1) % 256] else [])
  let bad := res.any Prod.snd
  let j : Job := { b.freshJob q w .vec with handles := rowHandles w k ++ second }
  let b7 := (((b6.deliver j o.dst cVec rows).count3 cVec c2).count3 cVec c3).count cRows o.s.rows
  -- every output's status has the counts of the whole operation (R58)
  (b7.updJob j.id (fun x =>
    let fl := x.flags ||| cntFlags ((rowsCnt o.dst rows).add (c2.add c3))
    { x with flags := fl, more := second.map (fun h => (h, fl % 8 + 32 * b2n bad)) })).adv q

/-- The operands of ROW operations 0 to 6 at issue (R120, R214). -/
def Block.rowOps (b : Block) (w k : Nat) : Iss RowOps :=
  let yv := bits w 40 8
  let p2 := bits w 23 8
  let p3 := bits w 15 8
  (b.rowX (bit w 39) (bits w 31 8)).bind (fun os =>
    let s := os.2
    (if k = 0 || k = 2 then b.rowCol p2 s else if k = 1 || k = 3 then b.rowCol p3 s else .go 0).bind (fun gd =>
    (if k = 0 then b.rowCol p3 s else .go 0).bind (fun bd =>
    (if rowTakesDy k then (b.rowSame p2 s).againstX s (bits w 31 8) else .go 0).bind (fun dyd =>
    (if k = 6 then b.rowVec p3 s.rows else .go 0).bind (fun ad =>
    (if bit w 6 && (k == 1 || k == 3) then (b.rowLike ((yv + 1) % 256) s).againstX s (bits w 31 8) else .go 0).bind (fun xd =>
    ((b.rowY (bit w 48) yv s).againstX s (bits w 31 8)).bind (fun dst => .go ⟨os.1, s, gd, bd, dyd, ad, xd, dst⟩)))))))

/-- ROW.LN.F to ROW.SM.CH at issue (R133 to R137): operands, then the lookups, then the rows. -/
def Block.issueRowX (b : Block) (q : Seq) (w k : Nat) : Iss Block :=
  (b.rowOps w k).bind (fun o =>
    match b.rowMissK k 0 (bits w 11 4) o.s.rows (bit w 4) (q == .b) with
    | some e => .fault e
    | none => .go (b.rowFinish q w k o))

/-- ROW.SM.MRG at issue (R138). -/
def Block.issueRowMrg (b : Block) (q : Seq) (w : Nat) : Iss Block :=
  let yv := bits w 40 8
  let xv := bits w 31 8
  let p3 := bits w 15 8
  let kr := bits w 11 4
  (b.operandNow (localSrc [.fp32]) xv).bind (fun d =>
    let n := dOuter d
    if dN0 d ≠ 2 then .fault { ErrI.of 0x14 with handle := xv }
    else
      (b.rowVec yv n).bind (fun ad => (b.rowVec p3 n).bind (fun bd =>
        match b.rowMissK 7 0 kr n false (q == .b) with
        | some e => .fault e
        | none =>
          let keys := (List.range n).map (b.rowKey kr)
          let ins := (b.readT d).rows.map (rowVals (dF d))
          let res := (keys.zip ins).map (fun ki =>
            let s := b.slot ki.1.2
            let r := rowMrg (fp32 s.v0) (fp32 s.v1) (ki.2.getD 0 (.nan, false)).1 (ki.2.getD 1 (.nan, false)).1
            (r, s.bad || ki.2.any Prod.snd, s.bad))
          let b1 := (b.touch (dRuns d)).touchSlots (keys.map Prod.snd)
          let b2 := (keys.zip res).foldl (fun (bb : Block) kr =>
            match kr.2.1.stat with
            | some st =>
              let b' := bb.putSlot kr.1.2 kr.1.1 st.1 st.2.1 st.2.2
              let b'' := if kr.2.2.1 then { b' with sideV := b'.sideV.poison (kr.1.2 / 4) } else b'
              if kr.2.2.2 then b''.setTag kr.1.2 kr.1.1 kSM false else b''
            | none => bb) b1
          let (b3, c1) := b2.putVec ad (res.map (fun r => (r.1.va.getD (.zero false), r.2.1)))
          let (b4, c2) := b3.putVec bd (res.map (fun r => (r.1.vb.getD (.zero false), r.2.1)))
          let bad := res.any (fun r => r.2.1)
          let c := c1.add c2
          let j : Job := { b.freshJob q w .vec with
            done := true, dst := some yv, handles := [xv, yv, p3], flags := cntFlags c + 32 * b2n bad
            more := [(p3, cntFlags c + 32 * b2n bad)] }
          .go ((((b4.count3 cVec c).count cRows n).addJob j).adv q))))

/-- ROW.GET at issue (R138). -/
def Block.issueRowGet (b : Block) (q : Seq) (w : Nat) : Iss Block :=
  let yv := bits w 40 8
  let kr := bits w 11 4
  let gs := bits w 2 2
  (b.operandNow (localDst fromLane) yv).bind (fun d =>
    let n := dOuter d
    if dN0 d ≠ 1 then .fault { ErrI.of 0x14 with handle := yv }
    else
      match b.rowMissK 8 gs kr n false (q == .b) with
      | some e => .fault e
      | none =>
        let keys := (List.range n).map (b.rowKey kr)
        let vs := keys.map (fun ks =>
          let s := b.slot ks.2
          (if gs = 0 then fp32 s.v0 else if gs = 1 then fp32 s.v1 else fnVal .exp (fp32 s.v1).neg, s.bad))
        let bad := vs.any Prod.snd
        let b1 := b.touchSlots (keys.map Prod.snd)
        let (b2, c) := b1.putVec d vs
        let b3 := b2.dropBad (keys.map Prod.snd)
        let j : Job := { b.freshJob q w .vec with
          done := true, dst := some yv, handles := [yv], flags := cntFlags c + 32 * b2n bad }
        .go ((((b3.count3 cVec c).count cRows n).addJob j).adv q))

/-- Does a record descriptor hold 16 bytes a row (Table 5-3)? -/
def recordRow (d : Nat) : Bool := dN0 d * (dF d).width == 128

/-- ROW.ST at issue (R132): n slots written as 16-byte records. -/
def Block.issueRowSt (b : Block) (q : Seq) (w : Nat) : Iss Block :=
  let yv := bits w 40 8
  let kr := bits w 11 4
  (b.operandNow (localDst allFmts) yv).bind (fun d =>
    let n := dOuter d
    if !(recordRow d) then .fault { ErrI.of 0x14 with handle := yv }
    else
      let is := (List.range n).map (fun i => (b.rowKey kr i).2)
      let recs := is.map (fun i =>
        let s := b.slot i
        ((toLE 16 (s.key + s.kind * 2 ^ 32 + b2n s.valid * 2 ^ 34 + s.v0 * 2 ^ 64 + s.v1 * 2 ^ 96)).map
          (fun x => (x, s.bad))))
      let runs := ((dRowOffs d).zip recs).flatMap (fun or =>
        rowWrites d or.1 (unpack (dF d) (dN0 d) or.2))
      let bad := is.any (fun i => (b.slot i).bad)
      let b1 := ((b.touchSlots is).writeR (coalesce runs)).dropBad is
      let j : Job := { b.freshJob q w .vec with done := true, dst := some yv, handles := [yv], flags := 32 * b2n bad }
      .go (((b1.count cRows n).addJob j).adv q))

/-- ROW.LD at issue (R132): n records into consecutive slots; VALID = 0 clears the slot. -/
def Block.issueRowLd (b : Block) (q : Seq) (w : Nat) : Iss Block :=
  let xv := bits w 31 8
  let kr := bits w 11 4
  (b.operandNow (localSrc allFmts) xv).bind (fun d =>
    let n := dOuter d
    if !(recordRow d) then .fault { ErrI.of 0x14 with handle := xv }
    else
      let rows := (b.readT d).rows.map (fun r => packEls (dF d) r.elems)
      let b1 := b.touch (dRuns d)
      let b2 := ((List.range n).zip rows).foldl (fun (bb : Block) ir =>
        let i := (b.rowKey kr ir.1).2
        let v := ofLE (ir.2.map Prod.fst)
        let b' := bb.writeSlot i (bits v 0 32) (bits v 32 2) (bit v 34) (toLE 8 (v / 2 ^ 64))
        if ir.2.any Prod.snd then { b' with sideV := b'.sideV.poison (i / 4) } else b') b1
      let j : Job := { b.freshJob q w .vec with done := true, handles := [xv] }
      .go (((b2.count cRows n).addJob j).adv q))

/-- A ROW word at issue. -/
def Block.issueRow (b : Block) (q : Seq) (w k : Nat) : Iss Block :=
  if k = 7 then b.issueRowMrg q w
  else if k = 8 then b.issueRowGet q w
  else if k = 9 then b.issueRowSt q w
  else if k = 10 then b.issueRowLd q w
  else b.issueRowX q w k

end Sys2Proof.Machine
end

