-- ==== Sys2Proof/Machine/Drain.lean ====
section
/-! DEFINITION. Spill, resume and drain events (chapter 4), queue copies, and the stream instructions that act inside
one block: loops, tokens, markers, DESC.SET (chapters 7 and 8). -/

namespace Sys2Proof.Machine

/-- Does any slab or packed row of the tile at `base` still await its verdict (R88)? -/
def Block.slabsOpen (b : Block) (base : Nat) : Bool :=
  b.slabs.any (fun s => s.parts.any (fun p => p.2.1 == base)) || b.packed.any (fun r => r.base == base)
    || b.jobs.any (fun j => match j.strm with | some s => s.base == base && decide (s.pass < s.passes) | none => false)

/-- Tile family code of SPL (Table 8-9). -/
def splFam (n : Nat) : Fam := (famOf n).getD .sum

/-- The wide-buffer descriptor of SPL or RSM at issue: its checksum, what R101 asks of it, then the remaining checks of
R185. -/
def Block.wideDesc (b : Block) (h : Nat) (m : Option Nat) (dest : Bool) : Iss Nat :=
  if !(descOk (b.desc h)) then .fault { ErrI.of 3 with handle := h }
  else if !(wideOk (b.desc h) m) then .fault { ErrI.of 0x13 with handle := h }
  else
    (b.operandNow { spaces := [0], fmts := [.fp64], dest := dest } h).bind (fun d =>
      if wideFits d then .go d else .fault { ErrI.of 0x13 with handle := h })

/-- SPL at issue (R103, R210): it names one matching OPEN tile and a wide buffer, and runs when the tile's slabs have
passed. -/
def Block.issueSpl (b : Block) (q : Seq) (c : Ctx) (w : Nat) : Iss Block :=
  let base := bits w 39 10
  let m := bits w 29 10 + 1
  let h := bits w 17 8
  if b.spilling base then .hold
  else
    (b.openTile base m (afOf (bit w 28)) (splFam (bits w 26 2)) c).bind (fun _ =>
      (b.wideDesc h (some m) true).bind (fun d =>
        .go ((b.addJob { b.freshJob q w .spl with dst := some h, handles := [h], descs := [(h, d)], rem := 1 }).adv q)))

/-- The spill of the oldest waiting SPL whose tile has passed every verdict (R103). -/
def Block.spillDone (b : Block) : Option Block :=
  match b.jobs.find? (fun j => j.kind == .spl && !j.done && !b.slabsOpen (bits j.word 39 10)) with
  | none => none
  | some j =>
    let base := bits j.word 39 10
    match b.tileAt base with
    | none => none
    | some t =>
      let a := dAddr (((j.descs.head?).map Prod.snd).getD 0)
      let b1 := (b.spillTo t a).count cSpill 1
      let bad := b1.spad.badIn (a + 64) (256 * t.m)
      let b2 := if bit j.word 25 then { b1 with tiles := b1.tiles.filter (fun x => x.base != base) } else b1
      some (b2.updJob j.id (fun j => { j with done := true, rem := 0, flags := 32 * b2n bad }))

/-- RSM at issue (R103, R104, R210, R95): a tile opened with the header's family and linked to the buffer, once no SPL that
names its base is under way. A header of family MAX or MIN opens a tile of that family in EXT too (DESIGN CHOICE, log entry
118: only an MM is barred from EXT there). -/
def Block.issueRsm (b : Block) (q : Seq) (c : Ctx) (w : Nat) : Iss Block :=
  let base := bits w 39 10
  let h := bits w 30 8
  let af := afOf (bit w 38)
  if b.spilling base then .hold
  else (b.wideDesc h none false).bind (fun d =>
    let m := dSize d 1
    let hd := b.wideHdr (dAddr d)
    if base + accRows af m > 1024 then .fault (ErrI.of 0x10)
    else
      match hd.valid, famOf hd.fam with
      | true, some fam =>
        (b.canOpen base (accRows af m)).bind (fun _ =>
          let t := { Tile.fresh base m af fam c with link := some (dAddr d), terms := hd.terms }
          let b1 := (b.touch [(dAddr d, 8)]).openNew t
          .go ((b1.addJob { b.freshJob q w .rsm with done := true, handles := [h] }).adv q))
      | _, _ => .fault { ErrI.of 0x13 with handle := h })

/-- Base row of a drained instruction's tile. -/
def jobBase (j : Job) : Nat := if j.kind = .acc then (accF j.word).base else (mmF j.word).base

/-- The descriptor copy of a handle in a job. -/
def Job.desc (j : Job) (h : Nat) : Option Nat := (j.descs.find? (fun hd => hd.1 == h)).map Prod.snd

/-- The WEL entry (n, μ, q) of row r, column n, merged with a chain input where there is one (R116). Three planes of
M × 32 FP32 values stand at the chain address (log entry 12). -/
def Block.welVal (b : Block) (t : Tile) (cin : Option Nat) (r n : Nat) : Nat × Nat × Nat :=
  let nb := b.acc.w32 (accOff (t.base + r) n)
  let mb := b.acc.w32 (accOff (t.base + t.m + r) n)
  let qb := b.acc.w32 (accOff (t.base + 2 * t.m + r) n)
  match cin with
  | none => (nb, mb, qb)
  | some a =>
    let g (p : Nat) : Nat := b.spad.w32 (a + 4 * (32 * (p * t.m + r) + n))
    let na := fp32 (g 0)
    let ma := fp32 (g 1)
    let qa := fp32 (g 2)
    let nn := rn (na.add (fp32 nb))
    let d := rn ((fp32 mb).add ma.neg)
    let mu := rn (ma.add (rn ((rn (d.mul (fp32 nb))).div nn)))
    let qq := rn ((rn (qa.add (fp32 qb))).add (rn ((rn ((rn ((rn (d.mul d)).mul na)).mul (fp32 nb))).div nn)))
    (rn32 nn, rn32 mu, rn32 qq)

/-- What a drain does (R98, R100, R106, R112, R116): the block after it, and for a chain output the BLOCK addresses and bytes to
send, RN64 of each exact value through the output descriptor. The tile's rows become FREE with the last word written: at once,
or where a chain output is sent when its last transfer has been delivered (R96). In WEL an entry of which n, μ or q is
non-finite counts once where it leaves through a chain. -/
def Block.drainJob (b : Block) (j : Job) (t : Tile) : Block × List Run :=
  let out := (j.drain.map Prod.fst).getD 0
  let chn := (j.drain.map Prod.snd).getD 0
  let od := (j.desc out).getD 0
  let cinD := if chn % 2 = 1 then j.desc ((out + 1) % 256) else none
  let cin := cinD.map dAddr
  let wel := t.fam == .wel
  let rows := List.range t.m
  let b0 := b.touchAcc t t.base t.rows
  let links := (match t.link with | some a => [(a, wideBytes t.m)] | none => [])
    ++ (match cin with | some a => [(a, if wel then 384 * t.m else 256 * t.m)] | none => [])
  let b1 := b0.touch links
  let bad := ((b1.tileAt t.base).map Tile.poison).getD t.poison
  let elBad (r n : Nat) : Bool := bad
    || (match t.link with | some a => b.spad.badIn (f64At (a + 64) r n) 8 | none => false)
    || (match cin with | some a => !wel && b.spad.badIn (f64At a r n) 8 | none => false)
  let bigN := wel && rows.any (fun r => (List.range 32).any (fun n =>
    (fp32 (b.welVal t cin r n).1).cmp (.bin false 1 24) == .gt))
  let lost := t.boundLost (b.hdrLost t) bigN
  let opFlags := 2 * b2n t.flu + 4 * b2n t.nf + 8 * b2n lost
  let b1 := { b1 with drains := b1.drains.filter (fun i => i != j.id) }
  let b2 := if chn / 2 = 1 then b1 else b1.freeTile t.base
  let b3 := if lost then b2.count cBound 1 else b2
  if chn / 2 = 1 then
    let enc (r n : Nat) : Enc := roundTo .fp64 (dSatB od) (b.drainVal t cin r n)
    let cells := rows.flatMap (fun r => (List.range 32).map (fun n => (r, n)))
    let cnt := (cells.filter (fun rn => !elBad rn.1 rn.2)).foldl (fun (c : Cnt) rn => c.add (
      if wel then
        let v := b.welVal t cin rn.1 rn.2
        ⟨0, 0, b2n (!((fp32 v.1).finite && (fp32 v.2.1).finite && (fp32 v.2.2).finite))⟩
      else (enc rn.1 rn.2).cnt)) {}
    let runs : List Run :=
      if wel then [(dAddr od, (List.range 3).flatMap (fun p => cells.flatMap (fun rn =>
        let v := b.welVal t cin rn.1 rn.2
        (toLE 4 (if p = 0 then v.1 else if p = 1 then v.2.1 else v.2.2)).map (fun x => (x, elBad rn.1 rn.2)))))]
      else tensWrites od { fmt := .fp64, n0 := 32, rows := rows.map (fun r =>
        { scales := [], elems := (List.range 32).map (fun n => ((enc r n).code, elBad r n)) }) }
    let anyBad := runs.any (fun r => r.2.any Prod.snd)
    ((b3.count3 cDrn cnt).updJob j.id (fun j => { j with flags := cntFlags cnt ||| opFlags ||| (32 * b2n anyBad) }), runs)
  else
    let plane (d : Nat) (f : Nat → Nat → Val) (bb : Block) : Block × Cnt × Bool :=
      let n0 := dN0 d
      let vals := rows.map (fun r => (List.range n0).map (fun n => if elBad r n then .zero false else f r n))
      let (rs, c) := drainRows (dF d) (dSatB d) vals
      let rs' := ((List.range rs.length).zip rs).map (fun ir =>
        ({ scales := ((List.range ir.2.scales.length).zip ir.2.scales).map (fun js => (js.2.1, bad)),
           elems := ((List.range ir.2.elems.length).zip ir.2.elems).map (fun ne => (ne.2.1, elBad ir.1 ne.1)) } : TRow))
      (bb.writeT d { fmt := dF d, n0 := n0, rows := rs' }, if bad then {} else c,
        rs'.any (fun r => r.elems.any Prod.snd))
    if wel then
      let od2 := (j.desc ((out + 2) % 256)).getD 0
      let isZ (r n : Nat) : Bool := (fp32 (b.welVal t cin r n).1).isZero
      let (b4, c1, p1) := plane od (fun r n => if isZ r n then .nan else fp32 (b.welVal t cin r n).2.1) b3
      let (b5, c2, p2) := plane od2 (fun r n =>
        let v := b.welVal t cin r n
        if isZ r n then .nan else rn ((fp32 v.2.2).div (fp32 v.1))) b4
      let c := c1.add c2
      ((b5.count3 cDrn c).updJob j.id (fun j => { j with
        done := true, flags := (cntFlags c) ||| opFlags ||| (32 * b2n p1)
        more := [((out + 2) % 256, (cntFlags c) ||| opFlags ||| (32 * b2n p2))] }), [])
    else
      let (b4, c, p) := plane od (b.drainVal t cin) b3
      ((b4.count3 cDrn c).updJob j.id (fun j => { j with
        done := true, flags := (cntFlags c) ||| opFlags ||| (32 * b2n p) }), [])

/-- Q.PUSH at issue (R173, R176, R215): a LOCAL tensor as one entry of Q6 or Q7. -/
def Block.issueQPush (b : Block) (q : Seq) (w : Nat) : Iss Block :=
  let qn := bits w 46 3
  let h := bits w 38 8
  (b.operandNow (localSrc allFmts) h).bind (fun d =>
    (b.room (.queue qn (dF d)) (dN0 d) (dOuter d)).bind (fun _ =>
      let t := b.readT d
      let j : Job := { b.freshJob q w .copy with handles := [h], rem := 1 }
      match (b.touch (dRuns d)).reserve qn (entWords (dF d) (dN0 d) (dOuter d)) (some j.id) with
      | none => .hold
      | some b1 => .go (((b1.addJob j).fillEntry qn j.id t).adv q)))

/-- Q.POP at issue (R173, R215): the head entry copied into a LOCAL descriptor, or discarded. -/
def Block.issueQPop (b : Block) (q : Seq) (w : Nat) : Iss Block :=
  let qn := bits w 46 3
  let h := bits w 38 8
  match b.headFields qn with
  | none => .hold
  | some hf =>
    if bit w 37 then .go (((b.dropEntry qn).addJob { b.freshJob q w .copy with done := true }).adv q)
    else
      (b.operandNow (localDst allFmts) h).bind (fun d =>
        match hf with
        | none => .fault { ErrI.of 7 with handle := qn }
        | some (f, n0, n1, _) =>
          if f ≠ dF d || n0 ≠ dN0 d || n1 ≠ dOuter d then .fault { ErrI.of 7 with handle := qn }
          else
            match b.popEntry qn with
            | none => .hold
            | some (t, b1) =>
              let j : Job := { b.freshJob q w .copy with
                done := true, dst := some h, handles := [h], flags := 32 * b2n t.bad }
              .go (((b1.writeT d t).addJob j).adv q))

/-- LOOP at issue (R222 to R224). -/
def Block.issueLoop (b : Block) (q : Seq) (w : Nat) : Iss Block :=
  let s := b.seqr q
  let e := s.pc + bits w 12 12 + 1
  let c := if bit w 48 then b.lcr.getD (bits w 24 3) 0 else bits w 24 24
  if c = 0 then .go (foldEndl 5 (b.setSeqr q { s with pc := e + 1, word := none }) q)
  else if s.loops.length ≥ 4 then .fault (ErrI.of 0x0A)
  else .go (foldEndl 5 (b.setSeqr q { pc := s.pc + 1, loops := ⟨s.pc + 1, e, c⟩ :: s.loops, word := none }) q)

/-- The count that a TOK.WAIT presented by a sequence would take from a token; 0 where it presents none. -/
def Block.waitCount (b : Block) (t : Nat) (q : Seq) : Nat :=
  match (b.seqr q).word with
  | some w => if opOf q w == .tokWait && bits w 43 6 == t then bits w 35 8 else 0
  | none => 0

/-- What the waits served before a sequence's leave of a token: the A-stream's, then context B's, then context F's (R180). -/
def Block.leftFor (b : Block) (t : Nat) (q : Seq) : Nat :=
  let ahead : List Seq := match q with | .a => [] | .b => [.a] | .f => [.a, .b]
  ahead.foldl (fun v p => if b.waitCount t p ≤ v then v - b.waitCount t p else v) (b.toks.getD t 0)

/-- TOK.WAIT at issue (R179, R180). -/
def Block.issueTokWait (b : Block) (q : Seq) (w : Nat) : Iss Block :=
  let t := bits w 43 6
  let n := bits w 35 8
  if b.leftFor t q < n then .hold else .go ({ b with toks := b.toks.set t (b.toks.getD t 0 - n) }.adv q)

/-- CTX.MARK at issue (R168, R215). -/
def Block.issueMark (b : Block) (q : Seq) (w : Nat) : Iss Block :=
  let v := bits w 33 16
  .go ((match q with | .b => { b with markB := v } | _ => { b with markF := v }).adv q)

/-- Superseded pin requests that still await their answers (R263). -/
def Block.superseded (b : Block) : Nat := (b.pinq.filter PinReq.sup).length

/-- Jobs in flight that name a handle (R264). -/
def Block.namers (b : Block) (h : Nat) : List Nat := (b.jobs.filter (fun j => j.handles.contains h)).map Job.id

/-- A pin that a handle holds is released, once the instructions that named it have completed (R263, R264). -/
def Block.releasePin (b : Block) (h : Nat) : Block :=
  let p := b.pin h
  if p.pinned then { b with rels := b.rels ++ [⟨h, p.layer, p.slot, b.namers h⟩] } else b

/-- DESC.SET of field VER (R263): the pin released, a pending request superseded, a new request sent with VER = 1. -/
def Block.setVer (b : Block) (q : Seq) (h v : Nat) : Iss Block :=
  let p := b.pin h
  if p.pending && b.superseded ≥ 16 then .hold
  else
    let pc := (b.seqr q).pc
    let b1 := b.releasePin h
    let b2 := if p.pending then { b1 with pinq := b1.pinq.map (fun r => if r.req = p.req then { r with sup := true } else r) }
      else b1
    let d := descFix (fVer.set (b.desc h) v)
    let b3 := b2.setDesc h d
    if v = 1 then
      let layer := fLayer.get d
      let b4 := b3.setPin { h := h, pinned := false, pending := true, slot := 0, layer := layer, ver := 0, req := b.nextReq }
      .go ({ b4 with pinq := b4.pinq ++ [PinReq.mk b.nextReq h layer false q pc .waiting], nextReq := b.nextReq + 1 }.adv q)
    else .go ((b3.setPin (Pin.mk h false false 0 0 0 0)).adv q)

/-- DESC.SET, SET form (R187, R219). -/
def Block.issueDescSet (b : Block) (q : Seq) (w : Nat) : Iss Block :=
  let fld := bits w 42 5
  let h := bits w 34 8
  let imm := bits w 0 32
  if fld = 12 then b.setVer q h imm
  else
    match setField fld with
    | some f => .go ((b.setDesc h (descFix (f.set (b.desc h) imm))).adv q)
    | none => .go (b.adv q)

/-- DESC.SET, ADD form: a signed immediate added modulo 2^48 to ADDR or SCALE_ADDR (R187, R219). -/
def Block.issueDescAdd (b : Block) (q : Seq) (w : Nat) : Iss Block :=
  let f := if bits w 42 5 = 0 then fAddr else fScale
  let h := bits w 34 8
  let d := b.desc h
  let v := unsigned 48 ((f.get d : Int) + signed 32 (bits w 0 32))
  .go ((b.setDesc h (descFix (f.set d v))).adv q)

/-- DESC.SET, LCR form (R203, R219). -/
def Block.issueLcr (b : Block) (q : Seq) (w : Nat) : Iss Block :=
  let n := bits w 34 3
  let v := if bit w 42 then unsigned 24 ((b.lcr.getD n 0 : Int) + signed 32 (bits w 0 32)) else bits w 0 24
  .go ({ b with lcr := b.lcr.set n v }.adv q)

/-- DESC.SET, VIMM form (R203, R219). -/
def Block.issueVimm (b : Block) (q : Seq) (w : Nat) : Iss Block :=
  .go ({ b with vimm := b.vimm.set (bits w 34 4) (bits w 0 32) }.adv q)

/-- Jobs of a sequence in flight. -/
def Block.jobsOf (b : Block) (q : Seq) : List Nat := (b.jobs.filter (fun j => j.seq == q && !(j.kind == .sig))).map Job.id

/-- TOK.SIG at issue (R179, R181, R220): an unfenced signal adds at once (none on overflow); a fenced or remote one stands
outstanding until the earlier instructions of its sequence have completed. `self` is the block's own number. -/
def Block.issueTokSig (b : Block) (self : Nat) (q : Seq) (w : Nat) : Iss (Block × Bool) :=
  let t := bits w 43 6
  let n := bits w 35 8
  let rb := bit w 33
  let fence := bit w 34 || rb
  let blk := if rb then bits w 25 8 else self
  if !fence then
    match b.tokAdd t n with
    | some b1 => .go (b1.adv q, true)
    | none => .go (b.adv q, false)
  else
    let j : Job := { b.freshJob q w .sig with rem := 1, remote := rb }
    let fc : Fence := ⟨j.id, t, n, blk, (b.jobs.filter (fun x => x.seq == q)).map Job.id, q, (b.seqr q).pc, false⟩
    let b1 := b.addJob j
    .go ({ b1 with fences := b1.fences ++ [fc] }.adv q, true)

end Sys2Proof.Machine
end

