-- ==== Sys2Proof/Machine/StackState.lean ====
section
/-! DEFINITION. The state of one memory stack: DRAM, write-combining buffer, request queues and channels (chapter 9), and
of its stack update engine (chapters 10 and 11). -/

namespace Sys2Proof.Machine

/-- A line of the write-combining buffer (R237): its number, a valid bit per byte, its bytes, a poison mark per word,
whether the SUE opened it, and the STC at which its first byte was accepted. -/
structure WLine where
  line  : Nat
  valid : Nat
  bytes : List Byte
  bad   : Nat
  upd   : Bool
  t     : Nat
  deriving DecidableEq, Repr

/-- A request waiting at a controller (R240): class code 0 LC, 1 BULK, 2 WR, 3 UPD, 4 SCRUB, its direction, stack-local
offset, bursts left, the STC at which it arrived, and whether it is in progress. -/
structure SReq where
  cls  : Nat
  wr   : Bool
  off  : Nat
  left : Nat
  t    : Nat
  on   : Bool
  deriving DecidableEq, Repr

/-- A channel: its direction, the STC at which that direction began, and the end of a switch (R243). -/
structure Chan where
  wr : Bool
  t  : Nat
  idle : Nat               -- slot at which the 18 ns after a switch end
  deriving DecidableEq, Repr

/-- A row open in a bank of a pseudo-channel, and the slot from which it can be accessed (R241, R246). -/
structure OpenRow where
  pc   : Nat
  bank : Nat
  row  : Nat
  slot : Nat
  deriving DecidableEq, Repr

/-- Who asked for a row of memory-side adds. -/
inductive Who
  | block (b job : Nat)
  deriving DecidableEq, Repr

/-- A row of memory-side adds on its way to a stack (R190, R248): for each element its place in the row, its stack-local
offset, its code and poison mark. -/
structure ScaRow where
  who : Who
  row : Nat
  fmt : Fmt
  op  : Nat
  sat : Bool
  ret : Bool
  els : List (Nat × Nat × Nat × Bool)
  deriving DecidableEq, Repr

/-- States of a stack (R447, R468). -/
inductive StkSt
  | untrained | active | entering | selfRefresh | waking | failed
  deriving DecidableEq, Repr

/-- A rule program (R287): its length, words, constants, bases in FP64 and power tables in FP32. -/
structure Rule where
  l     : Nat
  words : List Nat
  ks    : List Nat
  bases : List Nat
  tabs  : List (List Nat)
  deriving DecidableEq, Repr

/-- Where an unfinished trigger stands (R282, R283). -/
inductive TPhase
  | queued | waiting | running | gather
  deriving DecidableEq, Repr

/-- An accepted trigger not yet finished; `miss` says that its layer-update deadline has been missed or disarmed already,
`noPin` that its pin deadline has been disarmed (R423). -/
structure Trig where
  step  : Nat
  nf    : Bool
  dl    : Option Nat
  phase : TPhase
  miss  : Bool
  noPin : Bool
  deriving DecidableEq, Repr

/-- A binding (R262, R277): header and stream words of its descriptor, the version record's fields, LAST_STEP and its
value before the last publication, ROLLBACK_OK, its trigger, whether FAULTED, whether a rollback is rewriting it, and of its
last pass the journal bytes and whether the journal overflowed. -/
structure Bind where
  layer : Nat
  hd    : Nat
  strs  : List Nat
  pubVer : Nat
  pin0  : Nat
  pin1  : Nat
  slot  : Nat
  writing : Bool
  last  : Nat
  prev  : Nat
  rbOk  : Bool
  trig  : Option Trig
  faulted : Bool
  rolling : Bool
  jFill : Nat
  jOver : Bool
  deriving DecidableEq, Repr

/-- The pass under way (R284): its binding and step, the next group, SUE_CLK cycles until that group ends, the touched
rows (rows layout), the FP64 sums of each lane, counts for the statistics record, the journal's fill and overflow, and the
poisoned record words met, in order. -/
structure Pass where
  layer : Nat
  step  : Nat
  group : Nat
  cyc   : Nat
  rows  : List Nat
  ssqW  : List Nat
  ssqG  : List Nat
  ssqU  : List Nat
  nfG   : Nat
  poisG : Nat
  elems : Nat
  jFill : Nat
  jOver : Bool
  bads  : List Nat
  deriving DecidableEq, Repr

structure Sue where
  rules : List (Nat × Rule)          -- by rule number
  binds : List Bind
  queue : List Nat                   -- layers of queued triggers in order of acceptance
  pass  : Option Pass
  lanes : List Nat
  mode  : Nat
  e     : Nat
  emin  : Nat
  emax  : Nat
  grow  : Nat
  clean : Nat
  closed : Nat
  stepOff : Option Nat
  scaleOff : Option Nat
  closing : Option (Nat × Bool)      -- step word accepted and not closed
  nfSteps : List Nat                 -- steps for which the step flag is set (R360)
  asked : Nat                        -- pin requests held so far: their order of arrival (R272)
  deriving DecidableEq, Repr

structure Stack where
  mem   : Mem
  wcb   : List WLine                 -- oldest first
  reqs  : List SReq                  -- oldest first
  chans : List Chan
  rows  : List OpenRow
  slotN : Nat                        -- slots passed, the controllers' time
  hist  : List Nat                   -- per pseudo-channel: which of the last 64 slots LC held
  st    : StkSt
  wake  : Nat                        -- STC at which a wake or an entry ends
  byReq : Bool                       -- the wake under way was caused by a request
  temp  : Int                        -- readout in 1/16 °C
  hot   : Bool                       -- refresh rate doubled
  bank  : Nat                        -- next bank to refresh
  refr  : Option (Nat × Nat)         -- bank under refresh, and the STC at which that ends (R247)
  repairs : Nat                      -- lane repairs of the last training, stored with its results (Table 9-1)
  edge  : List (Nat × List (Byte × Bool))   -- writes that wait at the edge of the stack's domain, oldest first (R24)
  scrubAt : Nat                      -- granule the patrol scrubber reads next
  period : Nat                       -- sweep period in s
  newPeriod : Nat                    -- period of the next sweep
  recent : List Nat                  -- last 512 words the adders updated
  scas  : List ScaRow                -- rows on their way to the adders
  ctr   : List Nat                   -- the 21 counters of Table 15-11, level 2
  sue   : Sue
  evs   : List (Nat × Nat × Nat)     -- events found and not yet forwarded: code, INFO, DETAIL
  corrNow : Nat                      -- words corrected this STC second
  deriving DecidableEq, Repr

def numStacks : Nat := 12

/-- Bytes of a stack: 72 GiB (R227). -/
def stackBytes : Nat := 72 * 2 ^ 30

/-- An SUE after a package reset (R302, R44). -/
def Sue.reset : Sue where
  rules := []
  binds := []
  queue := []
  pass := none
  lanes := seedLanes 1024 0
  mode := 0
  e := 16
  emin := 0
  emax := 32
  grow := 2000
  clean := 0
  closed := 0
  stepOff := none
  scaleOff := none
  closing := none
  nfSteps := []
  asked := 0

/-- A stack after a package reset (R239, R343, R252). -/
def Stack.reset : Stack where
  mem := Mem.empty
  wcb := []
  reqs := []
  chans := List.replicate 32 ⟨false, 0, 0⟩
  rows := []
  slotN := 0
  hist := List.replicate 64 0
  st := .untrained
  wake := 0
  byReq := false
  temp := 0
  hot := false
  bank := 0
  refr := none
  repairs := 0
  edge := []
  scrubAt := 0
  period := 50
  newPeriod := 50
  recent := []
  scas := []
  ctr := List.replicate 21 0
  sue := Sue.reset
  evs := []
  corrNow := 0

end Sys2Proof.Machine
end

