-- ==== Sys2Proof/Machine/FabState.lean ====
section
/-! DEFINITION. The state of the fabric: links, endpoints, axis collective units, and the profile and slice records
(chapters 12 and 13, 17, 18). -/

namespace Sys2Proof.Machine

/-- Who gave a packet to an endpoint, and so who gets its completion. -/
inductive Orig
  | block (b job : Nat)
  | acu (a cseq : Nat)
  | cast
  | resp              -- an answer or a relay: nobody waits for it
  deriving DecidableEq, Repr

/-- States of a link (Table 15-7). -/
inductive LinkSt
  | up | standby | off | training | down | miswired | version | laneHeld
  deriving DecidableEq, Repr

/-- The state byte of a link record (Table 15-7). -/
def LinkSt.code : LinkSt → Nat
  | .up => 0 | .standby => 1 | .off => 2 | .training => 3 | .down => 4 | .miswired => 5 | .version => 6 | .laneHeld => 7

/-- A packet in a transmit buffer: the LD_CLK cycle in which it came into this part, how it enters the ring (0 continues on its axis, 1 turns,
2 injected), and the receive link it came by (64: the endpoint) (R330, R331). -/
structure TxP where
  p    : Packet
  t    : Nat
  turn : Nat
  from_ : Nat
  deriving DecidableEq, Repr

/-- One of the 64 links: its state, what training found and what it keeps, the neighbour's identity, its transmit buffer
and credits, and its control-slot record. -/
structure Link where
  st     : LinkSt
  goal   : LinkSt                 -- the state that a pass of the gate, or a transition, ends in
  lanes  : Nat                    -- lane order and polarity (Table 15-7, byte 1)
  ident  : Option Ident           -- neighbour identity observed
  delay  : Nat                    -- one-way delay in ps
  stored : Option (Nat × Nat × Ident)   -- results kept by R464: lanes, delay, identity
  fast   : Bool                   -- FAST in this end's training slot
  short  : Bool                   -- the gate under way is the short one
  echo   : Nat                    -- the neighbour's last send time, from its training slot
  full   : Bool                   -- train on the full path
  gate   : Bool                   -- in its gate (Table 17-7, step 6)
  tries  : Nat                    -- failures of its training so far; a second holds it down (R467)
  retrain : Option Nat            -- mailbox of the FAB_RETRAIN_LINK that runs
  cable  : Bool                   -- PORTpp_SB0 low
  sbBad  : List Nat               -- sideband pins shorted
  tx     : List TxP
  sent   : List Nat               -- packets sent per VC
  cred   : List Nat               -- the neighbour's cumulative count of slots freed per VC
  freed  : List Nat               -- receive slots freed per VC, modulo 2^16
  rot    : Nat                    -- which of VC0 to VC2 has the next turn
  txPos  : Nat                    -- slot of the frame that is sent next, 0 to 256
  sampled : Option Nat            -- STC / 100 when a sample was last sent (R363)
  fecLast : Option Nat            -- the FEC code word last judged at reception
  fecAt  : List Nat               -- STC of each FEC code word corrected in the last second (Table 15-7)
  lastGood : Nat                  -- STC of the last good control slot
  foreign : Option Nat            -- STC window of the last FOREIGN_PACKET logged
  silent : Option Nat             -- injected silence ends at this STC (R430)
  sample : Option (Int × Nat × Nat)   -- last VALID sample: θ in 2^-32 ticks, neighbour state, STC at arrival
  downAt : Nat                    -- STC at which the link went down
  ctr    : List Nat               -- the 8 link counters of Table 12-12
  deriving DecidableEq, Repr

/-- A packet kept for re-send: who sent it, and when it was last sent (R335). -/
structure Kept where
  p    : Packet
  orig : Orig
  t    : Nat
  deriving DecidableEq, Repr

/-- A request message being received: its first packet, the data bytes taken so far, whether it is being discarded, and what
its answer will hold (R326, R336). -/
structure Msg where
  head : Packet
  got  : Nat
  drop : Bool
  bad  : Bool                     -- a value that the answer would return is poisoned
  data : List Byte                -- old values to return
  deriving DecidableEq, Repr

/-- An ordered pair with a remote node, both roles (R332 to R335). -/
structure Pair where
  node  : Nat
  seq   : Nat
  kept  : List Kept
  retry : Nat
  lost  : Bool
  next  : Nat
  unack : Nat                     -- commits since the last ACK
  since : Option Nat              -- STC of the oldest of them
  msg   : Option Msg
  deriving DecidableEq, Repr

/-- A remote request awaiting its answer: tag, node, requester, the source address its data comes from, bytes wanted and
bytes come. -/
structure RReq where
  tag  : Nat
  node : Nat
  b    : Nat
  job  : Nat
  addr : Nat
  len  : Nat
  got  : Nat
  deriving DecidableEq, Repr

/-- An endpoint: one per link die. -/
structure Endp where
  pairs : List Pair
  outq  : List (Packet × Orig)    -- packets waiting to be numbered and injected, oldest first
  inq   : List Packet             -- packets that reached this part for this endpoint
  resps : List Packet             -- committed RESP packets
  errs  : List Packet             -- committed ERR packets
  reqs  : List RReq
  nextTag : Nat
  noRoute : Nat                   -- LNK_NO_ROUTE of the die
  ctr   : List Nat                -- the 8 endpoint counters of Table 12-12
  deriving DecidableEq, Repr

/-- Forms of a collective (Table 13-2). -/
inductive Form
  | plain | trigger | gather | close
  deriving DecidableEq, Repr

def Form.code : Form → Nat
  | .plain => 0 | .trigger => 1 | .gather => 2 | .close => 3

/-- A piece of a collective's data: phase (0 reduce, 1 gather), direction (0 ascending, 1 descending), chunk, packet
number. -/
structure Piece where
  ph  : Nat
  dir : Nat
  ch  : Nat
  ix  : Nat
  deriving DecidableEq, Repr

/-- One axis of a closing collective (R360): its CSEQ there, this member's position, whether the group wraps, the members'
nodes, and whether this member's word has been sent. -/
structure CloseAxis where
  axis : Nat
  cseq : Nat
  pos  : Nat
  wraps : Bool
  members : List Nat
  sent : Bool
  deriving DecidableEq, Repr

/-- A collective accepted by an axis collective unit (R346 to R361). -/
structure Coll where
  cseq : Nat
  b    : Nat
  job  : Nat
  kind : Nat
  op   : Nat
  fmt  : Fmt
  form : Form
  root : Nat
  dir  : Nat
  n    : Nat                       -- elements of SRC (DST for AG)
  chunk : Nat                      -- CHUNK of Table 13-2
  members : List Nat               -- node numbers by ring position
  pos  : Nat
  wraps : Bool
  step : Nat                       -- VIMM_15 at issue
  dl   : Option Nat
  src  : Nat                       -- handle of SRC
  dst  : Nat                       -- copy of descriptor DST
  sq   : Bool                      -- the data came from a queue
  bind : Option (Nat × Nat)        -- stack and layer of the trigger or gather form
  own  : List (Byte × Bool)        -- this member's element bytes, packed
  ownS : List (Byte × Bool)        -- its scale bytes
  started : Bool
  out  : List (Piece × List (Byte × Bool))   -- packets ready to send and not sent
  sent : List Nat                  -- by chain: data packets sent
  come : List Nat                  -- by chain: data packets taken
  part : List (Nat × List (Byte × Bool))     -- line: the half of an own packet's sum that came first
  done : Nat                       -- own packets finished
  nf   : Bool                      -- a finished own element is not finite
  flags : List (Nat × Bool)        -- (position, flag) of finished owners
  unsent : Nat                     -- packets handed to the endpoint and not acknowledged
  bad  : Bool                      -- a poisoned word was written
  word : Nat                       -- CLOSE: the word combined so far
  words : List (Nat × Nat × Nat)   -- CLOSE: (axis, position, word)
  axes : List CloseAxis            -- CLOSE: the axes it runs along, in order
  deriving DecidableEq, Repr

/-- A completed collective, as far as an ABORT of it is still relayed: its CSEQ and group. -/
structure Past where
  cseq : Nat
  members : List Nat
  pos  : Nat
  wraps : Bool
  deriving DecidableEq, Repr

/-- An axis collective unit: its next CSEQ, its collectives oldest first, those completed, COLL packets not yet taken, and
its three counters. -/
structure Acu where
  cseq  : Nat
  colls : List Coll
  past  : List Past
  inq   : List Packet
  ctr   : List Nat
  deriving DecidableEq, Repr

/-- The installed torus profile (Table 12-3): the record and its hash. -/
structure Profile where
  word : Nat
  hash : Nat
  deriving DecidableEq, Repr

/-- A Sporecast session (R472 to R477). -/
structure Cast where
  source : Bool
  id   : Nat
  origin : Nat
  segs : Nat
  len  : Nat
  blocks : Nat
  digest : Nat
  image : Mem
  have_ : List Nat                -- segments accepted by broadcast
  fetched : List Nat
  asked : List Nat                -- fetches outstanding
  retried : List Nat
  closing : Bool
  deriving DecidableEq, Repr

def numLinks : Nat := 64

def Link.reset : Link where
  st := .off
  goal := .off
  lanes := 0
  ident := none
  delay := 0
  stored := none
  fast := false
  short := false
  echo := 0
  full := true
  gate := false
  tries := 0
  retrain := none
  cable := false
  sbBad := []
  tx := []
  sent := [0, 0, 0, 0]
  cred := [0, 0, 0, 0]
  freed := [0, 0, 0, 0]
  rot := 0
  txPos := 0
  sampled := none
  fecLast := none
  fecAt := []
  lastGood := 0
  foreign := none
  silent := none
  sample := none
  downAt := 0
  ctr := List.replicate 8 0

def Endp.reset : Endp where
  pairs := []
  outq := []
  inq := []
  resps := []
  errs := []
  reqs := []
  nextTag := 0
  noRoute := 0
  ctr := List.replicate 8 0

def Acu.reset : Acu where
  cseq := 0
  colls := []
  past := []
  inq := []
  ctr := [0, 0, 0]

end Sys2Proof.Machine
end

