-- ==== Sys2Proof/Machine/State.lean ====
section
/-! DEFINITION. The whole state of a KT-64, as plain data, its value after a package reset, and why a step can stop. -/

namespace Sys2Proof.Machine

/-- An event as a unit forwards it to Thallus (Table 14-8): its class follows from its code. -/
structure Ev where
  code : Nat
  level : Nat
  unit : Nat
  info : Nat
  detail : Nat
  stc  : Nat
  deriving DecidableEq, Repr

/-- What the part sends out of itself. -/
inductive Out
  | msix (v : Nat)                              -- an MSI-X message
  | hostWrite (addr : Nat) (bs : List Byte) (poison : Bool)   -- a DMA write to host memory
  | packet (l : Nat) (p : Packet)               -- a packet on link l
  | control (l : Nat) (bs : List Byte)          -- a control slot on link l
  | train (l : Nat) (bs : List Byte)            -- a training slot on link l
  | prbs (l : Nat)                              -- a slot of the PRBS31 pattern on link l
  | read (bs : List Byte) (poison : Bool)       -- the completion of a host read
  | abort                                       -- a PCIe completion with Completer Abort
  | smbus (bs : Option (List Byte))             -- an SMBus block read with its PEC byte, or a NACK
  | jtag (v : Nat)                              -- a JTAG data register
  | debug (bs : List Byte)                      -- a host debug answer
  deriving DecidableEq, Repr

/-- A token message between blocks (R181): the token of `dst` that rises by n; `job` waits for its acknowledgement. -/
structure TokMsg where
  src : Nat
  dst : Nat
  tok : Nat
  n   : Nat
  job : Nat
  deriving DecidableEq, Repr

/-- A block-to-block transfer (R159): its sequence number, whether it brings what a job of `dst` reads (`runs` then at BLOCK
addresses) or writes for a job of `src`, and the runs of bytes. -/
structure NocT where
  src : Nat
  dst : Nat
  seq : Nat
  job : Nat
  rd  : Bool
  runs : List (Nat × List (Byte × Bool))
  deriving DecidableEq, Repr

/-- Region states (Table 16-5). -/
inductive RegSt
  | off | retain | armed | run
  deriving DecidableEq, Repr

def RegSt.code : RegSt → Nat
  | .off => 0 | .retain => 1 | .armed => 2 | .run => 3

/-- An access that waits for a region between RETAIN and ARMED (R445). -/
structure RAcc where
  wr  : Bool
  off : Nat
  len : Nat
  data : List Byte
  deriving DecidableEq, Repr

/-- A region: its power state, the move under way (next state, STC at which it ends), the target beyond it, its store,
requests that wait for it, its clock admissions, and its counters. -/
structure Region where
  st    : RegSt
  move  : Option (RegSt × Nat)
  goal  : RegSt
  store : Mem
  waits : List RAcc
  waiting : List Nat                -- blocks whose clocks await admission or ramp, in order (R446)
  ctr   : List Nat                -- RSTORE_CORR, RSTORE_UNCORR
  evs   : List (Nat × Nat × Nat)
  corrNow : Nat
  deriving DecidableEq, Repr

/-- The step counter and its deadlines (R362 to R371). -/
structure TimeS where
  stc   : Nat                     -- in units of 2^-32 tick
  inc   : Int                     -- added at each CRUST_CLK cycle, in the same units
  rate  : Int                     -- rate, in units of 2^-64
  state : Nat                     -- 0 FREE, 1 ACQUIRE, 2 LOCKED
  good  : Nat                     -- rounds with every θ within 0.4 ticks
  round : Nat                     -- STC of the last round
  quiet : Option Nat              -- since when no LOCKED neighbour has been heard, once a link came UP
  epochHost : Nat
  epochStc : Nat
  policy : Nat                    -- deadline kinds enabled
  outlier : Nat
  dlMiss : Nat
  deriving DecidableEq, Repr

/-- A command that runs (R379 to R387): its mailbox, header fields and parameters, what it claimed, whether its deadline has
passed, its answer once it has one, and what a long command keeps while it runs. -/
structure Cmd where
  m     : Nat
  op    : Nat
  flags : Nat
  seq   : Nat
  dl    : Nat
  pars  : List Byte
  begun : Bool                    -- its own row has run
  late  : Bool
  ans   : Option (Nat × List Byte)
  keep  : List Nat
  t0    : Nat                     -- STC when it began
  deriving DecidableEq, Repr

/-- Crust's host interface: mailboxes, watcher, status registers, event log, MSI-X (chapter 14). -/
structure HostS where
  mbx   : Mem                     -- 16 × 4 KiB
  hand  : List Nat                -- latched handoffs, oldest first
  handNow : Nat                   -- how many of the last of them were latched in this CRUST_CLK cycle
  runs  : List Cmd
  summary : Nat                   -- FAULT_SUMMARY
  sumNow : Nat                    -- its bits set in this CRUST_CLK cycle
  hbCount : Nat
  hbAge : Nat                     -- HEARTBEAT_AGE in ms
  hbPart : Nat                    -- CRUST_CLK cycles towards the next ms
  hbPeriod : Nat
  hbNext : Nat                    -- the period from the next heartbeat period on
  hbT   : Nat                     -- STC at which the period began
  hbAddr : Nat
  silent : Nat                    -- host-silence threshold in ms
  silentDone : Bool
  hostHb : Nat
  bar2  : Nat
  late  : Nat                     -- MBX_LATE_WR
  latch : Option Nat              -- high half of STC_NOW latched
  head  : Nat
  tail  : Nat
  ovf   : Nat
  gap   : Nat
  gapEnd : Option Nat             -- STC at which the vector-16 gap ends
  gapDue : Bool                   -- a record was entered in the gap
  ring  : Mem                     -- 64 KiB
  evseq : Nat
  msixT : Mem                     -- 1 KiB table
  pba   : Nat
  bar2q : List RAcc               -- BAR2 accesses that wait for a stack to wake, oldest first; `off` is interleaved
  deriving DecidableEq, Repr

/-- Power, resets, supplies, temperature, straps (chapters 16 and 20). -/
structure PwrS where
  good  : Bool                    -- PWR_GOOD
  resetN : Bool                   -- RESET_N high
  lowAt : Option Nat              -- STC at which RESET_N fell
  oscWait : Nat
  smbAddr : Nat
  osc   : Bool                    -- the OSC_WAIT delay runs
  crust : Bool                    -- Crust runs
  stopped : Bool                  -- the oscillator input has stopped
  held  : List Nat                -- rails at their reset level: they hold the core die, or the part before Crust starts
  core  : Option Nat              -- the core die is held in reset: cause 0 VDD_CORE, 1 VDD_SRAM, 2 RESET_N
  chip  : Nat                     -- C0 to C3
  chipMove : Option (Nat × Nat)   -- next state, STC at which the step ends
  chipGoal : Nat
  rails : List Nat                -- rails at or below the warning level since the pause began
  pause : Option Nat              -- issue paused since this STC
  therm : Bool                    -- THERM_WARN
  trip  : Option Nat              -- STC of a thermal trip
  clkOff : Bool                   -- the fast clocks are stopped
  spOff : List Nat                -- stacks whose SP_CLK is stopped
  coreT : List Int                -- core-die points: hottest, then regions 0 to 3, in 1/16 °C
  dieT  : List Int                -- link dies W, E
  dieOn : List Bool               -- link dies whose reference runs
  dieIdle : List Bool             -- link dies that idled their transmitters
  dieAt : List (Nat × Nat)        -- link dies fallen silent and not yet logged, and the STC at which they did
  sp    : Nat × Nat               -- SP_N, SP_D in force
  clkRec : Nat                    -- clock settings record in force (Table 16-2)
  deriving DecidableEq, Repr

/-- Start-up and Thallus (chapter 17, R485). -/
structure BootS where
  boot  : Nat                     -- CRUST_STATUS.BOOT
  warm  : Bool                    -- stages 2 to 5 run after a reset that kept Crust
  restart : Bool                  -- they run for a lockstep restart or FW_SWITCH
  ready : Bool
  switching : Bool                -- CRUST_STATUS.FW_SWITCH
  slot  : Nat                     -- firmware slot running
  dev   : Option Nat              -- flash device the firmware came from
  cand  : List Nat                -- devices found usable, in the order tried
  fall  : Option Nat              -- why CS0 was passed over
  hdr   : List Byte               -- running firmware header, 256 bytes
  stageAt : Nat                   -- STC at which stage 6 or 9 began
  resetOf : Option Nat            -- cause of the core-die reset being recovered from
  mbxAbort : Nat                  -- mailboxes found device-owned at the reset
  lockEnd : Option Nat            -- STC at which the last lockstep restart ended
  halted : Bool                   -- Thallus is halted for good
  heldEv : List Ev                -- events held during a restart
  fetched : List Nat              -- blocks whose fetch has a verdict
  deriving DecidableEq, Repr

/-- One-way fuses (R511, R516). -/
structure Fuses where
  serial : Nat
  vmap   : Nat                    -- vector-block map
  lc     : Nat
  minSec : Nat
  secret : Nat
  deriving DecidableEq, Repr

/-- A serial flash device: what SFDP says, and its bytes. -/
structure Flash where
  sfdp : Option Sfdp
  mem  : Mem
  deriving DecidableEq, Repr

/-- Grade, settings, life cycle, keys, measurements, tamper (chapters 15, 17 and 19). -/
structure SecS where
  fuses : Fuses
  vmap  : Nat                     -- vector-block map in force
  downs : Nat                     -- grade-downs made in service
  flash : List Flash
  sets  : List (Nat × List Byte)  -- settings blocks in force: id, header and body
  staged : Nat                    -- 0 none, 1 verified, 2 failed
  owner : Option Nat
  authCtr : Nat
  lastLc : Nat                    -- life-cycle state whose wipe has completed
  keys  : Bool                    -- the key store holds its keys
  ident : Nat                     -- identity private key
  tamper : List Nat               -- blocks whose tamper wipe has not ended
  tamperRet : List Nat            -- regions to return to RETAIN after it
  tamperDue : Bool                -- a tamper event that Thallus has not acted on yet (R518)
  tampered : Bool                 -- a tamper event has emptied the key store since the package reset
  meas  : List (Nat × Nat)        -- loaded blocks and their measurements
  modif : List Nat                -- blocks with MODIFIED set
  clearAt : Nat                   -- STC of the last FAB_SLICE_CLEAR
  wipeAt : Nat                    -- STC at the end of the last full wipe
  setAt : Nat                     -- STC of the last FAB_SLICE_SET
  wiped : Bool                    -- a full wipe has ended since the last clear, or a cold start's fill counts
  dbgAt : List (Nat × Nat)        -- last SEC_DEBUG_DENIED by port
  deriving DecidableEq, Repr

/-- The fabric of the part (chapters 12 and 13, 18). -/
structure FabS where
  profile : Option Profile
  slice : Nat
  transit : Bool
  box   : List Nat                -- BOX0 to BOX7
  overs : List (Nat × Nat × Nat)  -- wiring overrides: port, axis, direction
  links : List Link
  endps : List Endp
  acus  : List Acu
  ctrlq : List Packet             -- committed CTRL packets not yet taken by Thallus
  castq : List (Packet × Bool)    -- committed CAST packets, in order, and whether this part takes them or only relays
  cast  : Option Cast
  acks  : List (Nat × Nat)        -- first hops of the segment under way not yet acknowledged: node, SEQ
  dirLost : List (Nat × Nat)      -- directions logged lost and still without a link
  contrib : Option (Nat × Bool)   -- step and flag of the last closing contribution
  stopQ : List (Nat × Nat)        -- slice stops to start: how known (0 here, 1 by a record, 2 by an ABORT), Table 18-3 record
  lastStart : Nat                 -- STC of the last PRG_START's first start
  stopOn : Bool                   -- a slice stop is in force
  deriving DecidableEq, Repr

/-- The machine: every unit of the part, what is on its way between units, and the commands that wait. -/
structure State where
  blocks  : List Block
  regions : List Region
  stks  : List Stack
  time    : TimeS
  host    : HostS
  pwr     : PwrS
  boot    : BootS
  sec     : SecS
  fab     : FabS
  events  : List Ev               -- forwarded to Thallus, not yet entered, oldest first
  latest  : List (Nat × Nat × Ev × Nat)  -- latest fault of a unit: level, unit, record, EVSEQ
  tokMsgs : List TokMsg
  noc     : List NocT
  nocFail : List (Nat × Nat × Nat)  -- failure responses: source block, job, destination
  starts  : List Nat              -- blocks to which a start message is on its way
  smb     : Option (List Byte)    -- SMBus register latched
  out     : List Out
  freeN   : Nat                   -- free values drawn so far
  pending : List Instr
  deriving DecidableEq, Repr

/-- Why a step stops without a next state. -/
inductive Fault
  /-- Raised by every command that names a block, region, stack, channel, link, die, unit, mailbox or port that the part
  does not have. Safe: the hardware has no such event. -/
  | noSuchUnit
  deriving DecidableEq, Repr

/-- Why a command is refused. -/
inductive Refusal
  /-- Raised by a row of the table that has no meaning in the model, by name. Safe: the model says nothing of it. -/
  | notModelled (mnemonic : String)
  deriving DecidableEq, Repr

def Region.reset : Region where
  st := .off
  move := none
  goal := .off
  store := Mem.empty
  waits := []
  waiting := []
  ctr := [0, 0]
  evs := []
  corrNow := 0

/-- The step counter after a package reset (R362, R371). -/
def TimeS.reset : TimeS where
  stc := 0
  inc := 2 ^ 33
  rate := 2 ^ 64
  state := 0
  good := 0
  round := 0
  quiet := none
  epochHost := 0
  epochStc := 0
  policy := 15
  outlier := 0
  dlMiss := 0

/-- The MSI-X table after reset: every vector masked (PRESUMED, PCIe). -/
def msixReset : Mem := ⟨(List.range 64).map (fun i => (16 * i + 12, (1 : Byte))), []⟩

/-- Crust's registers after a package reset (Tables 14-2 to 14-7). -/
def HostS.reset : HostS where
  mbx := Mem.empty
  hand := []
  handNow := 0
  runs := []
  summary := 0
  sumNow := 0
  hbCount := 0
  hbAge := 0
  hbPart := 0
  hbPeriod := 10
  hbNext := 10
  hbT := 0
  hbAddr := 0
  silent := 0
  silentDone := false
  hostHb := 0
  bar2 := 0
  late := 0
  latch := none
  head := 0
  tail := 0
  ovf := 0
  gap := 100
  gapEnd := none
  gapDue := false
  ring := Mem.empty
  evseq := 0
  msixT := msixReset
  pba := 0
  bar2q := []

/-- The default clock settings record (Table 16-2). -/
def clkDefault : Nat :=
  108 * 2 ^ 48 + 2 * 2 ^ 44 + 4 * 2 ^ 40 + 3 * 2 ^ 36 + 108 * 2 ^ 28 + 3 * 2 ^ 24 + 100 * 2 ^ 16 + 4 * 2 ^ 12 + 4 * 2 ^ 8

def PwrS.reset : PwrS where
  good := false
  resetN := true
  lowAt := none
  oscWait := 0
  smbAddr := 0
  osc := false
  crust := false
  stopped := false
  held := []
  core := none
  chip := 0
  chipMove := none
  chipGoal := 0
  rails := []
  pause := none
  therm := false
  trip := none
  clkOff := false
  spOff := []
  coreT := [0, 0, 0, 0, 0]
  dieT := [0, 0]
  dieOn := [true, true]
  dieIdle := [false, false]
  dieAt := []
  sp := (100, 4)
  clkRec := clkDefault

def BootS.reset : BootS where
  boot := 0
  warm := false
  restart := false
  ready := false
  switching := false
  slot := 0
  dev := none
  cand := []
  fall := none
  hdr := []
  stageAt := 0
  resetOf := none
  mbxAbort := 0
  lockEnd := none
  halted := false
  heldEv := []
  fetched := []

def Fuses.zero : Fuses := ⟨0, 0, 0, 0, 0⟩

def SecS.reset : SecS where
  fuses := Fuses.zero
  vmap := 0
  downs := 0
  flash := [⟨none, Mem.empty⟩, ⟨none, Mem.empty⟩]
  sets := []
  staged := 0
  owner := none
  authCtr := 0
  lastLc := 0
  keys := false
  ident := 0
  tamper := []
  tamperRet := []
  tamperDue := false
  tampered := false
  meas := []
  modif := []
  clearAt := 0
  wipeAt := 0
  setAt := 0
  wiped := true
  dbgAt := []

def FabS.reset : FabS where
  profile := none
  slice := 0
  transit := false
  box := List.replicate 8 0
  overs := []
  links := List.replicate 64 Link.reset
  endps := [Endp.reset, Endp.reset]
  acus := List.replicate 8 Acu.reset
  ctrlq := []
  castq := []
  cast := none
  acks := []
  dirLost := []
  contrib := none
  stopQ := []
  lastStart := 0
  stopOn := false

/-- The part right after a package reset, PWR_GOOD low (R343, R362, R449, log entries 4 and 6). -/
def State.reset : State where
  blocks := List.replicate 144 Block.reset
  regions := List.replicate 4 Region.reset
  stks := List.replicate 12 Stack.reset
  time := TimeS.reset
  host := HostS.reset
  pwr := PwrS.reset
  boot := BootS.reset
  sec := SecS.reset
  fab := FabS.reset
  events := []
  latest := []
  tokMsgs := []
  noc := []
  nocFail := []
  starts := []
  smb := none
  out := []
  freeN := 0
  pending := []

end Sys2Proof.Machine
end

