-- ==== Sys2Proof/Machine/Geom.lean ====
section
/-! DEFINITION. The torus profile, node numbers, the slice box, routes, and the links of a direction (chapter 12). -/

namespace Sys2Proof.Machine

/-- The profile record (Table 12-3), 0 where none is installed. -/
def FabS.prof (f : FabS) : Nat := match f.profile with | some p => p.word | none => 0

def profAxis (p a : Nat) : Nat := bits p (128 + 16 * a) 16

/-- Is axis `a` defined? -/
def profDef (p a : Nat) : Bool := bit (profAxis p a) 15

/-- Size of axis `a`; an undefined axis has size 1 (R322). -/
def profSize (p a : Nat) : Nat := if profDef p a then bits (profAxis p a) 6 6 + 1 else 1

def profCoord (p a : Nat) : Nat := if profDef p a then bits (profAxis p a) 0 6 else 0

def profPort (p n : Nat) : Nat := bits p (8 * n) 8

/-- Re-send timeout in ticks (R335). -/
def FabS.timeout (f : FabS) : Nat := 100 * bits f.prof 256 8

/-- The checks of FAB_PROFILE on a record (R321). -/
def profOk (p : Nat) : Bool :=
  let en (n : Nat) : Bool := bit (profPort p n) 7
  let ports := (List.range 16).filter en
  let dirs (a d : Nat) : Nat := (ports.filter (fun n => bits (profPort p n) 0 3 == a && bits (profPort p n) 3 1 == d)).length
  let axes := (List.range 8).filter (profDef p)
  ports.all (fun n => profDef p (bits (profPort p n) 0 3))
    && axes.all (fun a => dirs a 0 != 0 && dirs a 0 == dirs a 1)
    && axes.all (fun a => bits (profAxis p a) 6 6 != 0 && decide (profCoord p a < profSize p a))
    && decide (prodL (axes.map (profSize p)) ≤ 65536)
    && decide (1 ≤ bits p 256 8) && decide (bits p 256 8 ≤ 64)

/-- Coordinates of a node, A0 least significant (R322). -/
def nodeCoords (p : Nat) (node : Nat) : List Nat :=
  ((List.range 8).foldl (fun (st : Nat × List Nat) a => (st.1 / profSize p a, st.2 ++ [st.1 % profSize p a])) (node, [])).2

/-- The node of coordinates (R322). -/
def nodeOf (p : Nat) (c : List Nat) : Nat :=
  ((List.range 8).foldl (fun (st : Nat × Nat) a => (st.1 + st.2 * c.getD a 0, st.2 * profSize p a)) (0, 1)).1

/-- This part's coordinates. -/
def FabS.here (f : FabS) : List Nat := (List.range 8).map (profCoord f.prof)

/-- This part's node number, 0xFFFF without a profile (R322, R492). -/
def FabS.node (f : FabS) : Nat := if f.profile.isSome then nodeOf f.prof f.here else 0xFFFF

/-- LO and LEN of the slice's box on an axis (Table 12-9). -/
def FabS.lo (f : FabS) (a : Nat) : Nat := bits (f.box.getD a 0) 0 6
def FabS.len (f : FabS) (a : Nat) : Nat := if profDef f.prof a then bits (f.box.getD a 0) 6 6 + 1 else 1

/-- Does the slice wrap on an axis (R338)? -/
def FabS.wraps (f : FabS) (a : Nat) : Bool := f.len a == profSize f.prof a

/-- Position of a coordinate within the box's axis (R347). -/
def FabS.posOf (f : FabS) (a c : Nat) : Nat := (c + profSize f.prof a - f.lo a % profSize f.prof a) % profSize f.prof a

/-- Do coordinates lie in the box (R338)? -/
def FabS.coordsIn (f : FabS) (c : List Nat) : Bool :=
  (List.range 8).all (fun a => !(profDef f.prof a) || decide (f.posOf a (c.getD a 0) < f.len a))

/-- Does a node lie in the slice's box (R338)? -/
def FabS.inBox (f : FabS) (node : Nat) : Bool :=
  f.slice != 0 && decide (node < prodL ((List.range 8).map (profSize f.prof))) && f.coordsIn (nodeCoords f.prof node)

/-- Next hop towards a node: an axis and a direction (0 +, 1 −), none at the destination (R328). -/
def FabS.route (f : FabS) (dst : Nat) : Option (Nat × Nat) :=
  let p := f.prof
  let h := f.here
  let d := nodeCoords p dst
  match (List.range 8).find? (fun a => profDef p a && h.getD a 0 != d.getD a 0) with
  | none => none
  | some a =>
    let k := profSize p a
    if f.wraps a then
      let x := (d.getD a 0 + k - h.getD a 0) % k
      some (a, if x ≤ k - x then 0 else 1)
    else some (a, if f.posOf a (d.getD a 0) > f.posOf a (h.getD a 0) then 0 else 1)

/-- Axis and direction of a port: by its override, else by the profile; none where the port is not enabled (R494). -/
def FabS.portDir (f : FabS) (n : Nat) : Option (Nat × Nat) :=
  match f.overs.find? (fun o => o.1 == n) with
  | some o => some o.2
  | none =>
    let v := profPort f.prof n
    if bit v 7 then some (bits v 0 3, bits v 3 1) else none

def FabS.link (f : FabS) (l : Nat) : Link := f.links.getD l Link.reset

def FabS.updLink (f : FabS) (l : Nat) (g : Link → Link) : FabS := { f with links := updAt f.links l g }

/-- The links of a direction, by port and then by link within the port (R329): link l is link l mod 4 of port l / 4 (R14). -/
def FabS.dirLinks (f : FabS) (a d : Nat) : List Nat :=
  (List.range 64).filter (fun l => f.portDir (l / 4) == some (a, d))

def FabS.upLinks (f : FabS) (a d : Nat) : List Nat :=
  (f.dirLinks a d).filter (fun l => (f.link l).st == .up && (f.link l).goal == .up)

/-- The hash by which a packet's link is selected (R329). -/
def hashPair (src dst : Nat) : Nat := let x := src ^^^ dst; x ^^^ (x / 256)

/-- The transmit link of a packet in a direction (R329). -/
def FabS.pickLink (f : FabS) (a d src dst : Nat) : Option Nat :=
  let u := f.upLinks a d
  if u.isEmpty then none else u[hashPair src dst % u.length]?

/-- The neighbour's coordinate on an axis in a direction (R323). -/
def FabS.stepC (f : FabS) (a d c : Nat) : Nat := let k := profSize f.prof a; if d = 0 then (c + 1) % k else (c + k - 1) % k

/-- The node in a direction (R323). -/
def FabS.neighbour (f : FabS) (a d : Nat) : Nat :=
  nodeOf f.prof (updAt f.here a (fun c => f.stepC a d c))

/-- Is a port a MEMBER port (R338)? On an axis of size 2 the neighbour is a member only where the box holds both. -/
def FabS.memberPort (f : FabS) (n : Nat) : Bool :=
  match f.portDir n with
  | none => false
  | some (a, d) =>
    if f.slice = 0 then false
    else f.len a ≥ 2 && decide (f.posOf a (f.stepC a d (profCoord f.prof a)) < f.len a)

/-- Hops of a relay up and down an axis (R370). -/
def FabS.upHops (f : FabS) (a : Nat) : Nat :=
  if f.wraps a then f.len a / 2 else f.len a - 1 - f.posOf a (profCoord f.prof a)
def FabS.downHops (f : FabS) (a : Nat) : Nat :=
  if f.wraps a then f.len a - 1 - f.len a / 2 else f.posOf a (profCoord f.prof a)

/-- Parts of the slice's box. -/
def FabS.boxParts (f : FabS) : Nat := prodL ((List.range 8).map f.len)

/-- The node at a position of the box on an axis, the other coordinates this part's. -/
def FabS.nodeAt (f : FabS) (a pos : Nat) : Nat :=
  nodeOf f.prof (updAt f.here a (fun _ => (f.lo a + pos) % profSize f.prof a))

/-- The active members of this part's group on an axis: box positions less those that are transit-only (R347). Which parts
are transit-only comes with the command (log entry 21). -/
def FabS.members (f : FabS) (a : Nat) (transit : List (Nat × Nat)) : List Nat :=
  ((List.range (f.len a)).filter (fun p => !(transit.contains (a, p)))).map (f.nodeAt a)

end Sys2Proof.Machine
end

