-- ==== Sys2Proof/Machine/Stack.lean ====
section
/-! DEFINITION. Named operations of one stack (chapter 9): the address windows, the write-combining buffer, code-checked
reads, the memory-side adders, scheduling of requests, and patrol scrub. -/

namespace Sys2Proof.Machine

/-- Stack counters (Table 15-11, level 2: Table 9-8, then the SUE's). -/
def sCorr := 0
def sUncorr := 1
def sScrubPass := 2
def sRmw := 3
def sEvict := 4
def sTurn := 5
def sConflict := 6
def sCapped := 7
def sPromote := 8
def sMsaOps := 9
def sMsaSat := 10
def sMsaNf := 11
def sNum := 12
def sPass := 15
def sElems := 16
def sSkip := 17
def sRollbacks := 18
def sBusy := 19
def sStall := 20

def Stack.count (k : Stack) (i n : Nat) : Stack := { k with ctr := ctrAdd k.ctr i n }

def Stack.ev (k : Stack) (code info detail : Nat) : Stack := { k with evs := k.evs ++ [(code, info, detail)] }

/-- The stack and stack-local offset of an interleaved address (R233). -/
def toStack (a : Nat) : Nat × Nat :=
  let g := a / 256
  let h := g / 4
  let j := h / 3
  (3 * (g % 4) + (h % 3 + popcount 12 (j % 4096)) % 3, j * 256 + a % 256)

/-- The interleaved address of a stack-local offset (R233). -/
def toInterleaved (n l : Nat) : Nat :=
  let j := l / 256
  let r0 := (n % 3 + 12 - popcount 12 (j % 4096)) % 3
  (4 * (3 * j + r0) + n / 3) * 256 + l % 256

/-- Where an offset lies in its stack (R234). -/
structure Place where
  pc    : Nat      -- pseudo-channel 0 to 63
  bank  : Nat
  row   : Nat
  quarter : Nat
  burst : Nat
  deriving DecidableEq, Repr

def place (l : Nat) : Place :=
  let j := l / 256
  let u := j / 64
  ⟨(j % 64) ^^^ ((j / 4096) % 64), u / 4 % 36, u / 4 / 36, u % 4, l / 32 % 8⟩

/-- The valid bits of word `w` (0 or 1) of a line. -/
def WLine.mask (l : WLine) (w : Nat) : Nat := bits l.valid (32 * w) 32

def fullMask : Nat := 2 ^ 32 - 1

/-- The valid bytes of word `w` of a line as runs of (byte number, byte). -/
def WLine.live (l : WLine) (w : Nat) : List (Nat × Byte) :=
  (((List.range 64).zip l.bytes).filter (fun ib => ib.1 / 32 == w && bit l.valid ib.1))

/-- A line laid over a store as its readers see it: whole words take new check bytes, partial ones are merged (R231, R236). -/
def WLine.onto (l : WLine) (m : Mem) : Mem :=
  [0, 1].foldl (fun (mm : Mem) w =>
    let base := 64 * l.line
    let bs := l.live w
    let m1 :=
      if l.mask w = fullMask then mm.write (base + 32 * w) (bs.map Prod.snd)
      else bs.foldl (fun m' ib => m'.write (base + ib.1) [ib.2]) mm
    if bit l.bad w && !bs.isEmpty then m1.poison (2 * l.line + w) else m1) m

/-- The store as a reader of bytes [off, off + len) sees it, with what the buffer holds laid over it (R236). -/
def Stack.view (k : Stack) (off len : Nat) : Mem :=
  (k.wcb.filter (fun l => decide (64 * l.line < off + len) && decide (off < 64 * l.line + 64))).foldl
    (fun m l => l.onto m) k.mem

/-- Bytes read, with their poison marks (R230, R236). -/
def Stack.readP (k : Stack) (off len : Nat) : List PByte := (k.view off len).readP off len

/-- One number read from a stack. -/
def Stack.num (k : Stack) (off n : Nat) : Nat := ofLE ((k.readP off n).map Prod.fst)

/-- Does the buffer hold all 32 bytes of word `w`, so that a read of it needs no DRAM word? -/
def Stack.covered (k : Stack) (w : Nat) : Bool := k.wcb.any (fun l => l.line == w / 2 && l.mask (w % 2) == fullMask)

/-- A read's record: DRAM words corrected are counted; uncorrectable ones are counted and reported (R252, Table 9-2). -/
def Stack.touch (k : Stack) (off len : Nat) : Stack :=
  let ws := (k.mem.listedIn off len).filter (fun w => !(k.covered w))
  let (c, u) := splitWords k.mem ws
  if c.isEmpty && u.isEmpty then k
  else
    { k with
      ctr := ctrAdd (ctrAdd k.ctr sCorr c.length) sUncorr u.length
      corrNow := k.corrNow + c.length
      evs := k.evs ++ u.map (fun w => (0x0102, 32 * w, 5)) }

/-- Bursts of 32 bytes that an extent covers. -/
def bursts (off len : Nat) : Nat := if len = 0 then 0 else (off + len - 1) / 32 - off / 32 + 1

/-- An extent of a stack cut at its granules. -/
def stackCuts : Nat → Nat → Nat → List (Nat × Nat)
  | 0, _, _ => []
  | f + 1, a, n => if n = 0 then [] else let m := min n (256 - a % 256); (a, m) :: stackCuts f (a + m) (n - m)

/-- A request joins the queue of its class, one for each granule (R240). -/
def Stack.ask (k : Stack) (now cls : Nat) (wr : Bool) (off len : Nat) : Stack :=
  { k with reqs := k.reqs ++
      (stackCuts (len / 256 + 2) off len).map (fun p => (⟨cls, wr, p.1, bursts p.1 p.2, now, false⟩ : SReq)) }

/-- A read of class `cls`: its request, and its record (R240, R252). -/
def Stack.readReq (k : Stack) (now cls off len : Nat) : Stack := (k.touch off len).ask now cls false off len

/-- The class of a line's write (R239). -/
def WLine.cls (l : WLine) : Nat := if l.upd then 3 else 2

/-- A line written to DRAM (R238, item 2): a word with missing bytes, even one with none, is read, merged and written back with new
check bytes. -/
def WLine.into (l : WLine) (m : Mem) : Mem :=
  l.onto (([0, 1].filter (fun w => l.mask w == 0)).foldl (fun mm w => mm.touchPartial (2 * l.line + w)) m)

/-- Bytes waiting in a channel's write queues (R239). -/
def Stack.queued (k : Stack) (ch : Nat) : Nat :=
  32 * ((k.reqs.filter (fun r => r.wr && (place r.off).pc / 2 == ch)).map SReq.left).sum

/-- Has the write queue of a line's channel room for it (R239: 16 KiB)? -/
def Stack.room (k : Stack) (line : Nat) : Bool := decide (k.queued ((place (64 * line)).pc / 2) + 64 ≤ 16384)

/-- A line leaves the buffer for its channel's write queue (R238, R239). -/
def Stack.flush (k : Stack) (now : Nat) (l : WLine) : Stack :=
  let part := [0, 1].filter (fun w => l.mask w != fullMask)
  let k0 : Stack := { k with wcb := k.wcb.filter (fun x => x.line != l.line) }
  let k1 := part.foldl (fun kk w => kk.readReq now 2 (64 * l.line + 32 * w) 32) k0
  ({ (k1.count sRmw part.length) with mem := l.into k1.mem }).ask now l.cls true (64 * l.line) 64

/-- The oldest line whose queue has room is written out early (R238, item 3); where no queue has room, the oldest (log entry
128). -/
def Stack.evict (k : Stack) (now : Nat) : Stack :=
  match (k.wcb.find? (fun l => k.room l.line)).orElse (fun _ => k.wcb.head?) with
  | some l => (k.flush now l).count sEvict 1
  | none => k

/-- Whole lines that waited for room in a write queue leave the buffer, oldest first (R238, item 1). -/
def Stack.refill (k : Stack) (now : Nat) : Stack :=
  k.wcb.foldl (fun kk l => if l.valid = 2 ^ 64 - 1 && kk.room l.line then kk.flush now l else kk) k

/-- One piece of a write, within one line, laid into the buffer. -/
def Stack.putPiece (k : Stack) (now : Nat) (upd : Bool) (off : Nat) (bs : List PByte) : Stack :=
  let ln := off / 64
  let o := off % 64
  let (l, k1) := match k.wcb.find? (fun l => l.line == ln) with
    | some l => (l, k)
    | none =>
      let k' := if k.wcb.length ≥ 4096 then k.evict now else k
      let l : WLine := ⟨ln, 0, List.replicate 64 0, 0, upd, now⟩
      (l, { k' with wcb := k'.wcb ++ [l] })
  let valid := l.valid ||| (((1 <<< bs.length) - 1) <<< o)
  let bad := [0, 1].foldl (fun b w =>
    let mine := ((List.range bs.length).zip bs).filter (fun ib => (o + ib.1) / 32 == w)
    if mine.isEmpty then b
    else if mine.any (fun ib => ib.2.2) then b ||| (1 <<< w)
    else if mine.length = 32 && bit b w then b - (1 <<< w)
    else b) l.bad
  let l' : WLine := { l with valid := valid, bytes := overlay l.bytes o (bs.map Prod.fst), bad := bad }
  let k2 : Stack := { k1 with wcb := k1.wcb.map (fun x => if x.line = ln then l' else x) }
  if valid = 2 ^ 64 - 1 && k2.room ln then k2.flush now l' else k2

/-- A byte string cut at the 64-byte lines it crosses: (offset, bytes), with fuel for its length. -/
def linePieces : Nat → Nat → List PByte → List (Nat × List PByte)
  | 0, _, _ => []
  | _, _, [] => []
  | f + 1, off, bs =>
    let n := 64 - off % 64
    (off, bs.take n) :: linePieces f (off + n) (bs.drop n)

/-- A write accepted by the write-combining buffer (R237, R238). -/
def Stack.put (k : Stack) (now : Nat) (upd : Bool) (off : Nat) (bs : List PByte) : Stack :=
  (linePieces bs.length off bs).foldl (fun kk p => kk.putPiece now upd p.1 p.2) k

def Stack.putRuns (k : Stack) (now : Nat) (upd : Bool) (rs : List Run) : Stack :=
  rs.foldl (fun kk r => kk.put now upd r.1 r.2) k

/-- Every line of the buffer written out (R239, R455). -/
def Stack.drain (k : Stack) (now : Nat) : Stack := k.wcb.foldl (fun kk l => kk.flush now l) k

/-- The result of one memory-side add (Table 9-7): the code, and whether it saturated or became non-finite. -/
def msaOp (f : Fmt) (op : Nat) (sat : Bool) (d s : Nat) : Nat × Bool × Bool :=
  if f.isInt then
    let w := f.width
    let (x, y) := (signed w d, signed w s)
    let r := if op = 0 then x + y else if op = 1 then max x y else min x y
    (unsigned w r, false, false)
  else
    let (x, y) := (f.decode 127 d, f.decode 127 s)
    let v := if op = 0 then x.add y else if op = 1 then x.max y else x.min y
    let e := f.encode sat .nearest 127 v
    let nf := e.nf || (match f.decode 127 e.code with | .nan => true | .inf _ => true | _ => false)
    (e.code, e.sat, nf)

/-- Requests waiting in a direction on a pseudo-channel. -/
def Stack.waitingOn (k : Stack) (pc : Nat) (wr : Bool) : List SReq :=
  k.reqs.filter (fun r => (place r.off).pc == pc && r.wr == wr)

/-- Has a WR, UPD or SCRUB request waited 8 µs, so that it is promoted (R241)? -/
def SReq.promoted (r : SReq) (now : Nat) : Bool := decide (r.cls ≥ 2) && decide (now ≥ r.t + 800)

/-- Slots that a same-bank conflict takes, 48 ns, and a switch of direction, 18 ns, at 0.8 ns a slot (R243, R244). -/
def conflictSlots : Nat := 60
def switchSlots : Nat := 23

/-- The row open in a bank, none where the bank is idle. -/
def Stack.openAt (k : Stack) (pc bank : Nat) : Option OpenRow := k.rows.find? (fun o => o.pc == pc && o.bank == bank)

/-- Is a bank under refresh (R247)? -/
def Stack.refreshed (k : Stack) (now bank : Nat) : Bool :=
  match k.refr with | some (b, t) => b == bank && decide (now < t) | none => false

/-- Can a request's bank be accessed now (R241, R247)? It can where the bank is idle or its row open. -/
def Stack.accessible (k : Stack) (now : Nat) (r : SReq) : Bool :=
  let p := place r.off
  !(k.refreshed now p.bank) && (match k.openAt p.pc p.bank with
    | none => true
    | some o => o.row == p.row && decide (o.slot ≤ k.slotN))

/-- A waiting request opens its row: at once in an idle bank; where another row stands open that no waiting request names, after a
same-bank conflict (log entry 129). -/
def Stack.openRow (k : Stack) (now : Nat) (mine : List SReq) (r : SReq) : Stack :=
  let p := place r.off
  if k.refreshed now p.bank then k
  else
    match k.openAt p.pc p.bank with
    | none => { k with rows := k.rows ++ [⟨p.pc, p.bank, p.row, k.slotN⟩] }
    | some o =>
      let wanted := mine.any (fun x => let q := place x.off; q.pc == p.pc && q.bank == p.bank && q.row == o.row)
      if wanted || decide (o.slot > k.slotN) then k
      else { k with rows := k.rows.map (fun x =>
        if x.pc = p.pc && x.bank = p.bank then { x with row := p.row, slot := k.slotN + conflictSlots } else x) }

/-- The request that a pseudo-channel takes of those eligible (R241): a promoted one, else LC unless capped, else the highest
class present; of each the oldest. -/
def SReq.choose (now : Nat) (capped : Bool) (el : List SReq) : Option SReq :=
  let byCls := ([1, 2, 3, 4].filterMap (fun c => el.find? (fun r => r.cls == c))).head?
  match el.find? (fun r => r.promoted now) with
  | some r => some r
  | none =>
    match el.find? (fun r => r.cls == 0) with
    | some r => if capped then byCls else some r
    | none => byCls

/-- One slot of one pseudo-channel (R241 to R243, R246): the request in progress, or the one it chooses. A slot left idle
because the only requests wait for a row of their bank is counted in MEM_CONFLICT. -/
def Stack.serveSlot (k0 : Stack) (now pc : Nat) : Stack :=
  let ch := k0.chans.getD (pc / 2) ⟨false, 0, 0⟩
  let all := k0.waitingOn pc ch.wr
  let k := all.foldl (fun kk r => kk.openRow now all r) k0
  let turning := decide (k.slotN < ch.idle)
  let el := if turning then [] else all.filter (k.accessible now)
  let others := k.reqs.any (fun r => (place r.off).pc == pc && r.cls != 0)
  let h := k.hist.getD pc 0
  let capped := others && decide (popcount 64 h ≥ 32)
  let cont := all.find? (fun r => r.on)
  let pick := match cont with | some r => some r | none => SReq.choose now capped el
  let prom := cont.isNone && (match pick with | some r => r.promoted now | none => false)
  let held := capped && cont.isNone && !prom && el.any (fun r => r.cls == 0)
  let isLc := match pick with | some r => r.cls == 0 | none => false
  let clash := pick.isNone && !turning && all.any (fun r => let p := place r.off
    match k.openAt p.pc p.bank with | some o => o.row == p.row && decide (o.slot > k.slotN) | none => false)
  let k1 : Stack := { k with hist := k.hist.set pc ((2 * h + b2n isLc) % 2 ^ 64) }
  let k2 := ((k1.count sCapped (b2n held)).count sConflict (b2n clash)).count sPromote (b2n prom)
  match pick with
  | none => k2
  | some r =>
    if r.left ≤ 1 then { k2 with reqs := k2.reqs.erase r }
    else
      { k2 with reqs := updAt k2.reqs (k2.reqs.findIdx (fun x => x == r)) (fun x => { x with left := x.left - 1, on := true }) }

/-- Must a channel switch its direction (R243)? Not while a request is in progress on it (R240). -/
def Stack.mustSwitch (k : Stack) (now ch : Nat) : Bool :=
  let c := k.chans.getD ch ⟨false, 0, 0⟩
  let mine := k.reqs.filter (fun r => (place r.off).pc / 2 == ch)
  let here := mine.filter (fun r => r.wr == c.wr)
  let there := mine.filter (fun r => r.wr != c.wr)
  !(mine.any (fun r => r.on)) && !there.isEmpty &&
    (!(here.any (k.accessible now)) || decide (now ≥ c.t + (if c.wr then 20 else 40))
      || (!c.wr && (decide (4 * k.queued ch > 3 * 16384) || there.any (fun r => r.promoted now))))

/-- A channel switched (R243, R246). -/
def Stack.switch (k : Stack) (now ch : Nat) : Stack :=
  ({ k with chans := updAt k.chans ch (fun c => ⟨!c.wr, now, k.slotN + switchSlots⟩) }).count sTurn 1

/-- The patrol scrub of one 256-byte granule (R251, R252): its read and its corrective writes are requests of class SCRUB, and the
whole is one operation on the words. -/
def Stack.scrub (k : Stack) (now : Nat) : Stack :=
  let off := 256 * k.scrubAt
  let ws := k.mem.listedIn off 256
  let (c, u) := splitWords k.mem ws
  let m1 := c.foldl Mem.fix k.mem
  let m2 := u.foldl Mem.poison m1
  let last := decide (k.scrubAt + 1 ≥ stackBytes / 256)
  let k1 : Stack := Stack.ask { k with
    mem := m2
    ctr := ctrAdd (ctrAdd k.ctr sCorr c.length) sUncorr u.length
    corrNow := k.corrNow + c.length
    evs := k.evs ++ u.map (fun w => (0x0102, 32 * w, 5))
    scrubAt := if last then 0 else k.scrubAt + 1 } now 4 false off 256
  let k1 := (c ++ u).foldl (fun kk w => kk.ask now 4 true (32 * w) 32) k1
  if last then { (k1.count sScrubPass 1) with period := k1.newPeriod } else k1

/-- The whole stack's words read as clean zeros (R411, R468). -/
def Stack.wipe (k : Stack) : Stack := { k with mem := Mem.empty, wcb := [], scas := [] }

end Sys2Proof.Machine
end

