-- ==== Sys2Proof/Machine/Sue.lean ====
section
/-! DEFINITION. The stack update engine (chapters 10 and 11): bindings, rule programs, passes, statistics, triggers, step
close and rollback. -/

namespace Sys2Proof.Machine

/-! Binding descriptors (Tables 11-3, 11-4). -/

def Bind.layout (b : Bind) : Nat := bits b.hd 490 2
def Bind.overlapB (b : Bind) : Bool := bit b.hd 489
def Bind.gatherB (b : Bind) : Bool := bit b.hd 488
def Bind.ruleNo (b : Bind) : Nat := bits b.hd 484 4
def Bind.elems (b : Bind) : Nat := bits b.hd 440 40
def Bind.rowLen (b : Bind) : Nat := bits b.hd 416 24 + 1
def Bind.wfmt (b : Bind) : Nat := bits b.hd 412 4
/-- Bytes from slot 0 to slot 1. -/
def Bind.vpitch (b : Bind) : Nat := bits b.hd 396 16 * 2 ^ 20
def Bind.hpitch (b : Bind) : Nat := bits b.hd 356 40
def Bind.trigOff (b : Bind) : Nat := bits b.hd 316 40
def Bind.statsOff (b : Bind) : Nat := bits b.hd 276 40
def Bind.hist (b : Bind) : Nat := bits b.hd 236 40
def Bind.hsize (b : Bind) : Nat := bits b.hd 196 40
def Bind.bitmap (b : Bind) : Nat := bits b.hd 156 40
def Bind.rowstep (b : Bind) : Nat := bits b.hd 116 40
def Bind.initStep (b : Bind) : Nat := bits b.hd 84 32
def Bind.dlTicks (b : Bind) : Nat := bits b.hd 52 32
def Bind.seed (b : Bind) : Nat := bits b.hd 20 32
/-- SPLIT of the version record: split and rows layout (R277). -/
def Bind.split (b : Bind) : Bool := b.layout != 0
def Bind.rowsL (b : Bind) : Bool := b.layout == 2

def stAddr (s : Nat) : Nat := bits s 88 40
def stAux (s : Nat) : Nat := bits s 48 40
def stFmtC (s : Nat) : Nat := bits s 44 4
def stFmt (s : Nat) : Fmt := (Fmt.ofCode (stFmtC s)).getD .fp32
def stDir (s : Nat) : Nat := bits s 42 2
def stKind (s : Nat) : Nat := bits s 40 2
def stSat (s : Nat) : Bool := bit s 39
def stMaster (s : Nat) : Bool := bit s 38
def stUsed (s : Nat) : Bool := stDir s != 0
def stReads (s : Nat) : Bool := stDir s == 1 || stDir s == 3
def stWrites (s : Nat) : Bool := stDir s == 2 || stDir s == 3

def Bind.str (b : Bind) (i : Nat) : Nat := b.strs.getD i 0

/-- Bytes of one element of a stream. -/
def stW (s : Nat) : Nat := (stFmt s).width / 8

/-- The stream of the masters, and the gradient stream. -/
def Bind.masterS (b : Bind) : Nat := (b.strs.find? (fun s => stUsed s && stMaster s)).getD 0
def Bind.gradS (b : Bind) : Nat := (b.strs.find? (fun s => stUsed s && stKind s == 3)).getD 0

/-- How far a stream's planes lie from ADDR and AUX for half or slot `h` (Table 11-5). -/
def Bind.shift (b : Bind) (s h : Nat) : Nat :=
  if b.layout ≠ 0 then 0
  else if stKind s = 1 then h * b.hpitch
  else if stKind s = 2 then h * b.vpitch
  else 0

/-- The version record (Table 10-4). -/
def Bind.record (b : Bind) : Nat :=
  b.pubVer * 2 ^ 96 + b.pin1 * 2 ^ 80 + b.pin0 * 2 ^ 64 + b.layer * 2 ^ 48 + bits b.hd 492 4 * 2 ^ 44
    + b2n b.split * 2 ^ 39 + b2n b.gatherB * 2 ^ 38 + b2n b.overlapB * 2 ^ 37 + b2n b.writing * 2 ^ 36
    + (match b.trig with | some t => b2n (t.phase == .waiting) * 2 ^ 35 | none => 0) + b.slot * 2 ^ 34

/-- Pins held on a slot. -/
def Bind.pins (b : Bind) (slot : Nat) : Nat := if slot = 0 then b.pin0 else b.pin1

def Bind.addPin (b : Bind) (slot : Nat) : Bind :=
  if slot = 0 then { b with pin0 := b.pin0 + 1 } else { b with pin1 := b.pin1 + 1 }

def Bind.subPin (b : Bind) (slot : Nat) : Bind :=
  if slot = 0 then { b with pin0 := b.pin0 - 1 } else { b with pin1 := b.pin1 - 1 }

/-- The slot that the next version is written to: the other slot, or slot 0 of a split binding (R267, R272). -/
def Bind.nextSlot (b : Bind) : Nat := if b.split then 0 else 1 - b.slot

def Sue.bind (s : Sue) (l : Nat) : Option Bind := s.binds.find? (fun b => b.layer == l)

def Sue.updBind (s : Sue) (l : Nat) (f : Bind → Bind) : Sue :=
  { s with binds := s.binds.map (fun b => if b.layer = l then f b else b) }

def Sue.rule (s : Sue) (n : Nat) : Option Rule := (s.rules.find? (fun r => r.1 == n)).map Prod.snd

def Stack.updBind (k : Stack) (l : Nat) (f : Bind → Bind) : Stack := { k with sue := k.sue.updBind l f }

/-- A read by the SUE: a request of class UPD, and its record (R240, R252, R276). -/
def Stack.sueRead (k : Stack) (now off len : Nat) : Stack := k.readReq now 3 off len

/-! Rule arithmetic (R288 to R293). -/

/-- Formats by X of Q8 (R292). -/
def xFmt : Nat → Option Fmt
  | 0 => some .lg8f | 1 => some .lg8b | 2 => some .lgu8 | 3 => some .mx4 | 4 => some .mx5 | 5 => some .e4m3
  | 6 => some .e5m2 | _ => none

/-- X code of an 8-bit format; none for the others. -/
def fmtX : Fmt → Option Nat
  | .lg8f => some 0 | .lg8b => some 1 | .lgu8 => some 2 | .mx4 => some 3 | .mx5 => some 4 | .e4m3 => some 5
  | .e5m2 => some 6 | _ => none

/-- A raw register (R292). -/
def rawReg (x scale code : Nat) : Nat := x * 2 ^ 24 + scale * 256 + code

/-- The value of a raw register. -/
def rawVal (r : Nat) : Val :=
  match xFmt (bits r 24 3) with
  | some f => f.decode (if f.scaled then bits r 8 8 else 127) (bits r 0 8)
  | none => .nan

def natVal (n : Nat) : Val := if n = 0 then .zero false else .bin false n 0

/-- A positive magnitude brought to 256 significant bits, an odd last bit standing for what was dropped. -/
def trim256 (m : Nat) (e : Int) : Nat × Int :=
  let n := Nat.log2 m
  if n ≤ 256 then (m, e)
  else
    let d := n - 256
    let q := m >>> d
    (if q <<< d = m then q else q ||| 1, e + d)

/-- Squares of a magnitude, each brought to 256 bits. -/
def squares : Nat → Nat → Int → List (Nat × Int)
  | 0, _, _ => []
  | n + 1, m, e => (m, e) :: (let p := trim256 (m * m) (2 * e); squares n p.1 p.2)

/-- The 32 entries RN32(β^(2^i)) of a power table (R287). UNVERIFIED: squares are kept to 256 bits with a sticky bit. -/
def powTable (beta : Nat) : List Nat :=
  let me := (fp64 beta).binMag
  (squares 32 me.1 me.2).map (fun p => rn32 (.bin false p.1 p.2))

/-- The product of a table's entries for the set bits of t, ascending, each product rounded (R291). -/
def powOf (tab : List Nat) (t : Nat) : Nat :=
  (bitsOf 32 t).foldl (fun acc i => rn32 ((fp32 acc).mul (fp32 (tab.getD i 0)))) 0x3F800000

/-- The integer that PWT reads from a register (R291): truncated toward zero and clamped; none for a negative or NaN. -/
def pwtInt (v : Val) : Option Nat :=
  match v with
  | .nan => none
  | .zero _ => some 0
  | .inf s => if s then none else some (2 ^ 32 - 1)
  | v => if v.sign then none
    else
      let me := v.binMag
      let n := if me.2 ≥ 0 then me.1 * 2 ^ (min 64 me.2.toNat) else me.1 / 2 ^ me.2.natAbs
      some (min (2 ^ 32 - 1) n)

/-- An active lane of a pass: its element, its registers, whether its gradient word is poisoned, whether a
record word of it is. -/
structure Lane where
  i    : Nat
  regs : List Nat
  gBad : Bool
  sBad : Bool
  dt   : Nat
  deriving DecidableEq, Repr

/-- A group under way: its lanes, their random states, the counts, and what STS gave each stream: per lane the code and
the scale byte. -/
structure Grp where
  lanes : List Lane
  rnd   : List Nat
  cnt   : Cnt
  outs  : List (Nat × List (Nat × Nat))
  deriving DecidableEq, Repr

/-- The code of element `i` of a plane of `w` bytes each. -/
def Stack.elemAt (k : Stack) (base w i : Nat) : El :=
  let bs := k.readP (base + i * w) w
  (ofLE (bs.map Prod.fst), bs.any Prod.snd)

/-- A stream's element as LDS loads it (R293): a register, and whether a word of it was poisoned. -/
def Stack.loadS (k : Stack) (b : Bind) (s i : Nat) : Nat × Bool :=
  let sh := b.shift s b.slot
  let f := stFmt s
  if stMaster s && b.split then
    let h := k.elemAt (stAddr s) 2 i
    let l := k.elemAt (stAux s) 2 i
    (h.1 * 65536 + l.1, h.2 || l.2)
  else
    let c := k.elemAt (stAddr s + sh) (f.width / 8) i
    match fmtX f with
    | some x =>
      if f.scaled then
        let e := k.elemAt (stAux s + sh) 1 (i / 32)
        (rawReg x e.1 c.1, c.2 || e.2)
      else (rawReg x 0 c.1, c.2)
    | none => (if f = .bf16 then c.1 * 65536 else c.1, c.2)

/-- The register that an element of stream `s` keeps where its gradient word is poisoned (R481): its old value; for the
working copy, the old master. -/
def Stack.oldReg (k : Stack) (b : Bind) (s i : Nat) : Nat :=
  (k.loadS b (if stKind s = 2 then b.masterS else s) i).1

/-- The same as a value. -/
def Stack.oldVal (k : Stack) (b : Bind) (s i : Nat) : Val :=
  let t := if stKind s = 2 then b.masterS else s
  if (fmtX (stFmt t)).isSome then rawVal (k.oldReg b s i) else fp32 (k.oldReg b s i)

/-- A source operand as a value (Table 11-8). -/
def srcVal (s : Sue) (r : Rule) (step : Nat) (ln : Lane) (c : Nat) : Val :=
  if c < 16 then fp32 (ln.regs.getD c 0)
  else if c < 32 then fp32 (r.ks.getD (c - 16) 0)
  else if c = 32 then rn (natVal step)
  else if c = 33 then rn (natVal ln.dt)
  else if c = 34 then (if s.mode = 1 then .bin false 1 (-(s.e : Int)) else oneVal)
  else if c = 35 then .zero false
  else oneVal

/-- A source operand as the FP32 code that STS stores as it stands (R293). -/
def srcCode (s : Sue) (r : Rule) (step : Nat) (ln : Lane) (c : Nat) : Nat :=
  if c < 16 then ln.regs.getD c 0
  else if c < 32 then r.ks.getD (c - 16) 0
  else rn32 (srcVal s r step ln c)

/-- The arithmetic operations of Table 11-9 as FP32 codes. -/
def ruleArith (opc : Nat) (a b c : Val) : Nat :=
  if opc = 1 then rn32 (a.add b)
  else if opc = 2 then rn32 (a.add b.neg)
  else if opc = 3 then rn32 (a.mul b)
  else if opc = 4 then rn32 ((a.mul b).add c)
  else if opc = 5 then rn32 (fnVal .rcp a)
  else if opc = 6 then rn32 (fnVal .rsqrt a)
  else if opc = 7 then rn32 (a.max b)
  else if opc = 8 then rn32 (a.min b)
  else if opc = 9 then rn32 (a.withSign false)
  else if opc = 10 then rn32 (match a with | .nan => .nan | .zero s => .zero s | v => .bin v.sign 1 0)
  else if opc = 11 then rn32 ((a.max b).min c)
  else rn32 (if c.isZero then b else a)

/-- Fields of a rule word (Table 11-7). -/
def rOpc (w : Nat) : Nat := bits w 26 6
def rD (w : Nat) : Nat := bits w 22 4
def rA (w : Nat) : Nat := bits w 16 6
def rB (w : Nat) : Nat := bits w 10 6
def rC (w : Nat) : Nat := bits w 4 6
def rSR (w : Nat) : Bool := bit w 3
def rX (w : Nat) : Nat := bits w 0 3

/-- The stream that stores what the Q8 at the head of `ws` forms: the first STS of its register before it is rewritten. -/
def q8Target (d : Nat) : List Nat → Option Nat
  | [] => none
  | w :: ws =>
    if rOpc w = 0x19 && rA w = d then some (rX w)
    else if rOpc w ≠ 0x19 && rD w = d then none
    else q8Target d ws

/-- Every lane's next draw (R43): the draws and the states after. -/
def drawAll (rnd : List Nat) : List Nat × List Nat :=
  let st := rnd.map drawNext
  (st.map (fun s => s % 65536), st)

def Lane.set (l : Lane) (d v : Nat) : Lane := { l with regs := l.regs.set d v }

def isNf (c : Nat) : Bool := !(fp32 c).finite

/-- One stored result: code and counts (R293, R51, R55). -/
def stsVal (s : Nat) (rnd : Rnd) (v : Nat) : Nat × Cnt :=
  if stFmt s = .bf16 then
    let x := fp32 v
    let e := Fmt.encode .bf16 (stSat s) rnd 127 x
    (e.code, e.cnt)
  else
    match fp32 v with
    | .inf t => if stSat s then ((roundTo .fp32 true (.bin t (2 ^ 25) 200)).code, { sat := 1 }) else (v, { nf := 1 })
    | .nan => (v, { nf := 1 })
    | _ => (v, {})

/-- One instruction run on every lane of a group (R276, R289). `rest` is what follows it in the program. -/
def ruleStep (k : Stack) (b : Bind) (r : Rule) (step w : Nat) (rest : List Nat) (g : Grp) : Grp :=
  let opc := rOpc w
  let d := rD w
  let src (l : Lane) (c : Nat) : Val := srcVal k.sue r step l c
  if opc = 0x18 then
    let s := b.str (rX w)
    { g with lanes := g.lanes.map (fun l =>
        let v := k.loadS b s l.i
        let l' := l.set d v.1
        if stKind s = 3 then { l' with gBad := l'.gBad || v.2 } else { l' with sBad := l'.sBad || v.2 }) }
  else if opc = 0x0D then
    let tab := r.tabs.getD (rX w % 4) []
    { g with lanes := g.lanes.map (fun l =>
        let t := if rA w = 32 then some step else if rA w = 33 then some l.dt else pwtInt (src l (rA w))
        l.set d (match t with | some n => powOf tab n | none => rn32 .nan)) }
  else if opc = 0x10 then
    let res := g.lanes.map (fun l => rn32 (rawVal (l.regs.getD (rA w) 0)))
    let nf := (res.filter isNf).length
    { g with lanes := (g.lanes.zip res).map (fun lr => lr.1.set d lr.2), cnt := g.cnt.add { nf := nf } }
  else if opc = 0x11 then
    match xFmt (rX w) with
    | none => g
    | some f =>
      let (dr, rnd1) := if rSR w then drawAll g.rnd else ([], g.rnd)
      let tgt := (q8Target d rest).map b.str
      let ins := g.lanes.map (fun l => match tgt with
        | some s => if l.gBad then k.oldVal b s l.i else src l (rA w)
        | none => src l (rA w))
      let rs := (List.range g.lanes.length).map (fun i => if rSR w then Rnd.draw (dr.getD i 0) else .nearest)
      let blocks := (chunks 32 g.lanes).zip ((chunks 32 ins).zip (chunks 32 rs))
      let out := blocks.map (fun x =>
        let (e, encs) := f.encBlock false x.2.2 x.2.1
        let sc := if f.scaled then e else 0
        ((x.1.zip encs).map (fun lc => lc.1.set d (rawReg (rX w) sc lc.2.code)), sumCnt encs))
      { g with lanes := out.flatMap Prod.fst, rnd := rnd1,
               cnt := out.foldl (fun c o => c.add o.2) g.cnt }
  else if opc = 0x19 then
    let si := rX w
    let s := b.str si
    if (fmtX (stFmt s)).isSome then
      { g with outs := g.outs ++ [(si, g.lanes.map (fun l =>
          let v := l.regs.getD (rA w) 0
          (bits v 0 8, bits v 8 8)))] }
    else
      let sr := rSR w && stFmt s == .bf16
      let (dr, rnd1) := if sr then drawAll g.rnd else ([], g.rnd)
      let res := (g.lanes.zip (List.range g.lanes.length)).map (fun li =>
        let l := li.1
        let v := if l.gBad then k.oldReg b s l.i else srcCode k.sue r step l (rA w)
        stsVal s (if sr then .draw (dr.getD li.2 0) else .nearest) v)
      { g with
        rnd := rnd1
        cnt := res.foldl (fun c x => c.add x.2) g.cnt
        outs := g.outs ++ [(si, res.map (fun x => (x.1, 0)))] }
  else
    { g with lanes := g.lanes.map (fun l => l.set d (ruleArith opc (src l (rA w)) (src l (rB w)) (src l (rC w)))) }

/-- A rule program run on a group. -/
def runRule (k : Stack) (b : Bind) (r : Rule) (step : Nat) : List Nat → Grp → Grp
  | [], g => g
  | w :: ws, g => runRule k b r step ws (ruleStep k b r step w ws g)

/-! Planes of the record, the history plane and the journal (Tables 11-10, 11-12). -/

/-- A plane of bytes per element: base, and bytes per element as num / den. -/
structure Plane where
  base : Nat
  num  : Nat
  den  : Nat
  deriving DecidableEq, Repr

def Plane.bytes (p : Plane) (n : Nat) : Nat := cdiv (n * p.num) p.den

/-- The planes of the record that a split or rows pass rewrites, in the journal's order: high halves, low halves, then each
other record stream's codes and scales by ascending stream number. -/
def Bind.planes (b : Bind) : List Plane :=
  let m := b.masterS
  [⟨stAddr m, 2, 1⟩, ⟨stAux m, 2, 1⟩] ++
    (b.strs.filter (fun s => stUsed s && stKind s == 1 && !(stMaster s))).flatMap (fun s =>
      ⟨stAddr s, stW s, 1⟩ :: (if (stFmt s).scaled then [⟨stAux s, 1, 32⟩] else []))

/-- Bytes of history for `n` elements. -/
def Bind.histBytes (b : Bind) (n : Nat) : Nat := (b.planes.map (fun p => p.bytes n)).sum

/-- Copies of planes: (record address, bytes, address in the history). The history at `o` holds `n` elements plane after plane;
the elements copied are [i0, i0 + m), which stand at [h0, h0 + m) of it. -/
def planeCopies (n i0 m h0 : Nat) : List Plane → Nat → List (Nat × Nat × Nat)
  | [], _ => []
  | p :: ps, o => (p.base + p.bytes i0, p.bytes m, o + p.bytes h0) :: planeCopies n i0 m h0 ps (o + p.bytes n)

/-- The words of a range that read poisoned. -/
def Stack.badWords (k : Stack) (off len : Nat) : List Nat :=
  (wordsOf off len).filter (fun w => (k.readP (32 * w) 32).any Prod.snd)

/-- The poison marks of bytes taken off. -/
def unmarked (bs : List PByte) : List PByte := bs.map (fun b => (b.1, false))

/-- Old values kept in the history. Which of the record's words were poisoned the pass remembers itself (log entry 44). -/
def Stack.keep (now : Nat) (cs : List (Nat × Nat × Nat)) (k : Stack) : Stack :=
  cs.foldl (fun kk c => kk.put now true c.2.2 (unmarked (kk.readP c.1 c.2.1))) k

/-- Bytes put back at `base`. After a pass that met the poisoned words `bads`, the words they lie in are rewritten whole, and just
those of `bads` are poisoned again (R481). -/
def Stack.putBack (k : Stack) (now : Nat) (bads : List Nat) (base : Nat) (bs : List PByte) : Stack :=
  if bads.isEmpty then k.put now true base bs
  else
    let lo := base / 32 * 32
    let n := cdiv (base + bs.length) 32 * 32 - lo
    let o := base - lo
    let whole := overlay ((k.readP lo n).map Prod.fst) o (bs.map Prod.fst)
    k.put now true lo (((List.range n).zip whole).map (fun ib =>
      (ib.2, bads.contains ((lo + ib.1) / 32) || (decide (o ≤ ib.1) && (bs.getD (ib.1 - o) (0, false)).2))))

/-- Old values read from the history and put back. -/
def Stack.back (now : Nat) (bads : List Nat) (cs : List (Nat × Nat × Nat)) (k : Stack) : Stack :=
  cs.foldl (fun kk c => (kk.sueRead now c.2.2 c.2.1).putBack now bads c.1 (kk.readP c.2.2 c.2.1)) k

/-- Where the history plane of a split binding holds elements [i0, i0 + m). -/
def Bind.histCopies (b : Bind) (i0 m : Nat) : List (Nat × Nat × Nat) := planeCopies b.elems i0 m i0 b.planes b.hist

/-- Where the journal record at `pos` holds the planes of row `r`. -/
def Bind.rowCopies (b : Bind) (r pos : Nat) : List (Nat × Nat × Nat) :=
  planeCopies b.rowLen (r * b.rowLen) b.rowLen 0 b.planes (pos + 8)

/-- Bytes of a journal record. -/
def Bind.recBytes (b : Bind) : Nat := 8 + b.histBytes b.rowLen

/-- A row's journal record written at `pos` (Table 11-10). -/
def Stack.saveRow (k : Stack) (now : Nat) (b : Bind) (r pos : Nat) : Stack :=
  Stack.keep now (b.rowCopies r pos)
    (k.put now true pos ((toLE 4 r).map (fun x => (x, false)) ++ unmarked (k.readP (b.rowstep + 4 * r) 4)))

/-- A row restored from the journal record at `pos`. -/
def Stack.loadRow (k : Stack) (now : Nat) (b : Bind) (bads : List Nat) (pos : Nat) : Stack :=
  let r := k.num pos 4
  Stack.back now bads (b.rowCopies r pos)
    ((k.sueRead now pos 8).putBack now bads (b.rowstep + 4 * r) (k.readP (pos + 4) 4))

/-- What a pass wrote put back (R286, R307): `m` elements of a split binding, `fill` journal bytes of a rows binding; `bads` are the
poisoned words that the pass met. -/
def Stack.restore (k : Stack) (now : Nat) (b : Bind) (m fill : Nat) (bads : List Nat) : Stack :=
  if b.layout = 0 then k
  else if b.rowsL then
    ((List.range (fill / b.recBytes)).reverse).foldl (fun kk j => kk.loadRow now b bads (b.hist + j * b.recBytes)) k
  else Stack.back now bads (b.histCopies 0 (min m b.elems)) k

/-- An interrupted pass put back; where its journal overflowed it cannot be, and the binding becomes FAULTED (R286, R313). -/
def Stack.undo (k : Stack) (now : Nat) (b : Bind) (m fill : Nat) (full : Bool) (bads : List Nat) : Stack :=
  if b.split && full then (k.ev 0x0302 b.layer 0).updBind b.layer (fun b => { b with faulted := true })
  else k.restore now b m fill bads

/-! The statistics record (Table 11-11). -/

/-- A binary tree over lane sums pairing lanes 2j and 2j + 1 (R300). -/
def pairSum : Nat → List Nat → Nat
  | 0, l => l.headD 0
  | n + 1, l =>
    if l.length ≤ 1 then l.headD 0
    else pairSum n ((chunks 2 l).map (fun p => match p with
      | [a, b] => rn64 ((fp64 a).add (fp64 b)) | _ => p.headD 0))

def statsRec (w g u step elems nf pois outcome : Nat) : Nat :=
  w * 2 ^ 448 + g * 2 ^ 384 + u * 2 ^ 320 + step * 2 ^ 288 + elems * 2 ^ 248 + min 0xFFFFFFFF nf * 2 ^ 216
    + min 0xFFFFFFFF pois * 2 ^ 184 + outcome * 2 ^ 182

def Stack.writeStats (k : Stack) (now : Nat) (b : Bind) (r : Nat) : Stack :=
  k.put now true b.statsOff ((toLE 64 r).map (fun x => (x, false)))

/-! The pass (R284). -/

/-- Elements of a pass. -/
def Pass.total (p : Pass) (b : Bind) : Nat := if b.rowsL then p.rows.length * b.rowLen else b.elems

/-- The stream element that number `n` of a pass is (R276). -/
def Pass.elem (p : Pass) (b : Bind) (n : Nat) : Nat :=
  if b.rowsL then p.rows.getD (n / b.rowLen) 0 * b.rowLen + n % b.rowLen else n

/-- The bytes that a stream gives for an element: a split master's halves, else its code and, where it has one, its scale. -/
def Bind.pieces (b : Bind) (s i : Nat) : List (Nat × Nat) :=
  if stMaster s && b.split then [(stAddr s + 2 * i, 2), (stAux s + 2 * i, 2)]
  else
    (stAddr s + b.shift s b.slot + stW s * i, stW s) ::
      (if (stFmt s).scaled then [(stAux s + b.shift s b.slot + i / 32, 1)] else [])

/-- Adjacent (address, length) pieces joined, equal ones kept once. -/
def mergeR : List (Nat × Nat) → List (Nat × Nat)
  | [] => []
  | [r] => [r]
  | (a, n) :: l =>
    match mergeR l with
    | (b, m) :: t => if a = b then (b, max n m) :: t else if a + n = b then (a, n + m) :: t else (a, n) :: (b, m) :: t
    | [] => [(a, n)]

/-- The touched rows of a rows binding, ascending (R297). -/
def Stack.touched (k : Stack) (b : Bind) : List Nat :=
  let n := b.elems / b.rowLen
  let bm := k.readP b.bitmap (cdiv n 8)
  ((List.range bm.length).zip bm).flatMap (fun ib =>
    (bitsOf 8 ib.2.1.toNat).filterMap (fun j => if 8 * ib.1 + j < n then some (8 * ib.1 + j) else none))

/-- Bit r of the touch bitmap set or cleared, by a read and a write of class `cls` (R296, R297). -/
def Stack.setTouch (k : Stack) (now cls : Nat) (b : Bind) (r : Nat) (v : Bool) : Stack :=
  let a := b.bitmap + r / 8
  let o := k.num a 1
  let m := 1 <<< (r % 8)
  (k.readReq now cls a 1).put now (cls == 3) a [(BitVec.ofNat 8 (if v then o ||| m else (o ||| m) - m), false)]

/-- Gradient words of elements exchanged with zero, adjacent ones as one write, so that a word taken whole is written whole
(R297). -/
def Stack.zeroGrad (k : Stack) (now : Nat) (b : Bind) (is : List Nat) : Stack :=
  let g := b.gradS
  k.putRuns now true (coalesce (is.map (fun i => (stAddr g + i * stW g, List.replicate (stW g) ((0 : Byte), false)))))

/-- Bit cleared and journal record written for the rows that begin in a group (R297, steps 1 and 3). A poisoned word that the record
or ROWSTEP holds is remembered. -/
def Stack.beginRows (now : Nat) (b : Bind) : List Nat → Stack → Pass → Stack × Pass
  | [], k, p => (k, p)
  | r :: rs, k, p =>
    let k1 := (k.setTouch now 3 b r false).sueRead now (b.rowstep + 4 * r) 4
    let p1 := { p with bads := dedup (p.bads ++ k1.badWords (b.rowstep + 4 * r) 4
      ++ (b.rowCopies r 0).flatMap (fun (c : Nat × Nat × Nat) => k1.badWords c.1 c.2.1)) }
    if p.jFill + b.recBytes ≤ b.hsize then
      Stack.beginRows now b rs (k1.saveRow now b r (b.hist + p.jFill)) { p1 with jFill := p.jFill + b.recBytes }
    else
      Stack.beginRows now b rs (if p.jOver then k1 else k1.ev 0x0307 b.layer 0) { p1 with jOver := true }

/-- FP64 sum of a lane with the square of a value added (R300). -/
def addSq (acc : Nat) (v : Val) : Nat := rn64 ((fp64 acc).add (fp64 (rn64 (v.mul v))))

/-- Writes of one stream's results for the active lanes (Table 11-5, R293). -/
def outRuns (b : Bind) (s : Nat) (ls : List (Lane × Nat × Nat)) : List Run :=
  let f := stFmt s
  let sh := b.shift s b.nextSlot
  if stMaster s && b.split then
    coalesce (ls.map (fun x => (stAddr s + 2 * x.1.i, (toLE 2 (x.2.1 / 65536)).map (fun y => (y, x.1.sBad)))))
      ++ coalesce (ls.map (fun x => (stAux s + 2 * x.1.i, (toLE 2 x.2.1).map (fun y => (y, x.1.sBad)))))
  else
    coalesce (ls.map (fun x =>
      (stAddr s + sh + stW s * x.1.i, (toLE (stW s) x.2.1).map (fun y => (y, x.1.sBad)))))
      ++ (if f.scaled then
            coalesce ((chunks 32 ls).filterMap (fun c => c.head?.map (fun x =>
              (stAux s + sh + x.1.i / 32, [(BitVec.ofNat 8 x.2.2, c.all (fun y => y.1.sBad))]))))
          else [])

/-- One group of the pass under way (R276, R284, R297, R481). -/
def Stack.groupStep (k0 : Stack) (now : Nat) (b : Bind) (r : Rule) (p0 : Pass) : Stack :=
  let lo := 1024 * p0.group
  let n := min 1024 (p0.total b - lo)
  let nums := (List.range n).map (fun j => lo + j)
  let newRows := if b.rowsL then
      (nums.filter (fun j => j % b.rowLen == 0)).map (fun j => p0.rows.getD (j / b.rowLen) 0) else []
  let (k, p) := Stack.beginRows now b newRows k0 p0
  let gs := b.gradS
  let ms := b.masterS
  let reads := b.strs.filter (fun s => stUsed s && (stReads s || (b.split && stKind s == 1)))
  let act := (List.range n).map (fun j =>
    let i := p.elem b (lo + j)
    let rs := if b.rowsL then k.readP (b.rowstep + 4 * (i / b.rowLen)) 4 else []
    let base := if b.rowsL then ofLE (rs.map Prod.fst) else b.last
    ({ i := i, regs := List.replicate 16 0, dt := (p.step + 2 ^ 32 - base) % 2 ^ 32, gBad := (k.loadS b gs i).2
       sBad := rs.any Prod.snd || reads.any (fun s => stKind s != 3 && (k.loadS b s i).2) } : Lane))
  let g := runRule k b r p.step (r.words.take r.l) ⟨act, k.sue.lanes, {}, []⟩
  let grads := act.map (fun l => (l, fp32 (k.loadS b gs l.i).1))
  let olds := act.map (fun l => (k.loadS b ms l.i).1)
  let news := match g.outs.find? (fun o => stMaster (b.str o.1)) with
    | some o => o.2.map Prod.fst
    | none => olds
  let fold (acc : List Nat) (vs : List (Option Val)) : List Nat :=
    (acc.zip ((List.range 1024).map (fun j => (vs.getD j none)))).map (fun av =>
      match av.2 with | some v => addSq av.1 v | none => av.1)
  let words := dedup ((grads.filter (fun l => l.1.gBad)).map (fun l => (stAddr gs + l.1.i * stW gs) / 32))
  let nf := (grads.filter (fun l => !l.2.finite)).length
  let span (s : Nat) : List (Nat × Nat) :=
    (List.range 2).flatMap (fun j => mergeR (act.filterMap (fun l => (b.pieces s l.i)[j]?)))
  let p1 : Pass := { p with
    group := p.group + 1
    cyc := p.cyc + r.l
    ssqW := fold p.ssqW (olds.map (fun o => some (fp32 o)))
    ssqG := fold p.ssqG (grads.map (fun x => some x.2))
    ssqU := fold p.ssqU ((olds.zip news).map (fun on => some (fp64 (rn64 ((fp32 on.2).add (fp32 on.1).neg)))))
    nfG := p.nfG + nf
    poisG := p.poisG + words.length
    elems := p.elems + n
    bads := dedup (p.bads ++
      (reads.filter (fun s => stKind s != 3)).flatMap (fun s => (span s).flatMap (fun x => k.badWords x.1 x.2))) }
  -- reads recorded, history written, then the writes
  let k1 := (reads.flatMap span).foldl (fun kk x => kk.sueRead now x.1 x.2) k
  let k2 := words.foldl (fun kk w => kk.ev 0x0303 (b.layer + (32 * w) * 65536) 0) k1
  let k3 := if b.layout = 1 then Stack.keep now (b.histCopies lo n) k2 else k2
  let k4 := if b.rowsL then k3.zeroGrad now b (act.map Lane.i) else k3
  let k5 := g.outs.foldl (fun kk o => kk.putRuns now true
    (outRuns b (b.str o.1) ((g.lanes.zip o.2).map (fun lo => (lo.1, lo.2.1, lo.2.2))))) k4
  let k6 := if b.rowsL then
      (nums.filter (fun j => j % b.rowLen == b.rowLen - 1)).foldl (fun kk j =>
        kk.put now true (b.rowstep + 4 * (p.rows.getD (j / b.rowLen) 0)) ((toLE 4 p.step).map (fun x => (x, false)))) k5
    else k5
  let flag := nf != 0 || !words.isEmpty
  { k6 with
    ctr := ctrAdd (ctrAdd (ctrAdd (ctrAdd (ctrAdd k6.ctr sElems n) sBusy r.l) sNum g.cnt.sat) (sNum + 1) g.cnt.flu)
      (sNum + 2) g.cnt.nf
    sue := { k6.sue with
      pass := some p1, lanes := g.rnd
      nfSteps := if flag then dedup (k6.sue.nfSteps ++ [p.step]) else k6.sue.nfSteps } }

/-- Groups run, at most `fuel` of them, while the pass has cycles in hand (`budget` none: to its last group). -/
def Stack.runGroups : Nat → Stack → Nat → Option Nat → Stack
  | 0, k, _, _ => k
  | f + 1, k, now, budget =>
    match k.sue.pass with
    | none => k
    | some p =>
      match k.sue.bind p.layer with
      | none => k
      | some b =>
        match k.sue.rule b.ruleNo with
        | none => k
        | some r =>
          if 1024 * p.group ≥ p.total b then k
          else
            match budget with
            | none => Stack.runGroups f (k.groupStep now b r p) now none
            | some c => if p.cyc ≤ c then Stack.runGroups f (k.groupStep now b r { p with cyc := 0 }) now (some (c - p.cyc))
              else { k with sue := { k.sue with pass := some { p with cyc := p.cyc - c } } }

/-- Is the next element group still to come? -/
def Stack.passLeft (k : Stack) : Nat :=
  match k.sue.pass with
  | none => 0
  | some p => match k.sue.bind p.layer with
    | none => 0
    | some b => cdiv (p.total b) 1024 - p.group

/-- Do reads of the pass still wait at the controllers? -/
def Stack.starved (k : Stack) : Bool := k.reqs.any (fun r => r.cls == 3 && !r.wr)

/-- `c` SUE_CLK cycles of the pass under way: its groups, or a wait for its streams (R276, R314; log entry 130). -/
def Stack.passTick (k : Stack) (now c : Nat) : Stack :=
  if k.passLeft = 0 then k
  else if k.starved then k.count sStall c
  else Stack.runGroups k.passLeft k now (some c)

/-! Publication, triggers, step close and rollback. -/

/-- The trigger of a binding finished. -/
def Bind.done (b : Bind) : Bind := { b with trig := none }

/-- Publication (R267): the next version, the slot, LAST_STEP and ROLLBACK_OK. -/
def Bind.publish (b : Bind) (step : Nat) (rbOk : Bool) : Bind :=
  { b with pubVer := (b.pubVer + 1) % 2 ^ 32, slot := if b.split then 0 else 1 - b.slot, writing := false,
           prev := b.last, last := step, rbOk := rbOk, trig := none }

/-- A step number's trigger is held while it lies above CLOSED_STEP + 1 (R282). -/
def Sue.heldT (s : Sue) (t : Trig) : Bool := decide (t.step > s.closed + 1)

/-- The SUE accepts a trigger word written for a binding (R281, R282, R303). -/
def Stack.trigger (k : Stack) (now pol : Nat) (l w : Nat) : Stack :=
  match k.sue.bind l with
  | none => k
  | some b =>
    let step := bits w 0 32
    let nf := bit w 63
    if b.faulted then k
    else if step = 0xFFFFFFFF || step ≤ b.last || step ≤ k.sue.closed then k.ev 0x0305 (l + step * 65536) 0
    else
      match b.trig with
      | some _ => (k.ev 0x0301 l 0).updBind l (fun b => { b with faulted := true })
      | none =>
        let dl := if b.dlTicks = 0 || !(bit pol 1) then none else some ((now + b.dlTicks) % 2 ^ 64)
        let s := k.sue.updBind l (fun b => { b with trig := some ⟨step, nf, dl, .queued, false, false⟩ })
        { k with sue := { s with
            queue := s.queue ++ [l]
            nfSteps := if nf then dedup (s.nfSteps ++ [step]) else s.nfSteps } }

/-- The SUE accepts a write of its step word (R303, R305). -/
def Stack.stepWord (k : Stack) (w : Nat) : Stack :=
  let step := bits w 0 32
  if step = 0xFFFFFFFF || step ≠ k.sue.closed + 1 || k.sue.closing.isSome then k.ev 0x0306 step 0
  else { k with sue := { k.sue with closing := some (step, bit w 63) } }

/-- What the SUE hears of a write that the buffer has accepted: the words of its own that it covers whole (R237, R281, R305). -/
def Stack.heard (k : Stack) (now pol off : Nat) (bs : List PByte) : Stack :=
  let word (o : Nat) : Option Nat :=
    if off ≤ o && o + 8 ≤ off + bs.length then some (ofLE (((bs.drop (o - off)).take 8).map Prod.fst)) else none
  let k2 := k.sue.binds.foldl (fun kk b => match word b.trigOff with
    | some w => kk.trigger now pol b.layer w
    | none => kk) k
  match k.sue.stepOff with
  | some o => (match word o with | some w => k2.stepWord w | none => k2)
  | none => k2

/-- A write accepted by the buffer (R237, R281, R305). -/
def Stack.store (k : Stack) (now pol off : Nat) (bs : List PByte) : Stack := (k.put now false off bs).heard now pol off bs

/-- A pass under way abandoned at a group boundary and put back (R286, R488 item 4). -/
def Stack.abandonPass (k : Stack) (now : Nat) : Stack :=
  match k.sue.pass with
  | none => k
  | some p =>
    let k0 : Stack := { k with sue := { k.sue with pass := none } }
    match k0.sue.bind p.layer with
    | none => k0
    | some b => (k0.undo now b p.elems p.jFill p.jOver p.bads).updBind p.layer (fun b => { b with trig := none, writing := false })

/-- What the unpublished update of a binding wrote is put back: its pass under way, or its finished pass that waits for its
all-gather (R268, R286). -/
def Stack.unwrite (k : Stack) (now : Nat) (b : Bind) : Stack :=
  match k.sue.pass.filter (fun p => p.layer == b.layer) with
  | some _ => k.abandonPass now
  | none =>
    match b.trig with
    | some t => if t.phase = .gather then k.undo now b b.elems b.jFill b.jOver [] else k
    | none => k

/-- An update abandoned (R269, R359): nothing is published, what it wrote in place is put back, and the statistics record takes
OUTCOME 3. -/
def Stack.abandon (k : Stack) (now l : Nat) : Stack :=
  match k.sue.bind l with
  | none => k
  | some b =>
    match b.trig with
    | none => k
    | some t =>
      let k1 := (k.unwrite now b).writeStats now b (statsRec 0 0 0 t.step 0 0 0 3)
      { k1 with sue := { k1.sue.updBind l (fun b => { b with trig := none, writing := false }) with
          queue := k1.sue.queue.filter (fun x => x != l) } }

/-- Serving the next eligible trigger (R283, R284 steps 1 and 2, R304). -/
def Stack.passStart (k : Stack) (now : Nat) : Stack :=
  if k.sue.pass.isSome then k
  else
    match k.sue.queue.find? (fun l => match k.sue.bind l with
        | some b => (match b.trig with | some t => !(k.sue.heldT t) && !b.rolling | none => false)
        | none => false) with
    | none => k
    | some l =>
      match k.sue.bind l with
      | none => k
      | some b =>
        match b.trig with
        | none => k
        | some t =>
          let s1 : Sue := { k.sue with queue := k.sue.queue.filter (fun x => x != l) }
          let rows := if b.rowsL then k.touched b else []
          let k0 : Stack := { k with sue := s1 }
          let k1 := if b.rowsL then k0.sueRead now b.bitmap (cdiv (b.elems / b.rowLen) 8) else k0
          if t.nf then
            let k2 := rows.foldl (fun kk r => (kk.setTouch now 3 b r false).zeroGrad now b
              ((List.range b.rowLen).map (fun j => r * b.rowLen + j))) k1
            (((k2.writeStats now b (statsRec 0 0 0 t.step 0 0 0 1)).updBind l Bind.done).count sSkip 1)
          else if b.pins b.nextSlot ≠ 0 then
            k0.updBind l (fun b => { b with trig := some { t with phase := .waiting } })
          else
            let rl := match k.sue.rule b.ruleNo with | some r => r.l | none => 0
            let z := List.replicate 1024 0
            let p : Pass := ⟨l, t.step, 0, 64 + rl, rows, z, z, z, 0, 0, 0, 0, false, []⟩
            { k1 with sue := { s1.updBind l (fun b => { b with writing := true, trig := some { t with phase := .running } })
                with pass := some p, lanes := seedLanes 1024 (b.seed ^^^ t.step) } }

/-- The pass finished: its last groups, its statistics and its publication (R284, R268, R481). -/
def Stack.passEnd (k0 : Stack) (now : Nat) : Stack :=
  let k := Stack.runGroups k0.passLeft k0 now none
  match k.sue.pass with
  | none => k
  | some p =>
    match k.sue.bind p.layer with
    | none => { k with sue := { k.sue with pass := none } }
    | some b =>
      let out := if p.bads.isEmpty then 0 else 3
      let k1 := k.writeStats now b
        (statsRec (pairSum 11 p.ssqW) (pairSum 11 p.ssqG) (pairSum 11 p.ssqU) p.step p.elems p.nfG p.poisG out)
      let k2 : Stack := { k1 with sue := { k1.sue with pass := none } }
      match p.bads.head? with
      | some w =>
        ((k2.undo now b p.elems p.jFill p.jOver p.bads).ev 0x0304 (p.layer + 32 * w * 65536) 0).updBind p.layer
          (fun b => { b with writing := false, trig := none, faulted := true })
      | none =>
        let k3 := k2.updBind p.layer (fun b => { b with jFill := p.jFill, jOver := p.jOver })
        if b.gatherB then k3.updBind p.layer (fun b => { b with trig := b.trig.map (fun t => { t with phase := .gather }) })
        else (k3.updBind p.layer (fun b => b.publish p.step (!p.jOver))).count sPass 1

/-- Publication of a gathered binding when its all-gather completes (R268, R359). -/
def Stack.gathered (k : Stack) (l : Nat) : Stack :=
  match k.sue.bind l with
  | none => k
  | some b =>
    match b.trig with
    | some t => if t.phase = .gather then (k.updBind l (fun b => b.publish t.step (!b.jOver))).count sPass 1 else k
    | none => k

/-- A rollback of one binding (R308, R309): LOST where its ROLLBACK_OK is clear. -/
def Stack.rollback (k : Stack) (now l : Nat) : Stack :=
  match k.sue.bind l with
  | none => k
  | some b =>
    if !b.rbOk then (k.ev 0x0302 l 0).updBind l (fun b => { b with faulted := true })
    else
      let k1 := k.restore now b b.elems b.jFill []
      let old := k1.num b.statsOff 64
      let k2 := (k1.sueRead now b.statsOff 64).writeStats now b (old - bits old 182 2 * 2 ^ 182 + 2 * 2 ^ 182)
      let k3 := (k2.ev 0x0308 (l + b.pins b.slot * 65536) 0).count sRollbacks 1
      k3.updBind l (fun b => { b with
        pubVer := (b.pubVer + 2 ^ 32 - 1) % 2 ^ 32
        slot := if b.split then 0 else 1 - b.slot
        last := b.prev, rbOk := false
        writing := b.split, rolling := b.split })

/-- A split or rows rollback has rewritten its bytes (R307). -/
def Stack.rollbackDone (k : Stack) (l : Nat) : Stack :=
  k.updBind l (fun b => if b.rolling then { b with rolling := false, writing := false } else b)

/-- The loss scale as FP32. -/
def Sue.scaleCode (s : Sue) : Nat := rn32 (.bin false 1 s.e)

/-- The scale after a step (R305, items 2 and 3): the SUE, and whether it stopped at a limit. -/
def Sue.rescale (s : Sue) (nf : Bool) : Sue × Bool :=
  if s.mode = 0 then (s, false)
  else if nf then
    ({ s with e := if s.e > s.emin then s.e - 1 else s.e, clean := 0 }, decide (s.e ≤ s.emin))
  else if s.clean + 1 ≥ s.grow then
    ({ s with e := if s.e < s.emax then s.e + 1 else s.e, clean := 0 }, decide (s.e ≥ s.emax))
  else ({ s with clean := s.clean + 1 }, false)

/-- Is the step being closed free of unfinished triggers (R305, item 1)? -/
def Sue.canClose (s : Sue) : Bool :=
  match s.closing with
  | none => false
  | some (step, _) => !(s.binds.any (fun b => match b.trig with | some t => decide (t.step ≤ step) | none => false))

/-- The step closed (R305, R301). `forced` says that the slice has more than 512 parts. -/
def Stack.close (k : Stack) (now : Nat) (forced : Bool) : Stack :=
  match k.sue.closing with
  | none => k
  | some (step, nf) =>
    if !k.sue.canClose then k
    else
      let k0 := if forced && k.sue.mode = 1 then ({ k with sue := { k.sue with mode := 0 } }).ev 0x030A 0 0 else k
      let k1 := if nf then
          ((k0.sue.binds.filter (fun b => b.last == step && b.last != b.prev)).map Bind.layer).foldl
            (fun kk l => kk.rollback now l) k0
        else k0
      let (s, lim) := k1.sue.rescale nf
      let k2 : Stack := { k1 with sue := { s with
        closed := step, closing := none, nfSteps := s.nfSteps.filter (fun x => decide (x > step)) } }
      let k3 := if lim then k2.ev 0x0309 k2.sue.scaleCode 0 else k2
      match k3.sue.scaleOff with
      | none => k3
      | some o => k3.put now true o ((toLE 8 (k3.sue.scaleCode * 2 ^ 32 + (step + 1))).map (fun x => (x, false)))

/-- What a core-die reset does to an SUE (R44, R262, R286): every unpublished update is put back, and the lanes are seeded with
SEED = 0. -/
def Stack.sueCoreReset (k : Stack) (now : Nat) : Stack :=
  let k1 := k.sue.binds.foldl (fun kk b => kk.unwrite now b) k
  { k1 with sue := { k1.sue with
      queue := []
      lanes := seedLanes 1024 0
      binds := k1.sue.binds.map (fun b => { b with
        pin0 := 0, pin1 := 0, writing := false, rolling := false, trig := none }) } }

/-- Every update not finished abandoned, with OUTCOME 3 (R488 item 4). -/
def Stack.sueDrop (k : Stack) (now : Nat) : Stack :=
  let k2 := (k.sue.binds.filter (fun b => b.trig.isSome)).foldl (fun kk b => kk.abandon now b.layer) k
  { k2 with sue := { k2.sue with queue := [] } }

/-- What a slice stop does to an SUE (R488 item 4, R491): one whose part has contributed to the closing of its next step
closes it, with the flag of that contribution; any other rolls back. -/
def Stack.sueStop (k : Stack) (now : Nat) (contrib : Option (Nat × Bool)) : Stack :=
  let k2 := k.sueDrop now
  match contrib.filter (fun c => c.1 == k.sue.closed + 1) with
  | some c => { k2 with sue := { k2.sue with closing := match k2.sue.closing with | some x => some x | none => some c } }
  | none =>
    let k3 : Stack := { k2 with sue := { k2.sue with closing := none } }
    (k3.sue.binds.filter (fun b => decide (b.last > k3.sue.closed) && b.last != b.initStep)).foldl
      (fun kk b => kk.rollback now b.layer) k3

/-! Checks made when a rule is loaded or a layer bound (R278, R294). -/

/-- Does a program's data flow meet R294 for a list of streams? `raw` gives each written register's format where raw. -/
def ruleFlow (strs : List Nat) : List Nat → List (Nat × Option Fmt) → Bool
  | [], _ => true
  | w :: ws, regs =>
    let reg (r : Nat) : Option (Option Fmt) := (regs.find? (fun x => x.1 == r)).map Prod.snd
    let num (c : Nat) : Bool := if c < 16 then reg c == some none else decide (c ≤ 36)
    let put (v : Option Fmt) : List (Nat × Option Fmt) := (rD w, v) :: regs.filter (fun x => x.1 != rD w)
    let s := strs.getD (rX w) 0
    let opc := rOpc w
    if opc = 0x18 then stReads s && ruleFlow strs ws (put (if (fmtX (stFmt s)).isSome then some (stFmt s) else none))
    else if opc = 0x19 then
      stWrites s && (match fmtX (stFmt s) with
        | some _ => decide (rA w < 16) && reg (rA w) == some (some (stFmt s))
        | none => num (rA w)) && ruleFlow strs ws regs
    else if opc = 0x10 then
      decide (rA w < 16) && (match reg (rA w) with | some (some _) => true | _ => false) && ruleFlow strs ws (put none)
    else if opc = 0x11 then
      num (rA w) && (match xFmt (rX w) with | some f => ruleFlow strs ws (put (some f)) | none => false)
    else if opc = 0x0D then num (rA w) && ruleFlow strs ws (put none)
    else if 1 ≤ opc && opc ≤ 12 then
      let two := opc ≤ 3 || opc = 7 || opc = 8
      let three := opc = 4 || opc = 11 || opc = 12
      num (rA w) && (!(two || three) || num (rB w)) && (!three || num (rC w)) && ruleFlow strs ws (put none)
    else false

/-- R294 whole: flow, and one LDS and one STS where a stream needs them. -/
def ruleOk (r : Rule) (strs : List Nat) : Bool :=
  let ws := r.words.take r.l
  let uses (opc i : Nat) : Nat := (ws.filter (fun w => rOpc w == opc && rX w == i)).length
  ruleFlow strs ws [] && (List.range 8).all (fun i =>
    let s := strs.getD i 0
    (!(stReads s) || uses 0x18 i == 1) && (!(stWrites s) || uses 0x19 i == 1))

/-- The extents of a binding (R278, item 2): (offset, bytes). -/
def Bind.extents (b : Bind) : List (Nat × Nat) :=
  let e := b.elems
  let rows := e / b.rowLen
  let one (s : Nat) : List (Nat × Nat) :=
    let hs := if b.layout = 0 && (stKind s = 1 || stKind s = 2) then [0, 1] else [0]
    if stMaster s && b.split then [(stAddr s, 2 * e), (stAux s, 2 * e)]
    else hs.flatMap (fun h =>
      (stAddr s + b.shift s h, stW s * e) ::
        (if (stFmt s).scaled then [(stAux s + b.shift s h, cdiv e 32)] else []))
  (b.strs.filter stUsed).flatMap one ++ [(b.trigOff, 8), (b.statsOff, 64)]
    ++ (if b.layout = 1 then [(b.hist, b.histBytes b.elems)] else [])
    ++ (if b.layout = 2 then [(b.hist, b.hsize), (b.bitmap, cdiv rows 8), (b.rowstep, 4 * rows)] else [])

def apart (a b : Nat × Nat) : Bool := decide (a.1 + a.2 ≤ b.1) || decide (b.1 + b.2 ≤ a.1)

def allApart : List (Nat × Nat) → Bool
  | [] => true
  | x :: xs => xs.all (apart x) && allApart xs

/-- The formats a stream's kind takes (R278, items 5, 6 and 10). -/
def stFmtOk (b : Bind) (s : Nat) : Bool :=
  match Fmt.ofCode (stFmtC s) with
  | none => false
  | some f =>
    if stKind s = 3 then f == .fp32 || (b.rowsL && f == .bf16)
    else if stMaster s then f == .fp32
    else if stKind s = 2 then stFmtC s == b.wfmt && [8, 3, 5, 1].contains b.wfmt
    else f == .fp32 || f == .bf16 || (fmtX f).isSome

/-- R278 but for items 1 and 9: is the descriptor good, beside the extents of the other bindings? -/
def Bind.ok (b : Bind) (others : List (Nat × Nat)) : Bool :=
  let used := b.strs.filter stUsed
  let ext := b.extents
  let work := used.filter (fun s => stKind s == 2)
  let grads := used.filter (fun s => stKind s == 3)
  let masters := used.filter stMaster
  ext.all (fun x => decide (x.1 + x.2 ≤ stackBytes))
    && allApart ext && ext.all (fun x => others.all (apart x))
    && b.layout ≠ 3 && !(b.split && b.overlapB)
    && grads.length == 1 && grads.all (fun s => stDir s == 1)
    && masters.length == 1 && masters.all (fun s => stKind s == 1 && stDir s == 3)
    && (if b.layout = 0 then !work.isEmpty else work.isEmpty)
    && (!(work.any (fun s => (stFmt s).scaled)) || b.rowLen % 32 == 0)
    && (!b.rowsL || (b.rowLen % 32 == 0 && b.elems % b.rowLen == 0))
    && used.all (stFmtOk b)
    && used.all (fun s => stAddr s % 256 == 0) && b.trigOff % 8 == 0 && b.statsOff % 64 == 0
    && decide (1 ≤ b.elems) && decide (b.elems ≤ 2 ^ 34)

/-- A binding from the 192 bytes of its descriptor (R277). -/
def Bind.ofBytes (bs : List Byte) : Bind :=
  let hd := ofLE (bs.take 64)
  { layer := bits hd 496 16, hd := hd
    strs := (List.range 8).map (fun i => fld bs (64 + 16 * i) 16)
    pubVer := 0, pin0 := 0, pin1 := 0, slot := 0, writing := false
    last := bits hd 84 32, prev := bits hd 84 32, rbOk := false, trig := none, faulted := false, rolling := false
    jFill := 0, jOver := false }

end Sys2Proof.Machine
end

