-- ==== Sys2Proof/Machine/Ops.lean ====
section
/-! DEFINITION. Named operations over the whole machine: units, events, issue, block faults, the end of a block's run. -/

namespace Sys2Proof.Machine

abbrev Res := Host.Outcome State Fault Refusal

/-- A command that names a unit: a fault where the part has no such unit, else the next state. -/
def onUnit (ok : Bool) (t : State) : Res := if ok then .next t else .fault .noSuchUnit

/-- What a unit of the part does by itself: nothing once the reference clock has stopped, and with it the whole part (R24, R441). -/
def onPart (s : State) (ok : Bool) (t : State) : Res := onUnit ok (if s.pwr.stopped then s else t)

/-- STC integer (R362). -/
def State.now (s : State) : Nat := s.time.stc / 2 ^ 32 % 2 ^ 64

def State.block (s : State) (n : Nat) : Block := s.blocks.getD n Block.reset
def State.region (s : State) (r : Nat) : Region := s.regions.getD r Region.reset
def State.stack (s : State) (n : Nat) : Stack := s.stks.getD n Stack.reset
def State.endp (s : State) (d : Nat) : Endp := s.fab.endps.getD d Endp.reset
def State.acu (s : State) (a : Nat) : Acu := s.fab.acus.getD a Acu.reset
def State.updBlock (s : State) (n : Nat) (f : Block → Block) : State := { s with blocks := updAt s.blocks n f }
def State.updStack (s : State) (n : Nat) (f : Stack → Stack) : State := { s with stks := updAt s.stks n f }
def State.updRegion (s : State) (r : Nat) (f : Region → Region) : State := { s with regions := updAt s.regions r f }
def State.setFab (s : State) (f : FabS) : State := { s with fab := f }
def State.updEndp (s : State) (d : Nat) (f : Endp → Endp) : State :=
  { s with fab := { s.fab with endps := updAt s.fab.endps d f } }
def State.updAcu (s : State) (a : Nat) (f : Acu → Acu) : State :=
  { s with fab := { s.fab with acus := updAt s.fab.acus a f } }
def State.updLink (s : State) (l : Nat) (f : Link → Link) : State := { s with fab := s.fab.updLink l f }

/-! Events (R20, R478, R485). -/

/-- Levels of Table 14-8. -/
def lvBlock := 1
def lvRegion := 2
def lvChip := 3
def lvStack := 4
def lvLink := 5
def lvEndp := 6
def lvThallus := 7
def lvHost := 8

/-- An event found by a unit and forwarded to Thallus; during a Thallus restart Crust holds the first 64 and counts the
rest (R485). -/
def State.emit (s : State) (code level unit info detail : Nat) : State :=
  let e : Ev := ⟨code, level, unit, info, detail, s.now⟩
  if s.boot.restart || s.boot.halted then
    if s.boot.heldEv.length < 64 then { s with boot := { s.boot with heldEv := s.boot.heldEv ++ [e] } }
    else { s with host := { s.host with ovf := min cntMax (s.host.ovf + 1), evseq := s.host.evseq + 1 } }
  else { s with events := s.events ++ [e] }

def State.emits (s : State) (level unit : Nat) (es : List (Nat × Nat × Nat)) : State :=
  es.foldl (fun t e => t.emit e.1 level unit e.2.1 e.2.2) s

/-- A unit put back, the events it found forwarded. -/
def State.putBlock (s : State) (n : Nat) (b : Block) : State :=
  ({ s with blocks := s.blocks.set n { b with evs := [] } }).emits lvBlock n b.evs

def State.putRegion (s : State) (n : Nat) (r : Region) : State :=
  ({ s with regions := s.regions.set n { r with evs := [] } }).emits lvRegion n r.evs

/-- DETAIL byte 0 of a stack's UNCORRECTABLE comes with its event (R504). -/
def State.putStack (s : State) (n : Nat) (k : Stack) : State :=
  ({ s with stks := s.stks.set n { k with evs := [] } }).emits lvStack n k.evs

/-! What runs. -/

/-- BLOCK_CLK cycles in one CRUST_CLK cycle, rounded down (Tables 16-1, 16-2, log entry 70). -/
def PwrS.blockCycles (p : PwrS) : Nat := bits p.clkRec 48 8 / bits p.clkRec 40 4

/-- Does the core die run: power good, Crust started, not held in reset? -/
def State.coreUp (s : State) : Bool := s.pwr.crust && !s.pwr.stopped && s.pwr.core.isNone

/-- Thallus serves events: it runs and is not restarting (R485). -/
def State.thallusUp (s : State) : Bool :=
  s.coreUp && !s.boot.halted && !s.boot.restart && !s.pwr.clkOff && decide (s.boot.boot ≥ 2)
    && decide (s.boot.boot < 14) && decide (s.pwr.chip ≥ 1)

/-- May blocks and SUEs issue (R452, R455)? -/
def State.issueOn (s : State) : Bool := s.coreUp && s.pwr.pause.isNone && !s.pwr.clkOff

/-- A block's clock runs (R23, R446). -/
def State.clockOn (s : State) (n : Nat) : Bool :=
  match (s.region (n / 36)).st with
  | .run => true
  | .armed => (s.block n).clk == .running
  | _ => false

/-- May a block issue (R166, R167, R170, R452)? -/
def State.canIssue (s : State) (n : Nat) : Bool :=
  let b := s.block n
  s.issueOn && s.clockOn n && b.st == .running && !b.stopping

/-- A request to a block or store of a region: served, waiting for a move between RETAIN and ARMED, or refused (R24, R445). -/
inductive Gate
  | ok | wait | refused
  deriving DecidableEq, Repr

def State.regionGate (s : State) (r : Nat) : Gate :=
  let g := s.region r
  match g.st, g.move with
  | .retain, some (.armed, _) => .wait
  | .armed, some (.retain, _) => .wait
  | .off, _ => .refused
  | .retain, _ => .refused
  | _, _ => .ok

/-- A request to a stack (R24, R447, R468). -/
def State.stackGate (s : State) (n : Nat) : Gate :=
  match (s.stack n).st with
  | .active => .ok
  | .untrained => .refused
  | .failed => .refused
  | _ => .wait

/-- A request wakes a stack that is in self refresh (R24, R447): 4 µs. -/
def State.wakeStack (s : State) (n : Nat) : State :=
  let k := s.stack n
  if k.st = .selfRefresh then s.updStack n (fun k => { k with st := .waking, wake := s.now + 400, byReq := true }) else s

/-! The end of a run, and faults of a block. -/

/-- Every pin of a block released (R264, R270). -/
def Block.releaseAll (b : Block) : Block :=
  let rs := (b.pins.filter Pin.pinned).map (fun p => ({ h := p.h, layer := p.layer, slot := p.slot, after := [] } : PinRel))
  { b with rels := b.rels ++ rs, pins := b.pins.filter (fun p => !p.pinned && p.pending) }

/-- Has a block nothing issued and incomplete, and no answer to await (R166, R167, R220, R271)? -/
def Block.quiet (b : Block) : Bool := b.jobs.isEmpty && b.pinq.isEmpty

/-- FLT_CLEAR of a FAULTED block: it goes to STOPPED and releases its pins (R164, R270), once every pin request of it has been
answered (R271; log entry 131). -/
def Block.clearFault (b : Block) : Block :=
  if b.st ≠ .faulted then b
  else if !b.pinq.isEmpty then { b with clearing := true }
  else { b.releaseAll with st := .stopped, fault := 0, clearing := false }

/-- Issue stopped in a block (R167), its loop stacks emptied (R225). -/
def Block.stop (b : Block) : Block :=
  { b with stopping := true, seqA := { b.seqA with loops := [] }, seqF := { b.seqF with loops := [] }, seqB := { b.seqB with loops := [] } }

/-- A block that has ended or been drained enters DONE or STOPPED (R166, R167), and releases its pins. -/
def State.checkDone (s : State) (n : Nat) : State :=
  let b := s.block n
  if b.st = .running && b.quiet then
    if b.stopping then
      s.updBlock n (fun b => { b.releaseAll with st := .stopped, stopping := false, idle := 0
                                                 seqA := { b.seqA with word := none }
                                                 seqF := { b.seqF with word := none }, seqB := { b.seqB with word := none } })
    else if b.ended .a && b.ended .f && b.ended .b then
      (s.updBlock n (fun b => { b.releaseAll with st := .done, idle := 0 })).emit 0x0105 lvBlock n 0 0
    else s
  else if b.clearing then s.updBlock n Block.clearFault
  else s

/-- Issue stopped in a RUNNING block (R167). -/
def State.stopBlock (s : State) (n : Nat) : State :=
  if (s.block n).st = .running then (s.updBlock n Block.stop).checkDone n else s

/-- INFO of a block fault record (Table 18-7). -/
def faultInfo (e : ErrI) : Nat := e.sub % 256 * 2 ^ 56 + e.handle % 256 * 2 ^ 48 + e.arg % 2 ^ 48

/-- First 8 bytes of its DETAIL. -/
def faultDetail (e : ErrI) (src pc : Nat) : Nat :=
  e.spec % 2 ^ 32 * 2 ^ 32 + e.node % 65536 * 65536 + src % 4 * 16384 + (if src = 3 then 0 else pc % 4096)

/-- A block stopped by a fault and fenced (R486): nothing more is issued, and what was issued and not complete is
discarded. Tiles, queues and pins stay. -/
def Block.fence (b : Block) (code : Nat) : Block :=
  { b with st := .faulted, stopping := false, fault := code, jobs := [], fences := [], slabs := [], packed := []
           drains := [], loading := none, idle := 0, wd := 0
           seqA := { b.seqA with word := none }, seqF := { b.seqF with word := none }, seqB := { b.seqB with word := none } }

/-- A fault that stops a block (R486, R502), whatever its state but FAULTED. -/
def State.stopFault (s : State) (n src pc : Nat) (e : ErrI) : State :=
  let b := s.block n
  if b.st = .faulted then s
  else
    let info := faultInfo e
    let det := faultDetail e src pc
    let b1 := { b.fence e.code with
      lastFault := some (e.code, info, det), rowMiss := if e.code = 0x15 then e.aux else b.rowMiss }
    (s.putBlock n { b1 with evs := b.evs }).emit e.code lvBlock n info det

/-- A fault of a block's own work: only a RUNNING or draining block takes it. -/
def State.blockFault (s : State) (n src pc : Nat) (e : ErrI) : State :=
  if (s.block n).st = .running then s.stopFault n src pc e else s

/-- A fault raised for an instruction in flight. -/
def State.jobFault (s : State) (n : Nat) (j : Job) (e : ErrI) : State := s.blockFault n (srcOf j.seq) j.pc e

/-! Issue. -/

/-- Handles of LOCAL operands that an instruction word can touch, the index tensor of an indexed source and a second output
among them. -/
def Block.namedHandles (b : Block) (q : Seq) (w : Nat) : List Nat :=
  let spec (v : Nat) : List Nat := if spKind v = 1 || spKind v = 4 || spKind v = 5 then [spVal v] else []
  let idx (h : Nat) : List Nat := if fIdxEn.get (b.desc h) = 1 then [fIdx.get (b.desc h)] else []
  match opOf q w with
  | .ld | .st => [bits w 37 8, bits w 29 8]
  | .gth => [bits w 37 8, bits w 29 8] ++ idx (bits w 37 8) ++ idx (bits w 29 8)
  | .sca => [bits w 38 8, bits w 30 8, bits w 22 8] ++ idx (bits w 38 8)
  | .coll => [bits w 24 8, bits w 16 8]
  | .bld => [bits w 41 8]
  | .spl => [bits w 17 8]
  | .rsm => [bits w 30 8]
  | .qPush | .qPop => [bits w 38 8]
  | .cvt => spec (bits w 38 11) ++ spec (bits w 27 11)
  | .vop k _ =>
    if k = 27 then spec (accF w).a ++ [(accF w).out, ((accF w).out + 1) % 256, ((accF w).out + 2) % 256]
    else spec (bits w 38 11) ++ spec (bits w 27 11) ++ spec (bits w 16 11) ++ spec (bits w 5 11)
  | .mm _ => [(mmF w).bh, (mmF w).out, ((mmF w).out + 1) % 256]
  | .row _ => [bits w 40 8, (bits w 40 8 + 1) % 256, bits w 31 8, bits w 23 8, bits w 15 8]
  | _ => []

/-- First byte of the secure partition (R153). -/
def secBase : Nat := 0x1C0000

def inSecure (off len : Nat) : Bool := decide (off + len > secBase)

/-- Must an instruction wait for the wipe of the secure partition (R155)? -/
def Block.waitsWipe (b : Block) (q : Seq) (w : Nat) : Bool :=
  b.wiping &&
    ((b.namedHandles q w).any (fun h => let d := b.desc h
        dSpace d == 0 && dRank d != 0 && (dRuns d).any (fun r => inSecure r.1 r.2))
      || b.qs.any (fun c => c.cfg.en && inSecure c.cfg.base (512 * c.cfg.size)))

/-- What the waiting X-stream word of a sequence comes to at issue. -/
def Block.tryX (b : Block) (self now : Nat) (c : Ctx) (w : Nat) : Iss Block :=
  let q := seqOf c
  match opOf q w with
  | .mm _ => b.issueMM q c w now
  | .bld => b.issueBld q w
  | .swp => b.issueSwp q w
  | .spl => b.issueSpl q c w
  | .rsm => b.issueRsm q c w
  | .cvt => b.issueCvt q w
  | .qPush => b.issueQPush q w
  | .qPop => b.issueQPop q w
  | .vop 27 _ => b.issueAcc q c w
  | .vop 28 _ => b.issueMset q w
  | .vop k bf => b.issueVop q w k bf
  | .row k => b.issueRow q w k
  | .loop => b.issueLoop q w
  | .tokWait => b.issueTokWait q w
  | .tokSig => (b.issueTokSig self q w).bind (fun x => .go x.1)
  | .ctxMark => b.issueMark q w
  | _ => .hold

/-- Is context B's instruction ready, so that it takes the X-stream's issue slot (R19, R170)? -/
def State.bReady (s : State) (n : Nat) : Bool :=
  let b := s.block n
  match b.seqB.word with
  | none => false
  | some w => !(b.waitsWipe .b w) && !(b.tryX n s.now .b w).waits

/-- May a sequence of a block issue: the block may, and context F only where B has nothing ready (R19, R170). -/
def State.mayIssue (s : State) (n : Nat) (q : Seq) : Bool := s.canIssue n && !(q == .f && s.bReady n)

/-- The waiting word of a sequence issues, if it is the instruction asked for and the block may issue (R169, R170). The slots that
a missing lookup read are recorded with its fault (R142). -/
def State.issue (s : State) (n : Nat) (q : Seq) (isW : Nat → Bool) (f : Block → Nat → Iss Block) : State :=
  let b := s.block n
  match (b.seqr q).word with
  | none => s
  | some w =>
    if s.mayIssue n q && isW w && !(b.waitsWipe q w) then
      match f b w with
      | .hold => s
      | .fault e => (if e.reads.isEmpty then s else s.putBlock n (b.touchSlots e.reads)).blockFault n (srcOf q) (b.seqr q).pc e
      | .go b1 => (s.putBlock n { b1 with wd := 0 }).checkDone n
    else s

/-- Is a block's array disabled (R91, R404)? -/
def State.vecBlock (s : State) (n : Nat) : Bool := bit s.sec.vmap n

/-! Deadlines (R368, R369). -/

/-- A deadline record (Table 13-8). -/
def State.dlRec (s : State) (dl kind axis : Nat) (late : List Nat) (subject : Nat) : Nat :=
  let l4 := (late.take 4) ++ List.replicate (4 - min 4 late.length) 0xFFFF
  dl % 2 ^ 64 * 2 ^ 192 + s.now * 2 ^ 128 + s.fab.node * 2 ^ 112 + kind * 2 ^ 108 + axis * 2 ^ 105
    + min 4 late.length * 2 ^ 102 + b2n (decide (late.length > 4)) * 2 ^ 101 + b2n (s.time.state != 2) * 2 ^ 100
    + subject % 2 ^ 32 * 2 ^ 64 + (l4.zip (List.range 4)).foldl (fun a x => a + x.1 % 65536 * 65536 ^ x.2) 0

/-- Is a deadline kind enabled (R371)? -/
def State.dlOn (s : State) (k : Nat) : Bool := bit s.time.policy k

/-- A free value (Config.free), and the counter of those drawn advanced. -/
def State.draw (s : State) : Nat × State := (Config.free s.freeN, { s with freeN := s.freeN + 1 })

end Sys2Proof.Machine
end

