-- ==== Sys2Proof/Machine/Msg.lean ====
section
/-! DEFINITION. Packets and messages: their bytes and check, address blocks, and how a unit gives them to an endpoint
(R324 to R326, R332). -/

namespace Sys2Proof.Machine

/-- Packet types (Table 12-5). -/
def tWR := 0x01
def tRD := 0x02
def tSCA := 0x03
def tSCAR := 0x04
def tRESP := 0x08
def tERR := 0x09
def tACK := 0x0C
def tCOLL := 0x10
def tCAST := 0x11
def tCTRL := 0x18

/-- The virtual channel of a type (Table 12-5), none for a reserved one. -/
def vcOf (t : Nat) : Option Nat :=
  if 1 ≤ t && t ≤ 4 then some 0
  else if t = tRESP || t = tERR || t = tACK then some 1
  else if t = tCOLL || t = tCAST then some 2
  else if t = tCTRL then some 3
  else none

/-- A packet's header as a number (Table 12-4). -/
def pktHeader (p : Packet) : Nat :=
  p.dst % 65536 * 2 ^ 80 + p.src % 65536 * 2 ^ 64 + p.slice % 256 * 2 ^ 56 + p.vc % 4 * 2 ^ 54 + p.typ % 64 * 2 ^ 48
    + b2n p.first * 2 ^ 47 + b2n p.last * 2 ^ 46 + p.len % 64 * 2 ^ 40 + p.tag % 65536 * 2 ^ 24 + p.seq % 2 ^ 24

/-- Bytes 0 to 75 of a packet (R324). -/
def pktBody (p : Packet) : List Byte := toLE 12 (pktHeader p) ++ fitTo 64 p.payload

def pktSum (p : Packet) : Nat := crc32c (pktBody p)

/-- Does the end-to-end check pass (R324)? -/
def pktOk (p : Packet) : Bool := p.crc == pktSum p

/-- Valid payload bytes. -/
def pktData (p : Packet) : List Byte := (fitTo 64 p.payload).take (p.len + 1)

/-- An address block (Table 12-6). -/
def addrBlock (n op fmt : Nat) (sat : Bool) (isp stk addr : Nat) : List Byte :=
  toLE 16 ((n - 1) % 4096 * 2 ^ 64 + op % 4 * 2 ^ 60 + fmt % 16 * 2 ^ 56 + b2n sat * 2 ^ 55 + isp % 8 * 2 ^ 52
    + stk % 16 * 2 ^ 48 + addr % 2 ^ 48)

/-- Payloads of a message: the address block and 48 bytes, then 64 bytes a packet (R326). -/
def payloads (ab : Option (List Byte)) (data : List Byte) : List (List Byte) :=
  match ab with
  | some a => (a ++ data.take 48) :: chunks 64 (data.drop 48)
  | none => if data.isEmpty then [[]] else chunks 64 data

/-- A message to a node, its packets not yet numbered. -/
def FabS.msg (f : FabS) (node typ tag : Nat) (ab : Option (List Byte)) (data : List Byte) : List Packet :=
  let ps := payloads ab data
  let n := ps.length
  ((List.range n).zip ps).map (fun ip =>
    { dst := node, src := f.node, slice := f.slice, vc := (vcOf typ).getD 0, typ := typ, first := ip.1 == 0
      last := ip.1 + 1 == n, len := ip.2.length - 1, tag := tag, seq := 0, payload := ip.2, crc := 0 })

/-- A packet of one payload. -/
def FabS.one (f : FabS) (node typ tag : Nat) (data : List Byte) : Packet :=
  { dst := node, src := f.node, slice := f.slice, vc := (vcOf typ).getD 0, typ := typ, first := true, last := true
    len := 63, tag := tag, seq := 0, payload := fitTo 64 data, crc := 0 }

/-- Packets given to the endpoint that serves a node (R332), oldest first. -/
def State.send (s : State) (node : Nat) (o : Orig) (ps : List Packet) : State :=
  s.updEndp (node % 2) (fun e => { e with outq := e.outq ++ ps.map (fun p => (p, o)) })

/-- A byte extent cut into messages of at most 4,096 bytes (R326). -/
def msgCuts : Nat → Nat → Nat → List (Nat × Nat)
  | 0, _, _ => []
  | f + 1, a, n => if n = 0 then [] else (a, min n 4096) :: msgCuts f (a + 4096) (n - 4096)

def cutMsgs (a n : Nat) : List (Nat × Nat) := msgCuts (cdiv n 4096) a n

/-- A request to a remote part: it takes the endpoint's next tag (R326, Table 12-4). `len` bytes of answer are due. -/
def State.request (s : State) (node typ b job addr len : Nat) (ab : List Byte) (data : List Byte) : State :=
  let e := s.endp (node % 2)
  let tag := e.nextTag
  let s1 := s.updEndp (node % 2) (fun e => { e with
    nextTag := (e.nextTag + 1) % 65536, reqs := e.reqs ++ [⟨tag, node, b, job, addr, len, 0⟩] })
  s1.send node (.block b job) (s.fab.msg node typ tag (some ab) data)

/-- Bytes of a list of pieces at an address; bytes not there read zero. -/
def gotRead (g : List (Nat × List PByte)) (a n : Nat) : List PByte :=
  (List.range n).map (fun i =>
    match g.find? (fun p => decide (p.1 ≤ a + i) && decide (a + i < p.1 + p.2.length)) with
    | some p => p.2.getD (a + i - p.1) (0, false)
    | none => (0, false))

/-! Receive slots (R319). A packet holds the slot it came into until it leaves the part or its unit takes it (log entry 76). -/

/-- A packet's receive slot is free again. -/
def State.freeSlot (s : State) (p : Packet) : State :=
  if p.via < numLinks then
    s.updLink p.via (fun k => { k with freed := updAt k.freed p.vc (fun n => (n + 1) % 65536) })
  else s

def State.freeSlots (s : State) (ps : List Packet) : State := ps.foldl State.freeSlot s

/-- Packets that hold a receive slot. -/
def FabS.holders (f : FabS) : List Packet :=
  f.links.flatMap (fun k => k.tx.map TxP.p) ++ f.endps.flatMap Endp.inq ++ f.acus.flatMap Acu.inq

/-- Slots of a link held for a VC. -/
def FabS.held (f : FabS) (l vc : Nat) : Nat := (f.holders.filter (fun p => p.via == l && p.vc == vc)).length

/-! Records relayed hop by hop through the slice (R370, R488). -/

/-- The CTRL payload of a record (R370): type, axis, direction, hops left, and the record in bytes 32 to 63. -/
def ctrlPayload (typ a d left rec : Nat) : List Byte :=
  toLE 1 typ ++ toLE 1 a ++ toLE 1 d ++ toLE 1 left ++ List.replicate 28 0 ++ toLE 32 rec

/-- One hop of a relay, made where hops are left. -/
def State.relayHop (s : State) (typ rec a d left : Nat) : State :=
  if left = 0 then s
  else
    let node := s.fab.neighbour a d
    s.send node .resp [s.fab.one node tCTRL 0 (ctrlPayload typ a d left rec)]

/-- A record sent up and down every axis above `from_` along which the box is longer than 1 (R370). -/
def State.relayAxes (s : State) (typ rec : Nat) (axes : List Nat) : State :=
  (axes.filter (fun a => decide (s.fab.len a > 1))).foldl (fun t a =>
    (t.relayHop typ rec a 0 (t.fab.upHops a)).relayHop typ rec a 1 (t.fab.downHops a)) s

/-- A record started at this part (R370); a part in no slice sends nothing (R487). -/
def State.relayStart (s : State) (typ rec : Nat) : State :=
  if s.fab.slice = 0 then s else s.relayAxes typ rec (List.range 8)

/-- A record's relay at a part that receives it. -/
def State.relayOn (s : State) (p : Packet) (typ : Nat) : State :=
  let (a, d, left, r) := (fld p.payload 1 1, fld p.payload 2 1, fld p.payload 3 1, fld p.payload 32 32)
  (s.relayHop typ r a d (left - 1)).relayAxes typ r ((List.range 8).filter (fun b => decide (b > a)))

/-- What Thallus does for a missed deadline (R369): the record logged and broadcast, DL_MISS raised. -/
def State.miss (s : State) (level unit info rec : Nat) : State :=
  let s1 := (s.emit 0x1F level unit info rec).relayStart 1 rec
  { s1 with time := { s1.time with dlMiss := min cntMax (s1.time.dlMiss + 1) } }

end Sys2Proof.Machine
end

