-- ==== Sys2Proof/Machine/Access.lean ====
section
/-! DEFINITION. The access stream's data movement: reads and writes of every space, and LD, ST, GTH and SCA from issue to
the parts of their completion (R186, R190 to R193, R216, R217, R265, R482). -/

namespace Sys2Proof.Machine

/-- An interleaved extent as pieces (stack, stack-local offset, bytes), one for each granule (R233). -/
def granulesF : Nat → Nat → Nat → List (Nat × Nat × Nat)
  | 0, _, _ => []
  | f + 1, a, n =>
    if n = 0 then []
    else
      let m := min n (256 - a % 256)
      let kl := toStack a
      (kl.1, kl.2, m) :: granulesF f (a + m) (n - m)

def granules (a n : Nat) : List (Nat × Nat × Nat) := granulesF (n / 256 + 2) a n

/-- Stacks that an extent of a space touches. -/
def stacksOf (sp stk a n : Nat) : List Nat :=
  if sp = 3 && n ≥ 65536 then List.range numStacks
  else if sp = 3 then dedup ((granules a n).map (fun g => g.1)) else if sp = 4 then [stk] else []

/-- A region store's record of code-checked words read (R156, R147). -/
def Region.note (r : Region) (ws : List Nat) : Region :=
  let (c, u) := splitWords r.store ws
  if c.isEmpty && u.isEmpty then r
  else
    { r with
      ctr := ctrAdd (ctrAdd r.ctr 0 c.length) 1 u.length
      corrNow := r.corrNow + c.length
      evs := r.evs ++ u.map (fun w => (0x0102, 32 * w, 1)) }

/-- A region store's read record (R156, R147). -/
def Region.touch (r : Region) (off len : Nat) : Region := r.note (r.store.listedIn off len)

/-- A write to a region store: a word covered in part is read first, and that read is recorded (R145, R156). -/
def Region.writeR (r : Region) (off : Nat) (bs : List PByte) : Region :=
  let r1 := r.note (partWords r.store [(off, bs)])
  { r1 with store := r1.store.writePB off bs }

/-- Bytes at an address of a space of this part, as block `n` names them; `stk` is the stack of HBM-S. -/
def State.readAt (s : State) (n sp stk a len : Nat) : List PByte :=
  match sp with
  | 0 => (s.block n).spad.readP a len
  | 1 => (s.block (a / 2 ^ 21)).spad.readP (a % 2 ^ 21) len
  | 2 => (s.region (a / 2 ^ 24)).store.readP (a % 2 ^ 24) len
  | 3 => (granules a len).flatMap (fun g => (s.stack g.1).readP g.2.1 g.2.2)
  | 4 => (s.stack stk).readP a len
  | _ => []

/-- The request classes of Table 9-3. -/
def clsLC := 0
def clsBulk := 1
def clsWr := 2
def clsUpd := 3
def clsScrub := 4

/-- The record of such a read; at a stack it is a request of class `cls` (R240). -/
def State.touchAt (s : State) (n cls sp stk a len : Nat) : State :=
  match sp with
  | 0 => s.putBlock n ((s.block n).touch [(a, len)])
  | 1 => s.putBlock (a / 2 ^ 21) ((s.block (a / 2 ^ 21)).touch [(a % 2 ^ 21, len)])
  | 2 => s.putRegion (a / 2 ^ 24) ((s.region (a / 2 ^ 24)).touch (a % 2 ^ 24) len)
  | 3 => (granules a len).foldl (fun t g => t.putStack g.1 ((t.stack g.1).readReq t.now cls g.2.1 g.2.2)) s
  | 4 => s.putStack stk ((s.stack stk).readReq s.now cls a len)
  | _ => s

/-- A write to a stack, with what its SUE makes of it (R237, R281, R305). -/
def State.storeStack (s : State) (k off : Nat) (bs : List PByte) : State :=
  s.putStack k ((s.stack k).store s.now s.time.policy off bs)

/-- Bytes written at an address of a space of this part. -/
def State.writeAt (s : State) (n sp stk a : Nat) (bs : List PByte) : State :=
  match sp with
  | 0 => s.putBlock n ((s.block n).writeR [(a, bs)])
  | 1 => s.putBlock (a / 2 ^ 21) ((s.block (a / 2 ^ 21)).writeR [(a % 2 ^ 21, bs)])
  | 2 => s.putRegion (a / 2 ^ 24) ((s.region (a / 2 ^ 24)).writeR (a % 2 ^ 24) bs)
  | 3 => ((granules a bs.length).foldl (fun (st : State × List PByte) g =>
      (st.1.storeStack g.1 g.2.1 (st.2.take g.2.2), st.2.drop g.2.2)) (s, bs)).1
  | 4 => s.storeStack stk a bs
  | _ => s

/-- How an extent of a space answers now: served, waiting for a wake, a move or a wipe, or refused (R24, R155, R445). -/
def State.gateAt (s : State) (sp stk a len : Nat) : Gate :=
  match sp with
  | 1 =>
    match s.regionGate (a / 2 ^ 21 / 36) with
    | .ok => if (s.block (a / 2 ^ 21)).wiping && inSecure (a % 2 ^ 21) len then .wait else .ok
    | g => g
  | 2 => s.regionGate (a / 2 ^ 24)
  | 3 | 4 =>
    let gs := (stacksOf sp stk a len).map s.stackGate
    if gs.contains .refused then .refused else if gs.contains .wait then .wait else .ok
  | _ => .ok

/-- Is an access through NOCIN denied by a secure partition (R154)? -/
def State.deniedAt (s : State) (sp a len : Nat) : Bool :=
  sp == 1 && (s.block (a / 2 ^ 21)).sec && inSecure (a % 2 ^ 21) len

/-- Every stack that an extent touches is woken (R24). -/
def State.wakeAt (s : State) (sp stk a len : Nat) : State := (stacksOf sp stk a len).foldl State.wakeStack s

/-- Descriptor extents at this part. -/
def localRuns (d : Nat) : List (Nat × Nat) := if dSpace d = 5 then [] else dRuns d

/-- How a tensor of block `n`'s instruction answers now: one in its own scratchpad waits while the secure partition is being
wiped (R155). -/
def State.descGate (s : State) (n d : Nat) : Gate :=
  let gs := (localRuns d).map (fun r =>
    if dSpace d = 0 then (if (s.block n).wiping && inSecure r.1 r.2 then Gate.wait else Gate.ok)
    else s.gateAt (dSpace d) (fStack.get d) r.1 r.2)
  if gs.contains .refused then .refused else if gs.contains .wait then .wait else .ok

def State.descDenied (s : State) (d : Nat) : Bool := (localRuns d).any (fun r => s.deniedAt (dSpace d) r.1 r.2)

def State.wakeDesc (s : State) (d : Nat) : State :=
  (localRuns d).foldl (fun t r => t.wakeAt (dSpace d) (fStack.get d) r.1 r.2) s

def State.touchDesc (s : State) (n cls d : Nat) : State :=
  (localRuns d).foldl (fun t r => t.touchAt n cls (dSpace d) (fStack.get d) r.1 r.2) s

/-- Does a source come in messages or transfers: a remote part's (R325), another block's (R159)? -/
def dAway (d : Nat) : Bool := dSpace d == 5 || dSpace d == 1

/-- A tensor of this part read through a descriptor copy. -/
def State.readHere (s : State) (n d : Nat) : Tens := readTens (s.readAt n (dSpace d) (fStack.get d)) d

/-- A tensor read through a descriptor copy; one that comes in messages or transfers, from what they brought. -/
def State.readDesc (s : State) (n d : Nat) (got : List (Nat × List PByte)) : Tens :=
  if dAway d then readTens (gotRead got) d
  else s.readHere n d

/-! Descriptors at issue. -/

def aSpaces : List Nat := [0, 1, 2, 3, 4, 5]

/-- Formats of SCA (R190). -/
def scaFmts : List Fmt := [.fp32, .bf16, .int32, .int64]

/-- An operand for the A-stream: its copy, and the job's entries for it. -/
def Block.aOperand (b : Block) (r : Role) (h : Nat) (j : Job) : Iss (Nat × Job) :=
  (b.operand r h).bind (fun dp =>
    .go (dp.1, { j with
      descs := j.descs ++ [(h, dp.1)], handles := j.handles ++ [h]
      awaits := j.awaits ++ (match dp.2 with | some r => [(h, r)] | none => [])
      remote := j.remote || dSpace dp.1 == 5 }))

/-- The index tensor of an indexed operand (R185, R190), put in the job under the number 256; a versioned one resolves its slot
as any reader's operand does (R265). -/
def Block.aIndex (b : Block) (d : Nat) (j : Job) : Iss (Nat × Job) :=
  let h := fIdx.get d
  (b.operand { spaces := [0, 2, 3, 4], fmts := [.int32, .int64] } h).bind (fun dp =>
    .go (dp.1, { j with
      descs := j.descs ++ [(256, dp.1)], handles := j.handles ++ [h]
      awaits := j.awaits ++ (match dp.2 with | some r => [(256, r)] | none => []) }))

/-- Elements between dimension 0 and the outermost dimension of an indexed descriptor (R190). -/
def dInner (d : Nat) : Nat := prodL (((dSizes d).drop 1).dropLast)

/-- Size of the outermost dimension. -/
def dTop (d : Nat) : Nat := dSize d (dRank d - 1)

/-- Sizes that the destination of GTH must have: dimension 0 and the product of the outer ones (R190, R216). -/
def idxShape (d n : Nat) : Nat × Nat := if dRank d = 1 then (n, 1) else (dN0 d, n * dInner d)

/-- The sizes of an SCA's source: D's inner sizes, and n outermost (R190). -/
def scaSizes (d n : Nat) : List Nat := if dRank d = 1 then [n] else (dSizes d).dropLast ++ [n]

/-- Row `k` of an indexed descriptor, as a descriptor of its own (R190, R34). -/
def rowDesc (d k : Nat) : Nat :=
  let r := dRank d
  let f := dF d
  let d1 := fAddr.set d (dAddr d + eByte f (k * dStride d (r - 1)))
  let d2 := if f.scaled then fScale.set d1 (dScale d + k * (rowScales f (dN0 d) * dInner d)) else d1
  if r = 1 then (fSize 0).set d2 0 else fRank.set d2 (r - 1)

/-- LD and ST up to their start: the descriptor checks, a queue's reservation or its head entry, the job (R178, R216). -/
def Block.prepCopy (b : Block) (w : Nat) (st : Bool) : Iss (Block × Nat) :=
  let dq := bit w 48
  let qn := bits w 45 3
  let dh := bits w 37 8
  let sh := bits w 29 8
  let role : Role := { spaces := aSpaces, fmts := allFmts }
  let j0 : Job := { b.freshJob .a w .copy with started := false }
  if dq && !(queueBound b .a qn st) then .fault { ErrI.of 5 with handle := qn }
  else if st && dq then
    match b.headFields qn with
    | none => .hold
    | some hf =>
      (b.aOperand { role with dest := true } dh j0).bind (fun dj =>
        match hf with
        | none => .fault { ErrI.of 7 with handle := qn }
        | some (f, n0, n1, _) =>
          if f ≠ dF dj.1 || n0 ≠ dN0 dj.1 || n1 ≠ dOuter dj.1 then .fault { ErrI.of 7 with handle := qn }
          else
            match b.popEntry qn with
            | none => .hold
            | some (t, b1) => .go ((b1.addJob { dj.2 with dst := some dh, got := [(0, entBytes t)] }).adv .a, j0.id))
  else
    (b.aOperand role sh j0).bind (fun sj =>
      if dq then
        (b.room (.queue qn (dF sj.1)) (dN0 sj.1) (dOuter sj.1)).bind (fun _ =>
          match b.reserve qn (entWords (dF sj.1) (dN0 sj.1) (dOuter sj.1)) (some j0.id) with
          | none => .hold
          | some b1 => .go ((b1.addJob sj.2).adv .a, j0.id))
      else
        (b.aOperand { role with dest := true } dh sj.2).bind (fun dj =>
          if dF dj.1 ≠ dF sj.1 || dN0 dj.1 ≠ dN0 sj.1 || dOuter dj.1 ≠ dOuter sj.1 then .fault (shape11 dh)
          else .go ((b.addJob { dj.2 with dst := some dh }).adv .a, j0.id)))

/-- GTH up to its start (R190, R216). -/
def Block.prepGth (b : Block) (w : Nat) : Iss (Block × Nat) :=
  let dq := bit w 48
  let qn := bits w 45 3
  let dh := bits w 37 8
  let sh := bits w 29 8
  let role : Role := { spaces := aSpaces, fmts := allFmts }
  let j0 : Job := { b.freshJob .a w .copy with started := false }
  if dq && !(queueBound b .a qn false) then .fault { ErrI.of 5 with handle := qn }
  else
    (b.aOperand { role with indexed := true } sh j0).bind (fun sj =>
      (b.aIndex sj.1 sj.2).bind (fun ij =>
        let f := dF sj.1
        if dRank sj.1 = 1 && f.scaled then .fault (shape11 sh)
        else
          let sz := idxShape sj.1 (dN0 ij.1)
          if dq then
            (b.room (.queue qn f) sz.1 sz.2).bind (fun _ =>
              match b.reserve qn (entWords f sz.1 sz.2) (some j0.id) with
              | none => .hold
              | some b1 => .go ((b1.addJob ij.2).adv .a, j0.id))
          else
            (b.aOperand { role with dest := true } dh ij.2).bind (fun dj =>
              if dF dj.1 ≠ f || dN0 dj.1 ≠ sz.1 || dOuter dj.1 ≠ sz.2 then .fault (shape11 dh)
              else .go ((b.addJob { dj.2 with dst := some dh }).adv .a, j0.id))))

/-- SCA up to its start (R190, R217). -/
def Block.prepSca (b : Block) (w : Nat) : Iss (Block × Nat) :=
  let dh := bits w 38 8
  let sh := bits w 30 8
  let rh := bits w 22 8
  let j0 : Job := { b.freshJob .a w .sca with started := false }
  (b.aOperand { spaces := [3, 4, 5], fmts := scaFmts, indexed := true, dest := true } dh j0).bind (fun dj =>
    (b.aIndex dj.1 dj.2).bind (fun ij =>
      if !([3, 4].contains (dISpace dj.1)) then .fault { ErrI.of 4 with sub := 4, handle := dh }
      else
        (b.aOperand { spaces := aSpaces, fmts := scaFmts } sh ij.2).bind (fun sj =>
          if dF sj.1 ≠ dF dj.1 then .fault { ErrI.of 4 with sub := 1, handle := sh }
          else if dSizes sj.1 ≠ scaSizes dj.1 (dN0 ij.1) then .fault (shape11 sh)
          else if bit w 46 then
            (b.aOperand { spaces := [0], fmts := scaFmts, dest := true } rh sj.2).bind (fun rj =>
              if dF rj.1 ≠ dF sj.1 then .fault { ErrI.of 4 with sub := 1, handle := rh }
              else if dN0 rj.1 ≠ dN0 sj.1 || dOuter rj.1 ≠ dOuter sj.1 then .fault (shape11 rh)
              else .go ((b.addJob { rj.2 with dst := some dh }).adv .a, j0.id))
          else .go ((b.addJob { sj.2 with dst := some dh }).adv .a, j0.id))))

/-! Start and delivery. -/

/-- An error kept for ERROR_COMPLETION: the first one counts. -/
def State.jobErr (s : State) (n id : Nat) (e : ErrI) : State :=
  s.updBlock n (fun b => b.updJob id (fun j => { j with done := false, err := match j.err with | none => some e | x => x }))

/-- Parts of a job set: none left means done. -/
def State.jobParts (s : State) (n id rem flags : Nat) : State :=
  s.updBlock n (fun b => b.updJob id (fun j => { j with
    rem := rem, flags := j.flags ||| flags, done := rem == 0 && j.err.isNone }))

/-- The next sequence number of transfers to a block (R159), modulo 256. -/
def seqFor (l : List (Nat × Nat)) (k : Nat) : Nat := ((l.find? (fun x => x.1 == k)).map Prod.snd).getD 0
def seqNext (l : List (Nat × Nat)) (k : Nat) : List (Nat × Nat) :=
  l.filter (fun x => x.1 != k) ++ [(k, (seqFor l k + 1) % 256)]

/-- A run cut into transfers of at most 64 flits (R159). -/
def nocCuts (r : Run) : List Run :=
  ((List.range (cdiv r.2.length 2048)).zip (chunks 2048 r.2)).map (fun ic => (r.1 + 2048 * ic.1, ic.2))

/-- A transfer put on the mesh with the next number of its source and destination (R159). -/
def State.nocPut (s : State) (src dst job : Nat) (rd : Bool) (r : Run) : State :=
  let sq := seqFor (s.block src).nocOut dst
  { s.updBlock src (fun b => { b with nocOut := seqNext b.nocOut dst }) with noc := s.noc ++ [⟨src, dst, sq, job, rd, [r]⟩] }

/-- Runs of BLOCK addresses put on the mesh as transfers of job `id` (R159): how many. -/
def State.nocSend (s : State) (n id : Nat) (rs : List Run) : State × Nat :=
  let ts := rs.flatMap nocCuts
  (ts.foldl (fun t r => t.nocPut n (r.1 / 2 ^ 21) id false (r.1 % 2 ^ 21, r.2)) s, ts.length)

/-- Runs of BLOCK addresses read for job `id`: each owner answers with transfers, numbered and checked as any between two
blocks (R159; log entry 127): how many. -/
def State.nocRead (s : State) (n id : Nat) (rs : List (Nat × Nat)) : State × Nat :=
  let ts := rs.flatMap (fun r => nocCuts (r.1, s.readAt n 1 0 r.1 r.2))
  (ts.foldl (fun t r => (t.touchAt n clsBulk 1 0 r.1 r.2.length).nocPut (r.1 / 2 ^ 21) n id true r) s, ts.length)

/-- Runs sent to a remote part as WR messages (R326, R482): how many were sent; one with a poisoned byte is not. -/
def State.wrSend (s : State) (n id d : Nat) (srcA : Nat) (rs : List Run) : State × Nat :=
  let node := fNode.get d
  (rs.flatMap (fun r => (cutMsgs r.1 r.2.length).map (fun an => (an.1, (r.2.drop (an.1 - r.1)).take an.2)))).foldl
    (fun (st : State × Nat) r =>
      if r.2.any Prod.snd then
        (st.1.jobErr n id { ErrI.of 0x23 with arg := srcA, node := node }, st.2)
      else
        (st.1.request node tWR n id r.1 0
          (addrBlock r.2.length 0 0 false (fISpace.get d) (fStack.get d) r.1) (r.2.map Prod.fst), st.2 + 1)) (s, 0)

/-- A tensor written to the destination of LD, ST or GTH: a queue entry, a store of this part, transfers to another block,
or messages to another part. -/
def State.deliver (s : State) (n : Nat) (j : Job) (t : Tens) (srcA : Nat) : State :=
  let flags := 32 * b2n t.bad
  let isSt := match opOf j.seq j.word with | .st => true | _ => false
  if bit j.word 48 && !isSt then
    (s.putBlock n ((s.block n).fillEntry (bits j.word 45 3) j.id t)).jobParts n j.id 1 flags
  else
    let d := (j.desc (bits j.word 37 8)).getD 0
    let rs := tensWrites d t
    match dSpace d with
    | 1 => let (s1, k) := s.nocSend n j.id rs; s1.jobParts n j.id k flags
    | 5 => let (s1, k) := s.wrSend n j.id d srcA rs; s1.jobParts n j.id k flags
    | sp => (rs.foldl (fun t r => t.writeAt n sp (fStack.get d) r.1 r.2) s).jobParts n j.id 0 flags

/-- RD messages for runs of a remote descriptor (R325, R326): how many. -/
def State.rdSend (s : State) (n id d : Nat) (rs : List (Nat × Nat)) : State × Nat :=
  (rs.flatMap (fun r => cutMsgs r.1 r.2)).foldl (fun (st : State × Nat) r =>
    (st.1.request (fNode.get d) tRD n id r.1 r.2
      (addrBlock r.2 0 0 false (fISpace.get d) (fStack.get d) r.1) [], st.2 + 1)) (s, 0)

/-- The accesses of a source that comes in messages or transfers begin: how many. -/
def State.awaySend (s : State) (n id d : Nat) (rs : List (Nat × Nat)) : State × Nat :=
  if dSpace d = 5 then s.rdSend n id d rs else s.nocRead n id rs

/-- Index entries as GTH and SCA take them (R191, R193): 0 a row, 1 out of range, 2 poisoned. -/
def idxEntries (ix top : Nat) (t : Tens) : List (Nat × Nat × Int) :=
  let w := (dF ix).width
  (t.rows.flatMap TRow.elems).map (fun e =>
    let v := signed w e.1
    if e.2 then (2, 0, v) else if v < 0 || v ≥ (top : Int) then (1, 0, v) else (0, v.toNat, v))

/-- The index tensor read (R191 to R193): counted, and none where STRICT stops the block. -/
def State.readIdx (s : State) (n : Nat) (j : Job) (h d : Nat) : State × Option (List (Nat × Nat)) :=
  let ix := (j.desc 256).getD 0
  let es := idxEntries ix (dTop d) (s.readDesc n ix [])
  let s1 := s.touchDesc n clsLC ix
  let bad := (es.filter (fun e => e.1 == 1)).length
  match (if dStrict d then ((List.range es.length).zip es).find? (fun ie => ie.2.1 == 1) else none) with
  | some ie =>
    (s1.jobFault n j { ErrI.of 0x16 with handle := h, arg := ie.1, spec := unsigned 32 ie.2.2.2 }, none)
  | none =>
    (s1.updBlock n (fun b => (b.count cIdx bad).updJob j.id (fun j => { j with flags := j.flags ||| (16 * b2n (bad != 0)) })),
      some (es.map (fun e => (e.1, e.2.1))))

/-- A row of GTH that selects nothing: zero codes and scale bytes, poisoned where its index was (R191, R193). -/
def zeroRows (d : Nat) (bad : Bool) : List TRow :=
  let k := if dRank d = 1 then 1 else dInner d
  let n0 := if dRank d = 1 then 1 else dN0 d
  List.replicate k ⟨List.replicate (rowScales (dF d) n0) (0, bad), List.replicate n0 (0, bad)⟩

/-- The tensor that GTH gathers (R190). -/
def State.gathered (s : State) (n d : Nat) (idx : List (Nat × Nat)) (got : List (Nat × List PByte)) : Tens :=
  let rows := idx.flatMap (fun e =>
    if e.1 = 0 then (s.readDesc n (rowDesc d e.2) got).rows else zeroRows d (e.1 == 2))
  if dRank d = 1 then ⟨dF d, idx.length, [⟨[], rows.flatMap TRow.elems⟩]⟩ else ⟨dF d, dN0 d, rows⟩

/-- LD or ST starts: its source is read, or asked for. -/
def State.startCopy (s : State) (n : Nat) (j : Job) (st : Bool) : State :=
  if st && bit j.word 48 then
    match entFields (((gotRead j.got 0 32)).map Prod.fst) with
    | none => s
    | some (f, n0, n1, p) =>
      s.deliver n j (entTens f n0 n1 p ((j.got.flatMap Prod.snd).drop 32)) 0
  else
    let d := (j.desc (bits j.word 29 8)).getD 0
    if dAway d then
      let (s1, k) := s.awaySend n j.id d (dRuns d)
      s1.jobParts n j.id (k + 1) 0
    else (s.touchDesc n clsBulk d).deliver n j (s.readDesc n d []) (dAddr d)

/-- GTH starts. -/
def State.startGth (s : State) (n : Nat) (j : Job) : State :=
  let h := bits j.word 29 8
  let d := (j.desc h).getD 0
  match s.readIdx n j h d with
  | (s1, none) => s1
  | (s1, some idx) =>
    let rds := (idx.filter (fun e => e.1 == 0)).map (fun e => rowDesc d e.2)
    let s2 := s1.updBlock n (fun b => b.updJob j.id (fun j => { j with idx := idx }))
    if dAway d then
      let (s3, k) := s2.awaySend n j.id d (rds.flatMap dRuns)
      if k = 0 then s3.deliver n j (s3.gathered n d idx []) (dAddr d) else s3.jobParts n j.id (k + 1) 0
    else
      let t := s2.gathered n d idx []
      (rds.foldl (fun (t : State) r => t.touchDesc n clsLC r) s2).deliver n j t (dAddr d)

/-- Elements of one row of SCA in order: offset in bytes from ADDR's space, with its place in the row. -/
def scaPlaces (d : Nat) : List Nat :=
  let f := dF d
  (dRowOffs d).flatMap (fun o => (List.range (dN0 d)).map (fun i => dAddr d + eByte f (o + i * dStride d 0)))

/-- The last part of an SCA ended: RH takes the returned values, +0 where a row was dropped (R217). -/
def State.finishSca (s : State) (n : Nat) (j : Job) : State :=
  if bit j.word 46 then
    let rd := (j.desc (bits j.word 22 8)).getD 0
    let w := (dF rd).width / 8
    let els := (List.range (dElems rd)).map (fun i =>
      let bs := gotRead j.got (i * w) w
      (ofLE (bs.map Prod.fst), bs.any Prod.snd))
    let t : Tens := ⟨dF rd, dN0 rd, (chunks (dN0 rd) els).map (fun es => ⟨[], es⟩)⟩
    (s.putBlock n ((s.block n).writeT rd t)).jobParts n j.id 0 0
  else s.jobParts n j.id 0 0

/-- One row's elements cut by stack, in order (R233). -/
def byStack (sp stk : Nat) (els : List (Nat × Nat × Nat × Bool)) : List (Nat × List (Nat × Nat × Nat × Bool)) :=
  if sp = 4 then [(stk, els)]
  else
    let loc := els.map (fun e => (toStack e.2.1, e))
    (dedup (loc.map (fun x => x.1.1))).map (fun k =>
      (k, (loc.filter (fun x => x.1.1 == k)).map (fun x => (x.2.1, x.1.2, x.2.2.2.1, x.2.2.2.2))))

/-- Adjacent elements of a row joined into extents for messages: (address, place of the first, codes, any poisoned). -/
def joinEls (w : Nat) : List (Nat × Nat × Nat × Bool) → List (Nat × Nat × List Nat × Bool)
  | [] => []
  | e :: es =>
    match joinEls w es with
    | (a, p, cs, b) :: rest =>
      if e.2.1 + w = a && e.1 + 1 = p && (cs.length + 1) * w ≤ 4096 && b == e.2.2.2 then
        (e.2.1, e.1, e.2.2.1 :: cs, b) :: rest
      else (e.2.1, e.1, [e.2.2.1], e.2.2.2) :: (a, p, cs, b) :: rest
    | [] => [(e.2.1, e.1, [e.2.2.1], e.2.2.2)]

/-- The rows of an SCA sent: to the stacks of this part, or as SCA or SCAR messages (R190, R217, R326, R482). -/
def State.sendSca (s : State) (n : Nat) (j : Job) (idx : List (Nat × Nat)) (src : Tens) : State :=
  let d := (j.desc (bits j.word 38 8)).getD 0
  let sd := (j.desc (bits j.word 30 8)).getD 0
  let w := (dF d).width / 8
  let ret := bit j.word 46
  let op := bits j.word 47 2
  let all := src.rows.flatMap TRow.elems
  let rl := if dRank d = 1 then 1 else dN0 d * dInner d
  let rows := ((List.range idx.length).zip idx).filter (fun ie => ie.2.1 == 0)
  let one (ie : Nat × Nat × Nat) : List (Nat × Nat × Nat × Bool) :=
    let els := (all.drop (ie.1 * rl)).take rl
    ((List.range rl).zip ((scaPlaces (rowDesc d ie.2.2)).zip els)).map (fun x => (x.1, x.2.1, x.2.2.1, x.2.2.2))
  if dSpace d = 5 then
    let node := fNode.get d
    let pieces := rows.flatMap (fun ie => (joinEls w (one ie)).map (fun p => (ie.1 * rl * w, p)))
    let (s1, k) := pieces.foldl (fun (st : State × Nat) bp =>
      let (a, p, cs, bad) := bp.2
      let data := cs.flatMap (toLE w)
      let ab := addrBlock data.length op (dF d).code (dSatB d) (fISpace.get d) (fStack.get d) a
      if bad then (st.1.jobErr n j.id { ErrI.of 0x23 with arg := dAddr sd, node := node }, st.2)
      else if ret then (st.1.request node tSCAR n j.id (bp.1 + p * w) data.length ab data, st.2 + 1)
      else (st.1.request node tSCA n j.id a 0 ab data, st.2 + 1)) (s, 0)
    if k = 0 then s1.finishSca n j else s1.jobParts n j.id k 0
  else
    let parts := rows.flatMap (fun ie => (byStack (dSpace d) (fStack.get d) (one ie)).map (fun ke => (ie.1, ke)))
    let s1 := parts.foldl (fun (t : State) p => t.updStack p.2.1 (fun k => { k with
      scas := k.scas ++ [⟨.block n j.id, p.1 * rl, dF d, op, dSatB d, ret, p.2.2⟩] })) s
    if parts.isEmpty then s1.finishSca n j else s1.jobParts n j.id parts.length 0

/-- SCA starts. -/
def State.startSca (s : State) (n : Nat) (j : Job) : State :=
  let h := bits j.word 38 8
  let d := (j.desc h).getD 0
  let sd := (j.desc (bits j.word 30 8)).getD 0
  match s.readIdx n j h d with
  | (s1, none) => s1
  | (s1, some idx) =>
    let s2 := s1.updBlock n (fun b => b.updJob j.id (fun j => { j with idx := idx }))
    if dAway sd then
      let (s3, k) := s2.awaySend n j.id sd (dRuns sd)
      s3.jobParts n j.id (k + 1) 0
    else (s2.touchDesc n clsBulk sd).sendSca n j idx (s2.readDesc n sd [])

/-- The descriptors through which a job's accesses go, with their handles: of an indexed operand the rows selected. -/
def State.jobDescs (s : State) (n : Nat) (j : Job) : List (Nat × Nat) :=
  match j.desc 256 with
  | none => j.descs
  | some ix =>
    if s.descGate n ix != .ok then [(256, ix)]
    else
      j.descs.flatMap (fun hd =>
        if fIdxEn.get hd.2 = 1 then
          ((idxEntries ix (dTop hd.2) (s.readDesc n ix [])).filter (fun e => e.1 == 0)).map (fun e => (hd.1, rowDesc hd.2 e.2.1))
        else [hd])

/-- An access instruction whose grants have come begins its accesses, unless a target makes it wait or refuses (R24, R154,
R265). -/
def State.startAccess (s : State) (n id : Nat) : State :=
  match (s.block n).job id with
  | none => s
  | some j =>
    if j.started || !j.awaits.isEmpty then s
    else
      let ds := s.jobDescs n j
      match ds.find? (fun hd => s.descGate n hd.2 == .refused) with
      | some hd => (s.updBlock n (fun b => b.updJob id (fun j => { j with started := true }))).jobErr n id
          { ErrI.of 0x18 with handle := min hd.1 255, arg := dAddr hd.2 }
      | none =>
        if ds.any (fun hd => s.descGate n hd.2 == .wait) then ds.foldl (fun t hd => t.wakeDesc hd.2) s
        else
          let s1 := s.updBlock n (fun b => b.updJob id (fun j => { j with started := true }))
          let j1 := { j with started := true }
          match ds.find? (fun hd => s.descDenied hd.2) with
          | some hd => s1.jobErr n id { ErrI.of 0x17 with handle := min hd.1 255, arg := dAddr hd.2 }
          | none =>
            match opOf j.seq j.word with
            | .ld => s1.startCopy n j1 false
            | .st => s1.startCopy n j1 true
            | .gth => s1.startGth n j1
            | .sca => s1.startSca n j1
            | _ => s1

/-- A part of a job outside the block ended (R159, R325, R335): with the answers of a remote source all in, its data go on. -/
def State.jobPart (s : State) (n id : Nat) : State :=
  match (s.block n).job id with
  | none => s
  | some j =>
    let s1 := s.updBlock n (fun b => b.updJob id (fun j => { j with rem := j.rem - 1 }))
    let j1 := { j with rem := j.rem - 1 }
    let src := match opOf j.seq j.word with
      | .ld | .st => if bit j.word 48 && (match opOf j.seq j.word with | .st => true | _ => false) then none
                     else j.desc (bits j.word 29 8)
      | .gth => j.desc (bits j.word 29 8)
      | .sca => j.desc (bits j.word 30 8)
      | _ => none
    let fromRemote := match src with | some d => dAway d | none => false
    if j.kind = .sca then
      if fromRemote && j1.rem = 1 && j.wait = 0 then
        let d := src.getD 0
        (s1.updBlock n (fun b => b.updJob id (fun j => { j with wait := 1, got := [] }))).sendSca n
          { j1 with got := [], wait := 1 } j.idx (s1.readDesc n d j.got)
      else if j1.rem = 0 then s1.finishSca n j1 else s1
    else if fromRemote && j.wait = 0 && j1.rem = 1 then
      let d := src.getD 0
      let s2 := s1.updBlock n (fun b => b.updJob id (fun j => { j with wait := 1 }))
      let t := match opOf j.seq j.word with
        | .gth => s2.gathered n d j.idx j.got
        | _ => s2.readDesc n d j.got
      s2.deliver n { j1 with wait := 1 } t (dAddr d)
    else if j1.rem = 0 then
      -- a tile that left through a chain becomes FREE with its last word written (R96)
      (if j.drain.isSome then s1.updBlock n (fun b => b.freeTile (jobBase j)) else s1).jobParts n id 0 0
    else s1

/-- Access instructions of every block that wait for a target are tried again. -/
def State.retryAll (s : State) : State :=
  (List.range numBlocks).foldl (fun t n =>
    ((t.block n).jobs.filter (fun j => !j.started && (j.kind == .copy || j.kind == .sca))).foldl
      (fun u j => u.startAccess n j.id) t) s

/-- An access instruction issues and starts (R169, R216, R217). -/
def State.issueAccess (s : State) (n : Nat) (isW : Nat → Bool) (prep : Block → Nat → Iss (Block × Nat)) : State :=
  let id := (s.block n).nextJob
  let s1 := s.issue n .a isW (fun b w => (prep b w).bind (fun x => .go x.1))
  s1.startAccess n id

/-- LD (R216). -/
def execLd (b : Nat) (s : State) : Res :=
  onUnit (b < 144) (s.issueAccess b (fun w => opOf .a w == .ld) (fun k w => k.prepCopy w false))

/-- ST (R216). -/
def execSt (b : Nat) (s : State) : Res :=
  onUnit (b < 144) (s.issueAccess b (fun w => opOf .a w == .st) (fun k w => k.prepCopy w true))

/-- GTH (R190, R216). -/
def execGth (b : Nat) (s : State) : Res :=
  onUnit (b < 144) (s.issueAccess b (fun w => opOf .a w == .gth) Block.prepGth)

/-- SCA (R190, R217). -/
def execSca (b : Nat) (s : State) : Res :=
  onUnit (b < 144) (s.issueAccess b (fun w => opOf .a w == .sca) Block.prepSca)

end Sys2Proof.Machine
end

