-- ==== Sys2Proof/Machine/Stream.lean ====
section
/-! DEFINITION. The streams of a block: decode, loops, tokens, markers, DESC.SET, completion, error completion and the
watchdog (chapters 7 and 8). -/

namespace Sys2Proof.Machine

def ctxSeq : Ctx → Seq := seqOf

/-- A sequence's next word is fetched, checked and decoded (R198 to R200); ENDLs at a loop end fold away (R222). -/
def State.decode (s : State) (n : Nat) (q : Seq) : State :=
  let b := s.block n
  if s.canIssue n && !(b.ended q) && (b.seqr q).word.isNone then
    let iw := b.iword q (b.seqr q).pc
    match decodeFault (s.vecBlock n) b q iw with
    | some e => s.blockFault n (srcOf q) (b.seqr q).pc e
    | none =>
      match opOf q iw.w with
      | .endl => (s.updBlock n (fun b => foldEndl 5 b q)).checkDone n
      | _ => s.updBlock n (fun b => b.setSeqr q { b.seqr q with word := some iw.w })
  else s

def execInstructionDecode (b : Nat) (q : Seq) (s : State) : Res := onUnit (b < 144) (s.decode b q)

/-- LOOP (R222). -/
def execLoop (b : Nat) (q : Seq) (s : State) : Res :=
  onUnit (b < 144) (s.issue b q (fun w => opOf q w == .loop) (fun k w => k.issueLoop q w))

/-- TOK.WAIT (R179). -/
def execTokWait (b : Nat) (q : Seq) (s : State) : Res :=
  onUnit (b < 144) (s.issue b q (fun w => opOf q w == .tokWait) (fun k w => k.issueTokWait q w))

/-- A fence's job and the fence itself removed. -/
def Block.endFence (b : Block) (job : Nat) : Block :=
  { b with fences := b.fences.filter (fun f => f.job != job), jobs := b.jobs.filter (fun j => j.id != job) }

/-- A fenced signal whose earlier instructions have completed adds to its own block's token, or leaves as a token message
(R181, R182). -/
def State.signal (s : State) (n : Nat) (f : Fence) : State :=
  let b := s.block n
  match b.job f.job with
  | none => s
  | some j =>
    if j.remote then
      { s.updBlock n (fun b => { b with fences := b.fences.map (fun x => if x.job = f.job then { x with sent := true } else x) })
        with tokMsgs := s.tokMsgs ++ [⟨n, f.blk, f.tok, f.n, f.job⟩] }
    else
      match b.tokAdd f.tok f.n with
      | some b1 => s.putBlock n (b1.endFence f.job)
      | none => s.blockFault n (srcOf f.seq) f.pc { ErrI.of 8 with handle := f.tok }

/-- Fenced signals of a block that may go now, one after another: one that goes may let the next go (R181). -/
def State.signalsOf : Nat → State → Nat → State
  | 0, s, _ => s
  | f + 1, s, n =>
    let b := s.block n
    match b.fences.find? (fun x => !x.sent && x.before.all (fun i => (b.job i).isNone)) with
    | some x => State.signalsOf f (s.signal n x) n
    | none => s

/-- Every fenced signal of a block that may go now goes. -/
def State.signals (s : State) (n : Nat) : State := (State.signalsOf (s.block n).fences.length s n).checkDone n

/-- TOK.SIG (R181, R220). -/
def State.tokSig (s : State) (n : Nat) (q : Seq) : State :=
  let s1 := s.issue n q (fun w => opOf q w == .tokSig) (fun k w =>
    (k.issueTokSig n q w).bind (fun x =>
      if x.2 then .go x.1 else .fault { ErrI.of 8 with handle := bits w 43 6 }))
  s1.signals n

def execTokSig (b : Nat) (q : Seq) (s : State) : Res := onUnit (b < 144) (s.tokSig b q)

/-- A token message arrives (R181, R182, R220): added, or refused where the destination's region is OFF or in RETAIN. -/
def State.tokenMessage (s : State) (src dst : Nat) : State :=
  match s.tokMsgs.find? (fun m => m.src == src && m.dst == dst) with
  | none => s
  | some m =>
    let s1 := { s with tokMsgs := s.tokMsgs.erase m }
    match s.regionGate (dst / 36) with
    | .wait => s
    | .refused => s1.jobErr src m.job { ErrI.of 0x18 with handle := m.tok }
    | .ok =>
      let s2 := s1.updBlock src (fun b => b.endFence m.job)
      let s3 := match (s2.block dst).tokAdd m.tok m.n with
        | some b1 => s2.putBlock dst b1
        | none => s2.stopFault dst 3 0 { ErrI.of 8 with handle := m.tok, arg := src }
      s3.signals src

def execTokenMessage (src dst : Nat) (s : State) : Res := onPart s (src < 144 && dst < 144) (s.tokenMessage src dst)

/-- CTX.MARK (R168). -/
def execCtxMark (b : Nat) (c : Ctx) (s : State) : Res :=
  onUnit (b < 144) (s.issue b (seqOf c) (fun w => opOf (seqOf c) w == .ctxMark) (fun k w => k.issueMark (seqOf c) w))

/-- A DESC.SET word of a form (Table 8-18). -/
def isDescSet (form w : Nat) : Bool := opOf .a w == .descSet && bits w 47 2 == form

/-- DESC.SET, SET form (R187, R219, R263). -/
def execDescSet (b : Nat) (s : State) : Res :=
  onUnit (b < 144) (s.issue b .a (isDescSet 0) (fun k w => k.issueDescSet .a w))

def execDescSetAdd (b : Nat) (s : State) : Res :=
  onUnit (b < 144) (s.issue b .a (isDescSet 1) (fun k w => k.issueDescAdd .a w))

def execDescSetLcr (b : Nat) (s : State) : Res :=
  onUnit (b < 144) (s.issue b .a (isDescSet 2) (fun k w => k.issueLcr .a w))

def execDescSetVimm (b : Nat) (s : State) : Res :=
  onUnit (b < 144) (s.issue b .a (isDescSet 3) (fun k w => k.issueVimm .a w))

/-- The status words of a completed job's output descriptors (R58, R188). -/
def Block.status (b : Block) (j : Job) : Block :=
  ((j.dst.map (fun h => (h, j.flags))).toList ++ j.more).foldl (fun bb hf => bb.setDesc hf.1 (statusAfter (bb.desc hf.1) hf.2)) b

/-- Is an MM of the row packer held back by one that issued before it (R81)? -/
def Block.packedBefore (b : Block) (j : Job) : Bool := j.packed && b.jobs.any (fun x => x.packed && decide (x.id < j.id))

/-- An instruction completes (R81, R166, R171, R181, R188): its STATUS, its token, the signals that waited on it. -/
def State.complete (s : State) (n id : Nat) : State :=
  let b := s.block n
  match b.job id with
  | none => s
  | some j =>
    if !j.done || j.err.isSome || j.kind = .sig || b.packedBefore j then s
    else
      let b2 := ({ b with jobs := b.jobs.filter (fun x => x.id != id), wd := 0 }).status j
      match j.tok with
      | none => (s.putBlock n b2).signals n
      | some t =>
        match b2.tokAdd t 1 with
        | some b3 => (s.putBlock n b3).signals n
        | none => (s.putBlock n b2).blockFault n (srcOf j.seq) j.pc { ErrI.of 8 with handle := t }

def execCompletionEvent (b job : Nat) (s : State) : Res := onPart s (b < 144) (s.complete b job)

/-- An error completion or a refusal reaches the requesting block (R345, R502). -/
def State.errorDone (s : State) (n id : Nat) : State :=
  match (s.block n).job id with
  | none => s
  | some j =>
    match j.err with
    | some e => s.jobFault n j e
    | none => s

def execErrorCompletion (b job : Nat) (s : State) : Res := onPart s (b < 144) (s.errorDone b job)

/-- Is the watchdog held: by a supply pause, a COLL or a REMOTE access outstanding (R194)? -/
def State.wdHeld (s : State) (n : Nat) : Bool :=
  !s.issueOn || (s.block n).jobs.any (fun j => j.kind == .coll || (j.remote && j.kind != .sig))

/-- The stream watchdog expires (R194). -/
def State.hang (s : State) (n : Nat) : State :=
  let b := s.block n
  if b.st = .running && b.run.wdog ≠ 0 && b.wd ≥ b.run.wdog && !(s.wdHeld n) then s.blockFault n 3 0 (ErrI.of 0x0B) else s

def execStreamHang (b : Nat) (s : State) : Res := onUnit (b < 144) (s.hang b)

end Sys2Proof.Machine
end

