-- ==== Sys2Proof/Machine/Compute.lean ====
section
/-! DEFINITION. The execute stream's commands: array, accumulators, conversion, queues, vector and row instructions at
issue, and the events that end them (chapters 3 to 5, 7, 8). -/

namespace Sys2Proof.Machine

/-- Work already issued in a block goes on (R452): it is RUNNING or draining and its clock runs. -/
def State.works (s : State) (n : Nat) : Bool :=
  s.coreUp && !s.pwr.clkOff && s.clockOn n && (s.block n).st == .running

/-- An X-stream instruction of a context issues. -/
def State.issueX (s : State) (n : Nat) (c : Ctx) (isOp : Op → Bool) (f : Block → Nat → Iss Block) : State :=
  s.issue n (seqOf c) (fun w => isOp (opOf (seqOf c) w)) f

/-- MM in mode 0 (R78, R208). -/
def execMmMul (b : Nat) (c : Ctx) (s : State) : Res :=
  onUnit (b < 144) (s.issueX b c (fun o => o == .mm 0) (fun k w => k.issueMM (seqOf c) c w s.now))

/-- MM in mode 1 (R78, R208). -/
def execMmL1 (b : Nat) (c : Ctx) (s : State) : Res :=
  onUnit (b < 144) (s.issueX b c (fun o => o == .mm 1) (fun k w => k.issueMM (seqOf c) c w s.now))

/-- MM in mode 2 (R78, R208). -/
def execMmL2sq (b : Nat) (c : Ctx) (s : State) : Res :=
  onUnit (b < 144) (s.issueX b c (fun o => o == .mm 2) (fun k w => k.issueMM (seqOf c) c w s.now))

/-- MM in mode 3 (R78, R208). -/
def execMmMaxp (b : Nat) (c : Ctx) (s : State) : Res :=
  onUnit (b < 144) (s.issueX b c (fun o => o == .mm 3) (fun k w => k.issueMM (seqOf c) c w s.now))

/-- MM in mode 4 (R78, R208). -/
def execMmMinp (b : Nat) (c : Ctx) (s : State) : Res :=
  onUnit (b < 144) (s.issueX b c (fun o => o == .mm 4) (fun k w => k.issueMM (seqOf c) c w s.now))

/-- BLD (R68, R209). -/
def execBld (b : Nat) (c : Ctx) (s : State) : Res :=
  onUnit (b < 144) (s.issueX b c (fun o => o == .bld) (fun k w => k.issueBld (seqOf c) w))

/-- A stationary load reaches shadow complete (R70). -/
def execShadowLoadComplete (b : Nat) (s : State) : Res :=
  onUnit (b < 144) (if s.works b then s.putBlock b (s.block b).shadowDone else s)

/-- SWP (R71). -/
def execSwp (b : Nat) (c : Ctx) (s : State) : Res :=
  onUnit (b < 144) (s.issueX b c (fun o => o == .swp) (fun k w => k.issueSwp (seqOf c) w))

/-- The next pass of a streamed MM (R74, R75, R177). -/
def State.strmPass (s : State) (n : Nat) : State :=
  let b := s.block n
  match b.jobs.find? (fun j => match j.strm with | some x => decide (x.pass < x.passes) | none => false) with
  | none => s
  | some j =>
    if s.works n then
      match b.strmPass with
      | .hold => s
      | .fault e => s.jobFault n j e
      | .go b1 => s.putBlock n b1
    else s

def execStrmPassStart (b : Nat) (s : State) : Res := onUnit (b < 144) (s.strmPass b)

/-- Can the packer's hold time have passed (R81)? PACK_HOLD counts ARRAY_CLK cycles, two to a BLOCK_CLK cycle; the model sees
time in whole CRUST_CLK cycles of two STC ticks (log entry 114). -/
def State.holdOver (s : State) (n : Nat) : Bool :=
  packHold (s.block n) ≤ (s.now - (s.block n).packT + 2) * s.pwr.blockCycles

/-- The packer's hold time passes (R81). -/
def execPackHoldExpiry (b : Nat) (s : State) : Res :=
  onUnit (b < 144) (if s.works b && s.holdOver b then s.putBlock b (s.block b).flushPack else s)

/-- The verdict on the oldest slab (R88, R89): a failed comparison, parity or generation poisons its tiles and stops the block.
The record holds the pass number modulo 2^16, all that its field has (DESIGN CHOICE, log entry 120). -/
def State.slabVerdict (s : State) (n : Nat) : State :=
  let b := s.block n
  match b.slabs with
  | [] => s
  | sl :: _ =>
    if !(s.works n) then s
    else
      match sl.fail with
      | some g =>
        (s.putBlock n b.slabFail).blockFault n 3 0
          { ErrI.of 0x0F with spec := g % 4 + sl.row % 1024 * 4 + sl.pass % 65536 * 4096 }
      | none => s.putBlock n b.slabPass

def execSlabVerdict (b : Nat) (s : State) : Res := onUnit (b < 144) (s.slabVerdict b)

/-- The oldest CLOSING tile drains once every slab that wrote it has passed (R88, R97, R98, R106, R112, R116): a chain output goes
to another block as transfers. -/
def State.drain (s : State) (n : Nat) : State :=
  let b := s.block n
  match b.drains with
  | [] => s
  | id :: _ =>
    match b.job id with
    | none => s
    | some j =>
      match b.tileAt (jobBase j) with
      | none => s
      | some t =>
        if !(s.works n) || b.slabsOpen (jobBase j) then s
        else
          let r := b.drainJob j t
          let chain := !r.2.isEmpty
          let gate := match r.2 with | x :: _ => s.regionGate (x.1 / 2 ^ 21 / 36) | [] => .ok
          if chain && gate = .wait then s
          else
            let s1 := s.putBlock n r.1
            if !chain then s1
            else if gate = .refused then
              s1.jobErr n id { ErrI.of 0x18 with handle := (j.drain.map Prod.fst).getD 0xFF }
            else
              let (s2, k) := s1.nocSend n id r.2
              s2.updBlock n (fun b => b.updJob id (fun j => { j with rem := k }))

def execDrainComplete (b : Nat) (s : State) : Res := onUnit (b < 144) (s.drain b)

/-- SPL (R103, R210). -/
def execSpl (b : Nat) (c : Ctx) (s : State) : Res :=
  onUnit (b < 144) (s.issueX b c (fun o => o == .spl) (fun k w => k.issueSpl (seqOf c) c w))

/-- A spill finishes writing its wide buffer (R103). -/
def execSpillComplete (b : Nat) (s : State) : Res :=
  onUnit (b < 144) (if s.works b then (match (s.block b).spillDone with | some k => s.putBlock b k | none => s) else s)

/-- RSM (R104). -/
def execRsm (b : Nat) (c : Ctx) (s : State) : Res :=
  onUnit (b < 144) (s.issueX b c (fun o => o == .rsm) (fun k w => k.issueRsm (seqOf c) c w))

/-- CVT (R213). -/
def execCvt (b : Nat) (c : Ctx) (s : State) : Res :=
  onUnit (b < 144) (s.issueX b c (fun o => o == .cvt) (fun k w => k.issueCvt (seqOf c) w))

/-- Q.PUSH (R215). -/
def execQPush (b : Nat) (c : Ctx) (s : State) : Res :=
  onUnit (b < 144) (s.issueX b c (fun o => o == .qPush) (fun k w => k.issueQPush (seqOf c) w))

/-- Q.POP (R215). -/
def execQPop (b : Nat) (c : Ctx) (s : State) : Res :=
  onUnit (b < 144) (s.issueX b c (fun o => o == .qPop) (fun k w => k.issueQPop (seqOf c) w))

/-- An entry committed (R176): its data have come, so its job has only this part left. -/
def Block.commit (b : Block) (qn i : Nat) : Block :=
  match (b.q qn).ents[i]? with
  | none => b
  | some e =>
    match e.job.bind b.job with
    | none => b
    | some j =>
      if !e.done && j.started && j.rem = 1 && !j.done && j.err.isNone then
        (b.setQ qn (fun q => { q with ents := updAt q.ents i (fun e => { e with done := true }) })).updJob j.id
          (fun j => { j with rem := 0, done := true })
      else b

def execQueueEntryCommit (b qn i : Nat) (s : State) : Res :=
  onUnit (b < 144 && qn < 8) (if s.works b then s.updBlock b (fun k => k.commit qn i) else s)

/-- A VOP of a number, in FP32 or BF16 (Table 8-2). -/
def isVop (k : Nat) (o : Op) : Bool := match o with | .vop i _ => i == k | _ => false

/-- Is a VOP word the BF16 form? -/
def vopBf (q : Seq) (w : Nat) : Bool := match opOf q w with | .vop _ bf => bf | _ => false

/-- VOP number 0 of Table 8-2 (R122). -/
def execVopAdd (b : Nat) (c : Ctx) (s : State) : Res :=
  onUnit (b < 144) (s.issueX b c (isVop 0) (fun k w => k.issueVop (seqOf c) w 0 (vopBf (seqOf c) w)))

/-- VOP number 1 of Table 8-2 (R122). -/
def execVopSub (b : Nat) (c : Ctx) (s : State) : Res :=
  onUnit (b < 144) (s.issueX b c (isVop 1) (fun k w => k.issueVop (seqOf c) w 1 (vopBf (seqOf c) w)))

/-- VOP number 2 of Table 8-2 (R122). -/
def execVopMul (b : Nat) (c : Ctx) (s : State) : Res :=
  onUnit (b < 144) (s.issueX b c (isVop 2) (fun k w => k.issueVop (seqOf c) w 2 (vopBf (seqOf c) w)))

/-- VOP number 3 of Table 8-2 (R122). -/
def execVopFma (b : Nat) (c : Ctx) (s : State) : Res :=
  onUnit (b < 144) (s.issueX b c (isVop 3) (fun k w => k.issueVop (seqOf c) w 3 (vopBf (seqOf c) w)))

/-- VOP number 4 of Table 8-2 (R540). -/
def execVopMax (b : Nat) (c : Ctx) (s : State) : Res :=
  onUnit (b < 144) (s.issueX b c (isVop 4) (fun k w => k.issueVop (seqOf c) w 4 (vopBf (seqOf c) w)))

/-- VOP number 5 of Table 8-2 (R540). -/
def execVopMin (b : Nat) (c : Ctx) (s : State) : Res :=
  onUnit (b < 144) (s.issueX b c (isVop 5) (fun k w => k.issueVop (seqOf c) w 5 (vopBf (seqOf c) w)))

/-- VOP number 6 of Table 8-2 (R122). -/
def execVopAbs (b : Nat) (c : Ctx) (s : State) : Res :=
  onUnit (b < 144) (s.issueX b c (isVop 6) (fun k w => k.issueVop (seqOf c) w 6 (vopBf (seqOf c) w)))

/-- VOP number 7 of Table 8-2 (R122). -/
def execVopNeg (b : Nat) (c : Ctx) (s : State) : Res :=
  onUnit (b < 144) (s.issueX b c (isVop 7) (fun k w => k.issueVop (seqOf c) w 7 (vopBf (seqOf c) w)))

/-- VOP number 8 of Table 8-2 (R122). -/
def execVopDiv (b : Nat) (c : Ctx) (s : State) : Res :=
  onUnit (b < 144) (s.issueX b c (isVop 8) (fun k w => k.issueVop (seqOf c) w 8 (vopBf (seqOf c) w)))

/-- VOP number 9 of Table 8-2 (R122). -/
def execVopSqrt (b : Nat) (c : Ctx) (s : State) : Res :=
  onUnit (b < 144) (s.issueX b c (isVop 9) (fun k w => k.issueVop (seqOf c) w 9 (vopBf (seqOf c) w)))

/-- VOP number 10 of Table 8-2 (R122). -/
def execVopRcp (b : Nat) (c : Ctx) (s : State) : Res :=
  onUnit (b < 144) (s.issueX b c (isVop 10) (fun k w => k.issueVop (seqOf c) w 10 (vopBf (seqOf c) w)))

/-- VOP number 11 of Table 8-2 (R122). -/
def execVopRsqrt (b : Nat) (c : Ctx) (s : State) : Res :=
  onUnit (b < 144) (s.issueX b c (isVop 11) (fun k w => k.issueVop (seqOf c) w 11 (vopBf (seqOf c) w)))

/-- VOP number 12 of Table 8-2 (R122). -/
def execVopExp (b : Nat) (c : Ctx) (s : State) : Res :=
  onUnit (b < 144) (s.issueX b c (isVop 12) (fun k w => k.issueVop (seqOf c) w 12 (vopBf (seqOf c) w)))

/-- VOP number 13 of Table 8-2 (R122). -/
def execVopExp2 (b : Nat) (c : Ctx) (s : State) : Res :=
  onUnit (b < 144) (s.issueX b c (isVop 13) (fun k w => k.issueVop (seqOf c) w 13 (vopBf (seqOf c) w)))

/-- VOP number 14 of Table 8-2 (R122). -/
def execVopLog (b : Nat) (c : Ctx) (s : State) : Res :=
  onUnit (b < 144) (s.issueX b c (isVop 14) (fun k w => k.issueVop (seqOf c) w 14 (vopBf (seqOf c) w)))

/-- VOP number 15 of Table 8-2 (R122). -/
def execVopLog2 (b : Nat) (c : Ctx) (s : State) : Res :=
  onUnit (b < 144) (s.issueX b c (isVop 15) (fun k w => k.issueVop (seqOf c) w 15 (vopBf (seqOf c) w)))

/-- VOP number 16 of Table 8-2 (R122). -/
def execVopTanh (b : Nat) (c : Ctx) (s : State) : Res :=
  onUnit (b < 144) (s.issueX b c (isVop 16) (fun k w => k.issueVop (seqOf c) w 16 (vopBf (seqOf c) w)))

/-- VOP number 17 of Table 8-2 (R122). -/
def execVopSigm (b : Nat) (c : Ctx) (s : State) : Res :=
  onUnit (b < 144) (s.issueX b c (isVop 17) (fun k w => k.issueVop (seqOf c) w 17 (vopBf (seqOf c) w)))

/-- VOP number 18 of Table 8-2 (R122). -/
def execVopCmpEq (b : Nat) (c : Ctx) (s : State) : Res :=
  onUnit (b < 144) (s.issueX b c (isVop 18) (fun k w => k.issueVop (seqOf c) w 18 (vopBf (seqOf c) w)))

/-- VOP number 19 of Table 8-2 (R122). -/
def execVopCmpNe (b : Nat) (c : Ctx) (s : State) : Res :=
  onUnit (b < 144) (s.issueX b c (isVop 19) (fun k w => k.issueVop (seqOf c) w 19 (vopBf (seqOf c) w)))

/-- VOP number 20 of Table 8-2 (R122). -/
def execVopCmpLt (b : Nat) (c : Ctx) (s : State) : Res :=
  onUnit (b < 144) (s.issueX b c (isVop 20) (fun k w => k.issueVop (seqOf c) w 20 (vopBf (seqOf c) w)))

/-- VOP number 21 of Table 8-2 (R122). -/
def execVopCmpLe (b : Nat) (c : Ctx) (s : State) : Res :=
  onUnit (b < 144) (s.issueX b c (isVop 21) (fun k w => k.issueVop (seqOf c) w 21 (vopBf (seqOf c) w)))

/-- VOP number 22 of Table 8-2 (R122). -/
def execVopSel (b : Nat) (c : Ctx) (s : State) : Res :=
  onUnit (b < 144) (s.issueX b c (isVop 22) (fun k w => k.issueVop (seqOf c) w 22 (vopBf (seqOf c) w)))

/-- VOP number 23 of Table 8-2 (R125). -/
def execVopRsum (b : Nat) (c : Ctx) (s : State) : Res :=
  onUnit (b < 144) (s.issueX b c (isVop 23) (fun k w => k.issueVop (seqOf c) w 23 (vopBf (seqOf c) w)))

/-- VOP number 24 of Table 8-2 (R125). -/
def execVopRmax (b : Nat) (c : Ctx) (s : State) : Res :=
  onUnit (b < 144) (s.issueX b c (isVop 24) (fun k w => k.issueVop (seqOf c) w 24 (vopBf (seqOf c) w)))

/-- VOP number 25 of Table 8-2 (R125). -/
def execVopRmin (b : Nat) (c : Ctx) (s : State) : Res :=
  onUnit (b < 144) (s.issueX b c (isVop 25) (fun k w => k.issueVop (seqOf c) w 25 (vopBf (seqOf c) w)))

/-- VOP number 26 of Table 8-2 (R125). -/
def execVopRssq (b : Nat) (c : Ctx) (s : State) : Res :=
  onUnit (b < 144) (s.issueX b c (isVop 26) (fun k w => k.issueVop (seqOf c) w 26 (vopBf (seqOf c) w)))

/-- VOP.ACC (R126). -/
def execVopAcc (b : Nat) (c : Ctx) (s : State) : Res :=
  onUnit (b < 144) (s.issueX b c (isVop 27) (fun k w => k.issueAcc (seqOf c) c w))

/-- VOP.MSET (R211). -/
def execVopMset (b : Nat) (c : Ctx) (s : State) : Res :=
  onUnit (b < 144) (s.issueX b c (isVop 28) (fun k w => k.issueMset (seqOf c) w))

/-- ROW operation 0 (R133). -/
def execRowLnF (b : Nat) (c : Ctx) (s : State) : Res :=
  onUnit (b < 144) (s.issueX b c (fun o => o == .row 0) (fun k w => k.issueRow (seqOf c) w 0))

/-- ROW operation 1 (R133). -/
def execRowLnB (b : Nat) (c : Ctx) (s : State) : Res :=
  onUnit (b < 144) (s.issueX b c (fun o => o == .row 1) (fun k w => k.issueRow (seqOf c) w 1))

/-- ROW operation 2 (R133). -/
def execRowRmsF (b : Nat) (c : Ctx) (s : State) : Res :=
  onUnit (b < 144) (s.issueX b c (fun o => o == .row 2) (fun k w => k.issueRow (seqOf c) w 2))

/-- ROW operation 3 (R133). -/
def execRowRmsB (b : Nat) (c : Ctx) (s : State) : Res :=
  onUnit (b < 144) (s.issueX b c (fun o => o == .row 3) (fun k w => k.issueRow (seqOf c) w 3))

/-- ROW operation 4 (R134). -/
def execRowSmF (b : Nat) (c : Ctx) (s : State) : Res :=
  onUnit (b < 144) (s.issueX b c (fun o => o == .row 4) (fun k w => k.issueRow (seqOf c) w 4))

/-- ROW operation 5 (R134). -/
def execRowSmB (b : Nat) (c : Ctx) (s : State) : Res :=
  onUnit (b < 144) (s.issueX b c (fun o => o == .row 5) (fun k w => k.issueRow (seqOf c) w 5))

/-- ROW operation 6 (R137). -/
def execRowSmCh (b : Nat) (c : Ctx) (s : State) : Res :=
  onUnit (b < 144) (s.issueX b c (fun o => o == .row 6) (fun k w => k.issueRow (seqOf c) w 6))

/-- ROW operation 7 (R138). -/
def execRowSmMrg (b : Nat) (c : Ctx) (s : State) : Res :=
  onUnit (b < 144) (s.issueX b c (fun o => o == .row 7) (fun k w => k.issueRow (seqOf c) w 7))

/-- ROW operation 8 (R138). -/
def execRowGet (b : Nat) (c : Ctx) (s : State) : Res :=
  onUnit (b < 144) (s.issueX b c (fun o => o == .row 8) (fun k w => k.issueRow (seqOf c) w 8))

/-- ROW operation 9 (R132). -/
def execRowSt (b : Nat) (c : Ctx) (s : State) : Res :=
  onUnit (b < 144) (s.issueX b c (fun o => o == .row 9) (fun k w => k.issueRow (seqOf c) w 9))

/-- ROW operation 10 (R132). -/
def execRowLd (b : Nat) (c : Ctx) (s : State) : Res :=
  onUnit (b < 144) (s.issueX b c (fun o => o == .row 10) (fun k w => k.issueRow (seqOf c) w 10))

end Sys2Proof.Machine
end

