-- ==== Sys2Proof/Machine/Units.lean ====
section
/-! DEFINITION. Block-to-block transfers, region stores, scratchpad scrub and wipe, and the start and gating of block clocks
(chapters 6 and 16). -/

namespace Sys2Proof.Machine

/-- A transfer arrives whole (R159): `bad` says that its check does not match. One that brings what a block reads ends a part
of the reader's instruction; one that writes, a part of the sender's. -/
def State.nocDeliver (s : State) (src dst : Nat) (bad : Bool) : State :=
  match s.noc.find? (fun t => t.src == src && t.dst == dst) with
  | none => s
  | some t =>
    let s1 := { s with noc := s.noc.erase t }
    let touches := !t.rd && t.runs.any (fun r => inSecure r.1 r.2.length)
    let b := s.block dst
    match s.regionGate (dst / 36) with
    | .wait => s
    | .refused => s1.jobErr src t.job { ErrI.of 0x18 with arg := dst * 2 ^ 21 + ((t.runs.head?).map Prod.fst).getD 0 }
    | .ok =>
      if b.wiping && touches then s
      else if bad || seqFor b.nocIn src ≠ t.seq then
        { s1.updBlock dst (fun b => b.count cE2e 1) with
          nocFail := s.nocFail ++ [(if t.rd then dst else src, t.job, dst + 65536 * t.seq + 2 ^ 24 * (if bad then 1 else 2))] }
      else
        let s2 := s1.updBlock dst (fun b => { b with nocIn := seqNext b.nocIn src })
        if t.rd then
          (s2.updBlock dst (fun b => b.updJob t.job (fun j => { j with got := j.got ++ t.runs }))).jobPart dst t.job
        else if b.sec && touches then
          s2.jobErr src t.job { ErrI.of 0x17 with arg := dst * 2 ^ 21 + ((t.runs.head?).map Prod.fst).getD 0 }
        else (s2.putBlock dst ((s2.block dst).writeR t.runs)).jobPart src t.job

def execNocTransferDelivery (src dst : Nat) (bad : Bool) (s : State) : Res :=
  onPart s (src < 144 && dst < 144) (s.nocDeliver src dst bad)

/-- The failure response of a discarded transfer reaches the block whose instruction it served (R159): ARG names the destination
block, the sequence number in bits 23:16 and the cause in bits 25:24 (log entries 22 and 127). -/
def State.nocE2e (s : State) (n : Nat) : State :=
  match s.nocFail.find? (fun f => f.1 == n) with
  | none => s
  | some f =>
    let s1 := { s with nocFail := s.nocFail.erase f }
    match (s.block n).job f.2.1 with
    | some j => s1.jobFault n j { ErrI.of 0x19 with arg := f.2.2 }
    | none => s1

def execNocE2e (b : Nat) (s : State) : Res := onPart s (b < 144) (s.nocE2e b)

/-- An access at a region store bank takes effect (R156). -/
def State.storeNow (s : State) (r : Nat) (a : RAcc) : State :=
  if a.wr then s.putRegion r ((s.region r).writeR a.off ((fitTo a.len a.data).map (fun b => (b, false))))
  else
    let bs := (s.region r).store.readP a.off a.len
    let s1 := s.putRegion r ((s.region r).touch a.off a.len)
    { s1 with out := s1.out ++ [.read (bs.map Prod.fst) (bs.any Prod.snd)] }

/-- An access reaches a region store: served, waiting on a move, or refused (R24, R156, R445). -/
def State.storeAccess (s : State) (r : Nat) (a : RAcc) : State :=
  match s.regionGate r with
  | .ok => s.storeNow r a
  | .wait => s.updRegion r (fun g => { g with waits := g.waits ++ [a] })
  | .refused => { s with out := s.out ++ [.abort] }

def execRegionStoreAccess (r : Nat) (wr : Bool) (off len : Nat) (data : List Byte) (s : State) : Res :=
  onPart s (r < 4 && off + len ≤ 2 ^ 24) (s.storeAccess r ⟨wr, off, len, data⟩)

/-- The scrub tick (R151): one word read, corrected or poisoned. -/
def Block.scrubTick (b : Block) : Block :=
  let w := b.scrubAt
  let b1 := match b.spad.state w with
    | .corrected _ _ => { b with
        spad := b.spad.fix w, ctr := ctrAdd b.ctr cSpadCorr 1, corrNow := updAt b.corrNow 0 (· + 1) }
    | .uncorrectable => { b with
        spad := b.spad.poison w, ctr := ctrAdd b.ctr cSpadUnc 1, evs := b.evs ++ [(0x0102, 32 * w, 0)] }
    | _ => b
  if w + 1 ≥ 65536 then { b1 with scrubAt := 0, ctr := ctrAdd b1.ctr cScrub 1 } else { b1 with scrubAt := w + 1 }

/-- The scrubber runs while the region is ARMED or RUN (R152). -/
def State.scrubOn (s : State) (n : Nat) : Bool :=
  s.coreUp && !s.pwr.clkOff && (match (s.region (n / 36)).st with | .armed => true | .run => true | _ => false)

def execScratchpadScrubTick (b : Nat) (s : State) : Res :=
  onUnit (b < 144) (if s.scrubOn b then s.putBlock b (s.block b).scrubTick else s)

/-- The secure partition begins to be zero-filled (R155). -/
def Block.startWipe (b : Block) (clear : Bool) : Block :=
  { b with wiping := true, clearSec := b.clearSec || clear }

/-- The zero-fill ends (R155): accesses proceed, and SEC clears where the wipe was for that. -/
def Block.endWipe (b : Block) : Block :=
  if b.wiping then
    { b with spad := b.spad.zero secBase (2 ^ 18), wiping := false, sec := b.sec && !b.clearSec, clearSec := false }
  else b

/-- The last wipe of a tamper event done (R518): regions raised for it return to RETAIN. -/
def State.tamperDone (s : State) (n : Nat) : State :=
  if s.sec.tamper.contains n then
    let rest := s.sec.tamper.filter (fun b => b != n)
    let s1 := { s with sec := { s.sec with tamper := rest } }
    if rest.isEmpty then
      s.sec.tamperRet.foldl (fun t r => t.updRegion r (fun g => { g with move := some (.retain, s.now + 500), goal := .retain }))
        { s1 with sec := { s1.sec with tamperRet := [] } }
    else s1
  else s

/-! Block start (R165, R446). -/

/-- A queue configuration from its 64 bits (Table 7-8). -/
def qcfgOf (w : Nat) : QCfg := ⟨bit w 49, bit w 48, bits w 32 16, bits w 0 21⟩

/-- Fields of the image header that a run uses (Table 7-2). -/
def runOf (h : List Byte) : RunHdr :=
  ⟨fld h 8 2, fld h 10 2, fld h 12 2, fld h 20 4, bit (fld h 6 1) 0⟩

/-- The kept image header applied (R165). -/
def Block.applyStart (b : Block) : Block :=
  let h := b.kept
  let r := runOf h
  let b1 := b.flushPack
  { b1 with
    qs := (List.range 8).map (fun i => ⟨qcfgOf (fld h (192 + 8 * i) 8), 0, []⟩)
    toks := (List.range 64).map (fun i => fld h (64 + 2 * i) 2)
    arrCtl := fld h 16 4 &&& 0xFFC1
    sec := b.sec || r.secure
    wiping := b.wiping || (b.sec && !r.secure)
    clearSec := b.clearSec || (b.sec && !r.secure)
    maskF := List.replicate 8 maskAll
    maskB := List.replicate 8 maskAll
    tiles := []
    drains := []
    markF := 0
    markB := 0
    seqA := ⟨0, [], none⟩
    seqF := ⟨0, [], none⟩
    seqB := ⟨r.xEntryB, [], none⟩
    run := r
    st := .running
    stopping := false
    fault := 0
    jobs := []
    fences := []
    wd := 0
    idle := 0 }

/-- A start message reaches its block (R446): in an ARMED region its clock is admitted in order of arrival. -/
def State.startMessage (s : State) (n : Nat) : State :=
  if s.starts.contains n then
    let s1 := { s with starts := s.starts.erase n }
    let r := n / 36
    match (s.region r).st with
    | .run => (s1.updBlock n Block.applyStart).checkDone n
    | .armed =>
      let s2 := s1.updBlock n Block.applyStart
      if (s.block n).clk = .running then s2.checkDone n
      else (s2.updBlock n (fun b => { b with clk := .admitted })).updRegion r (fun g => { g with waiting := g.waiting ++ [n] })
    | _ => s1
  else s

def execBlockStartMessage (b : Nat) (s : State) : Res := onPart s (b < 144) (s.startMessage b)

/-- The oldest admitted clock of a region finishes its ramp (R446); ramps hold during a supply pause (R452). -/
def State.rampDone (s : State) (n : Nat) : State :=
  let r := n / 36
  match (s.region r).waiting with
  | m :: rest =>
    if m = n && s.issueOn then
      ((s.updRegion r (fun g => { g with waiting := rest })).updBlock n (fun b => { b with clk := .running, idle := 0 })).checkDone n
    else s
  | [] => s

def execBlockClockRampComplete (b : Nat) (s : State) : Res := onUnit (b < 144) (s.rampDone b)

/-- A block of an ARMED region that has been idle for 64 cycles gates its clock (R446). -/
def State.clockGate (s : State) (n : Nat) : State :=
  let b := s.block n
  let ended := b.st == .done || b.st == .stopped || b.st == .faulted
  if (s.region (n / 36)).st = .armed && b.clk = .running && ended && b.jobs.isEmpty && b.idle ≥ 64 then
    s.updBlock n (fun b => { b with clk := .gated })
  else s

def execBlockClockGate (b : Nat) (s : State) : Res := onPart s (b < 144) (s.clockGate b)

end Sys2Proof.Machine
end

