-- ==== Sys2Proof/Machine/SueOps.lean ====
section
/-! DEFINITION. Pins and the stack update engines as the part sees them: requests, grants and releases, triggers, passes,
step close, rollback, deadlines, and rows of memory-side adds (chapters 9 to 11). -/

namespace Sys2Proof.Machine

/-- The stack that holds a binding (R262). -/
def State.bindStack (s : State) (layer : Nat) : Option Nat :=
  (List.range numStacks).find? (fun n => ((s.stack n).sue.bind layer).isSome)

/-- The answer of a binding to a pin request, and the stack after it (R263, R271, R272). -/
def State.askPin (s : State) (layer : Nat) : PinAns × State :=
  match s.bindStack layer with
  | none => (.refused 1, s)
  | some n =>
    match (s.stack n).sue.bind layer with
    | none => (.refused 1, s)
    | some b =>
      if b.split && (b.writing || b.rolling) then
        (.held n (s.stack n).sue.asked, s.updStack n (fun k => { k with sue := { k.sue with asked := k.sue.asked + 1 } }))
      else if b.pins b.slot ≥ 65535 then (.refused 2, s)
      else (.granted n b.slot b.pubVer, s.updStack n (fun k => k.updBind layer (fun b => b.addPin b.slot)))

/-- A block's pin request answered. -/
def Block.answer (b : Block) (req : Nat) (a : PinAns) : Block :=
  { b with pinq := b.pinq.map (fun r => if r.req = req then { r with ans := a } else r) }

/-- A held request put in its place by order of arrival. -/
def insertHeld (x : Nat × Nat × PinReq) : List (Nat × Nat × PinReq) → List (Nat × Nat × PinReq)
  | [] => [x]
  | y :: ys => if x.1 ≤ y.1 then x :: y :: ys else y :: insertHeld x ys

/-- The requests that a stack's bindings hold, in the order in which they arrived: (order, block, request). -/
def State.heldPins (s : State) (n : Nat) : List (Nat × Nat × PinReq) :=
  ((List.range numBlocks).flatMap (fun b => (s.block b).pinq.filterMap (fun r => match r.ans with
    | .held m k => if m = n then some (k, b, r) else none
    | _ => none))).foldr insertHeld []

/-- Held requests of a stack whose bindings are no longer being written are granted, in arrival order (R272, R307). -/
def State.settle (s : State) (n : Nat) : State :=
  (s.heldPins n).foldl (fun t x =>
    match t.askPin x.2.2.layer with
    | (.held _ _, _) => t
    | (a, t1) => t1.updBlock x.2.1 (fun b => b.answer x.2.2.req a)) s

/-- A stack put back after its SUE acted. -/
def State.putSue (s : State) (n : Nat) (k : Stack) : State := (s.putStack n k).settle n

/-- A pin request reaches the hub and the binding (R263, R271). -/
def State.pinRequest (s : State) (n h : Nat) : State :=
  match (s.block n).pinq.find? (fun r => r.h == h && r.ans == .waiting) with
  | none => s
  | some r =>
    let (a, s1) := s.askPin r.layer
    s1.updBlock n (fun b => b.answer r.req a)

def execPinRequest (b h : Nat) (s : State) : Res := onPart s (b < 144) (s.pinRequest b h)

/-- A job's copy of a handle takes the granted slot (R265). -/
def Job.grant (j : Job) (req slot : Nat) : Job :=
  match j.awaits.find? (fun hr => hr.2 == req) with
  | none => j
  | some hr => { j with
      awaits := j.awaits.filter (fun x => x.2 != req)
      descs := j.descs.map (fun x => if x.1 = hr.1 then (x.1, toSlot x.2 slot) else x)
      strm := j.strm.map (fun m => { m with bd := toSlot m.bd slot }) }

/-- A stationary load or a streamed MM whose grant has come begins its reads (R265). -/
def Block.startLocal (b : Block) (id : Nat) : Block :=
  match b.job id with
  | none => b
  | some j =>
    if j.started || !j.awaits.isEmpty then b
    else
      match j.kind with
      | .mm => b.updJob id (fun j => { j with started := true })
      | .bld =>
        let d := ((j.descs.head?).map Prod.snd).getD 0
        let set := b.tileOf d (arrFmt (bits j.word 37 3)) (bit j.word 40) 0 (dN0 d) b.gen
        let b1 := b.updJob id (fun j => { j with started := true })
        (({ b1 with loading := b1.loading.map (fun (l : Nat × TSet) => if l.1 = id then (id, set) else l) }).touch (dRuns d)).countTile set
      | _ => b

/-- A pin grant reaches the block (R263, R265): the handle becomes PINNED, or, where the request was superseded, its pin is
released once the instructions issued under it have completed. -/
def State.pinGrant (s : State) (n h : Nat) : State :=
  let b := s.block n
  match b.pinq.find? (fun r => r.h == h && (match r.ans with | .granted _ _ _ => true | _ => false)) with
  | none => s
  | some r =>
    match r.ans with
    | .granted _ slot ver =>
      let users := (b.jobs.filter (fun j => j.awaits.any (fun x => x.2 == r.req))).map Job.id
      let b1 := { b with pinq := b.pinq.filter (fun x => x.req != r.req), jobs := b.jobs.map (fun (j : Job) => j.grant r.req slot) }
      let b2 := if r.sup then { b1 with rels := b1.rels ++ [PinRel.mk h r.layer slot users] }
        else b1.setPin { h := h, pinned := true, pending := false, slot := slot, layer := r.layer, ver := ver, req := r.req }
      let s1 := s.putBlock n (users.foldl Block.startLocal b2)
      (users.foldl (fun t id => t.startAccess n id) s1).checkDone n
    | _ => s

/-- A pin refusal reaches the block, which stops (R271). -/
def State.pinRefused (s : State) (n h : Nat) : State :=
  let b := s.block n
  match b.pinq.find? (fun r => r.h == h && (match r.ans with | .refused _ => true | _ => false)) with
  | none => s
  | some r =>
    match r.ans with
    | .refused sub =>
      let b1 := { b with pinq := b.pinq.filter (fun x => x.req != r.req) }
      let b2 := if r.sup then b1 else b1.setPin ⟨h, false, false, 0, 0, 0, 0⟩
      ((s.putBlock n b2).blockFault n (srcOf r.seq) r.pc { ErrI.of 0x1B with sub := sub, handle := h, arg := r.layer }).checkDone n
    | _ => s

def execPinRefused (b h : Nat) (s : State) : Res := onPart s (b < 144) (s.pinRefused b h)

/-- A release counted at its binding: a writer that waited for the slot rejoins the queue (R264, R267, R283). -/
def Stack.release (k : Stack) (layer slot : Nat) : Stack :=
  let k1 := k.updBind layer (fun b => b.subPin slot)
  match k1.sue.bind layer with
  | none => k1
  | some b =>
    match b.trig with
    | some t =>
      if t.phase = .waiting && b.pins b.nextSlot = 0 then
        let k2 := k1.updBind layer (fun b => { b with trig := some { t with phase := .queued } })
        { k2 with sue := { k2.sue with queue := k2.sue.queue ++ [layer] } }
      else k1
    | none => k1

/-- A pin release reaches the binding once the instructions that named the handle have completed (R264). -/
def State.pinRelease (s : State) (n h : Nat) : State :=
  let b := s.block n
  match b.rels.find? (fun r => r.h == h && r.after.all (fun i => (b.job i).isNone)) with
  | none => s
  | some r =>
    let s1 := s.updBlock n (fun b => { b with rels := b.rels.erase r })
    match s.bindStack r.layer with
    | none => s1
    | some k => s1.updStack k (fun st => st.release r.layer r.slot)

def execPinRelease (b h : Nat) (s : State) : Res := onPart s (b < 144) (s.pinRelease b h)

/-! Triggers, passes, step close. -/

/-- A write to a stack by a unit outside: accepted, or held at the edge of a sleeping stack, which it wakes (R24, R447). -/
def State.storeIf (s : State) (n off : Nat) (bs : List PByte) : State :=
  match s.stackGate n with
  | .ok => (s.storeStack n off bs).settle n
  | .wait => (s.wakeStack n).updStack n (fun k => { k with edge := k.edge ++ [(off, bs)] })
  | .refused => s

def cleanBytes (bs : List Byte) : List PByte := bs.map (fun b => (b, false))

/-- A write to a binding's trigger word (R281, R282). -/
def State.triggerWrite (s : State) (n layer w : Nat) : State :=
  match (s.stack n).sue.bind layer with
  | none => s
  | some b => s.storeIf n b.trigOff (cleanBytes (toLE 8 w))

def execTriggerWrite (n layer w : Nat) (s : State) : Res := onPart s (n < 12) (s.triggerWrite n layer w)

/-- A write to the step word (R303, R305). -/
def State.stepWrite (s : State) (n w : Nat) : State :=
  match (s.stack n).sue.stepOff with
  | none => s
  | some o => s.storeIf n o (cleanBytes (toLE 8 w))

def execStepWordWrite (n w : Nat) (s : State) : Res := onPart s (n < 12) (s.stepWrite n w)

/-- Has the slice more than 512 parts (R301)? -/
def FabS.bigSlice (f : FabS) : Bool := f.slice != 0 && decide (f.boxParts > 512)

/-- The step closes (R305). -/
def execStepClose (n : Nat) (s : State) : Res :=
  onPart s (n < 12) (s.putSue n ((s.stack n).close s.now s.fab.bigSlice))

/-- A split or rows rollback ends, and held pin requests are granted (R307). -/
def execRollbackComplete (n layer : Nat) (s : State) : Res :=
  onPart s (n < 12) (s.putSue n ((s.stack n).rollbackDone layer))

/-- The SUBJECT of an update's deadline record (Table 13-8). -/
def updSubject (n layer : Nat) : Nat := n * 2 ^ 28 + layer % 65536

/-- The deadline of a trigger that is queued, held, running or gathering passes (R285, R368). -/
def State.layerDeadline (s : State) (n layer : Nat) : State :=
  match (s.stack n).sue.bind layer with
  | none => s
  | some b =>
    match b.trig with
    | none => s
    | some t =>
      match t.dl with
      | none => s
      | some dl =>
        if t.phase ≠ .waiting && !t.miss && s.now ≥ dl && s.dlOn 1 then
          let s1 := s.updStack n (fun k => k.updBind layer (fun b => { b with trig := some { t with miss := true } }))
          s1.miss lvStack n 0 (s1.dlRec dl 1 0 [s.fab.node] (updSubject n layer))
        else s

def execLayerUpdateDeadline (n layer : Nat) (s : State) : Res := onPart s (n < 12) (s.layerDeadline n layer)

/-- Blocks that hold pins on a slot of a binding (R269). -/
def State.pinHolders (s : State) (layer slot : Nat) : List Nat :=
  (List.range numBlocks).filter (fun b => (s.block b).pins.any (fun p => p.pinned && p.layer == layer && p.slot == slot))

/-- The deadline tick arrives while the writer waits on pins (R269): the update is abandoned. -/
def State.pinDeadline (s : State) (n layer : Nat) : State :=
  match (s.stack n).sue.bind layer with
  | none => s
  | some b =>
    match b.trig with
    | none => s
    | some t =>
      match t.dl with
      | none => s
      | some dl =>
        if t.phase = .waiting && !t.noPin && s.now ≥ dl && s.dlOn 2 then
          let rec_ := s.dlRec dl 2 0 (s.pinHolders layer b.nextSlot) (updSubject n layer)
          (s.putSue n ((s.stack n).abandon s.now layer)).miss lvStack n 0 rec_
        else s

def execPinDeadline (n layer : Nat) (s : State) : Res := onPart s (n < 12) (s.pinDeadline n layer)

/-! Memory-side adds (R248 to R250, R296). -/

/-- Touch bits of the rows bindings whose gradient stream an element lies in (R296). -/
def Stack.touchRow (k : Stack) (now off : Nat) : Stack :=
  (k.sue.binds.filter Bind.rowsL).foldl (fun kk b =>
    let g := b.gradS
    let w := max 1 (stW g)
    if stAddr g ≤ off && off < stAddr g + b.elems * w then kk.setTouch now 2 b ((off - stAddr g) / w / b.rowLen) true else kk) k

/-- Elements of one word as they are applied: the word's bytes and poison mark, what each element found (place, value, mark), what
each stored (offset, bytes), and the counts of those that saturate or become non-finite. -/
structure ScaAcc where
  bs   : List Byte
  bad  : Bool
  olds : List (Nat × Nat × Bool)
  news : List (Nat × List Byte)
  sat  : Nat
  nf   : Nat
  deriving DecidableEq, Repr

/-- One element applied to the word (R248 to R250); beside poison it is no arithmetic event. -/
def ScaAcc.step (f : Fmt) (op : Nat) (sat : Bool) (a : ScaAcc) (e : Nat × Nat × Nat × Bool) : ScaAcc :=
  let w := f.width / 8
  let o := e.2.1 % 32
  let d := ofLE ((a.bs.drop o).take w)
  let r := msaOp f op sat d e.2.2.1
  let bad := a.bad || e.2.2.2
  let new := toLE w r.1
  { bs := overlay a.bs o new, bad := bad, olds := a.olds ++ [(e.1, d, a.bad)], news := a.news ++ [(e.2.1, new)]
    sat := a.sat + b2n (!bad && r.2.1), nf := a.nf + b2n (!bad && r.2.2) }

/-- Adjacent elements of one word applied by one read and one write of it (R248). A word among the last 512 that the adders
updated is not read again (R249). The stack, what each element found, and whether the word is written poisoned. -/
def Stack.scaWord (k : Stack) (now pol : Nat) (f : Fmt) (op : Nat) (sat : Bool) (word : Nat)
    (els : List (Nat × Nat × Nat × Bool)) : Stack × List (Nat × Nat × Bool) × Bool :=
  let k1 := (if k.recent.contains word then k else k.readReq now 2 (32 * word) 32).touchRow now ((els.headD (0, 0, 0, false)).2.1)
  let old := k1.readP (32 * word) 32
  let a := els.foldl (ScaAcc.step f op sat) ⟨old.map Prod.fst, old.any Prod.snd, [], [], 0, 0⟩
  let mark (bs : List Byte) : List PByte := bs.map (fun x => (x, a.bad))
  let k2 := a.news.foldl (fun kk x => kk.heard now pol x.1 (mark x.2)) (k1.put now false (32 * word) (mark a.bs))
  let k3 := ((k2.count sMsaOps els.length).count sMsaSat a.sat).count sMsaNf a.nf
  let rec0 := k3.recent.filter (fun x => x != word) ++ [word]
  ({ k3 with recent := rec0.drop (rec0.length - 512) }, a.olds, a.bad)

/-- Elements in order, adjacent ones of one word together. -/
def byWord : List (Nat × Nat × Nat × Bool) → List (Nat × List (Nat × Nat × Nat × Bool))
  | [] => []
  | e :: l =>
    match byWord l with
    | (w, es) :: t => if e.2.1 / 32 = w then (w, e :: es) :: t else (e.2.1 / 32, [e]) :: (w, es) :: t
    | [] => [(e.2.1 / 32, [e])]

/-- Elements applied in order: the stack, each element's place, value before and mark, and whether a word is written poisoned. -/
def Stack.scaEls (k : Stack) (now pol : Nat) (f : Fmt) (op : Nat) (sat : Bool) (els : List (Nat × Nat × Nat × Bool)) :
    Stack × List (Nat × Nat × Bool) × Bool :=
  (byWord els).foldl (fun (st : Stack × List (Nat × Nat × Bool) × Bool) we =>
    let (k1, o, b) := st.1.scaWord now pol f op sat we.1 we.2
    (k1, st.2.1 ++ o, st.2.2 || b)) (k, [], false)

/-- An arriving row is applied, and its job hears of it (R217, R249). -/
def State.scaApply (s : State) (n : Nat) : State :=
  match (s.stack n).scas with
  | [] => s
  | r :: rest =>
    match s.stackGate n with
    | .wait => s.wakeStack n
    | .refused => s
    | .ok =>
      let k0 := { s.stack n with scas := rest }
      let (k1, olds, bad) := k0.scaEls s.now s.time.policy r.fmt r.op r.sat r.els
      let s0 := s.putSue n k1
      let w := r.fmt.width / 8
      match r.who with
      | .block b job =>
        let s1 := s0.updBlock b (fun bb => bb.updJob job (fun j => { j with flags := j.flags ||| (32 * b2n bad) }))
        let s2 := if r.ret then s1.updBlock b (fun bb => bb.updJob job (fun j => { j with
            got := j.got ++ olds.map (fun o => ((r.row + o.1) * w, (toLE w o.2.1).map (fun x => (x, o.2.2)))) }))
          else s1
        s2.jobPart b job

def execScaRowApply (n : Nat) (s : State) : Res := onPart s (n < 12) (s.scaApply n)

end Sys2Proof.Machine
end

