-- ==== Sys2Proof/Machine/CollPlan.lean ====
section
/-! DEFINITION. The order of a collective's data (R350 to R355): which pieces a member sends and receives on each chain,
where their bytes lie, and the payloads of COLL packets. A chain is a direction (0 ascending, 1 descending); an all-to-all
has one for each member. A piece is a packet of 64 bytes of a segment, element bytes first and scale bytes after them (log
entry 23). -/

namespace Sys2Proof.Machine

def Coll.p (c : Coll) : Nat := c.members.length

/-- Does the collective reduce? -/
def Coll.red (c : Coll) : Bool := c.kind == 0 || c.kind == 2

/-- The + half of m elements (R350); the whole of 32 or fewer. -/
def halfOf (m : Nat) : Nat := min m (32 * cdiv m 64)

def Coll.chains (c : Coll) : List Nat := if c.kind = 4 then List.range c.p else [0, 1]

/-- Segments (phase, chunk) that the member at position `i` sends on chain `d`, in order (R350 to R352). -/
def Coll.sendsAt (c : Coll) (i d : Nat) : List (Nat × Nat) :=
  let p := c.p
  if p ≤ 1 || c.form = .close then []
  else if c.kind = 4 then (if d = i || d ≥ p then [] else [(1, d)])
  else if c.kind = 5 then
    if d ≠ c.dir then []
    else if c.wraps || (d = 0 && i + 1 < p) || (d = 1 && i > 0) then [(1, 0)] else []
  else if c.kind = 3 then
    if c.wraps then
      (if (if d = 0 then (i + p - c.root) % p else (c.root + p - i) % p) + 2 ≤ p then [(1, 0)] else [])
    else if (d = 0 && c.root ≤ i && i + 1 < p) || (d = 1 && i ≤ c.root && i > 0) then [(1, 0)] else []
  else
    let reduce :=
      if !c.red then []
      else if c.wraps then
        (List.range (p - 1)).map (fun t => (0, if d = 0 then (i + 2 * p - 1 - t) % p else (i + 1 + t) % p))
      else if d = 0 then ((List.range p).filter (fun j => decide (j > i))).map (fun j => (0, j))
      else (((List.range p).filter (fun j => decide (j < i))).reverse).map (fun j => (0, j))
    let gather :=
      if c.kind = 0 then []
      else if c.wraps then (List.range (p - 1)).map (fun t => (1, if d = 0 then (i + p - t) % p else (i + t) % p))
      else if d = 0 then (if i + 1 < p then ((List.range (i + 1)).reverse).map (fun j => (1, j)) else [])
      else if i > 0 then ((List.range p).filter (fun j => decide (j ≥ i))).map (fun j => (1, j)) else []
    reduce ++ gather

/-- The position whose packets arrive on chain `d`. -/
def Coll.upstream (c : Coll) (d : Nat) : Option Nat :=
  let p := c.p
  if c.kind = 4 then some d
  else if d = 0 then (if c.pos > 0 then some (c.pos - 1) else if c.wraps then some (p - 1) else none)
  else if c.pos + 1 < p then some (c.pos + 1) else if c.wraps then some 0 else none

/-- The position that chain `d` is sent to. -/
def Coll.downstream (c : Coll) (d : Nat) : Nat :=
  let p := c.p
  if c.kind = 4 then d else if d = 0 then (c.pos + 1) % p else (c.pos + p - 1) % p

def Coll.sends (c : Coll) (d : Nat) : List (Nat × Nat) := c.sendsAt c.pos d

/-- Segments that arrive on chain `d`, in order. -/
def Coll.recvs (c : Coll) (d : Nat) : List (Nat × Nat) :=
  match c.upstream d with
  | none => []
  | some u => if c.kind = 4 then c.sendsAt u c.pos else c.sendsAt u d

/-- Elements of a segment: the first, by the numbers of the whole tensor, and how many. -/
def Coll.segEls (c : Coll) (d ch : Nat) : Nat × Nat :=
  if c.kind = 5 then (0, c.n)
  else if c.kind = 3 then
    (if !c.wraps then (0, c.n) else if d = 0 then (0, halfOf c.n) else (halfOf c.n, c.n - halfOf c.n))
  else if c.kind = 4 || !c.wraps then (ch * c.chunk, c.chunk)
  else if d = 0 then (ch * c.chunk, halfOf c.chunk) else (ch * c.chunk + halfOf c.chunk, c.chunk - halfOf c.chunk)

/-- Bytes of m elements, and of their scale bytes. -/
def elBytes (f : Fmt) (m : Nat) : Nat := m * f.width / 8
def scBytes (f : Fmt) (m : Nat) : Nat := if f.scaled then cdiv m f.block else 0

def Coll.segBytes (c : Coll) (d ch : Nat) : Nat :=
  let m := (c.segEls d ch).2
  elBytes c.fmt m + scBytes c.fmt m

def Coll.segPkts (c : Coll) (d ch : Nat) : Nat := cdiv (c.segBytes d ch) 64

/-- The k-th packet of a list of segments: (phase, chunk, packet). -/
def Coll.pieceAt (c : Coll) (d : Nat) : List (Nat × Nat) → Nat → Option (Nat × Nat × Nat)
  | [], _ => none
  | s :: rest, k => let n := c.segPkts d s.2; if k < n then some (s.1, s.2, k) else c.pieceAt d rest (k - n)

def Coll.total (c : Coll) (d : Nat) (segs : List (Nat × Nat)) : Nat := (segs.map (fun s => c.segPkts d s.2)).sum

/-- Has everything been sent, and taken? -/
def Coll.allSent (c : Coll) : Bool :=
  c.started && c.chains.all (fun d => c.sent.getD d 0 == c.total d (c.sends d))
def Coll.allCome (c : Coll) : Bool := c.chains.all (fun d => c.come.getD d 0 == c.total d (c.recvs d))

/-- This member's bytes of a segment. -/
def Coll.ownSeg (c : Coll) (d ch : Nat) : List PByte :=
  let em := c.segEls d ch
  let e := if c.kind = 1 then em.1 - c.pos * c.chunk else em.1
  (c.own.drop (elBytes c.fmt e)).take (elBytes c.fmt em.2) ++ (c.ownS.drop (scBytes c.fmt e)).take (scBytes c.fmt em.2)

/-- One packet of it. -/
def Coll.ownPkt (c : Coll) (d ch ix : Nat) : List PByte := ((c.ownSeg d ch).drop (64 * ix)).take 64

/-- Every packet of an own segment, as pieces ready to send. -/
def Coll.ownPieces (c : Coll) (d : Nat) (s : Nat × Nat) : List (Piece × List PByte) :=
  (List.range (c.segPkts d s.2)).map (fun ix => (⟨s.1, d, s.2, ix⟩, c.ownPkt d s.2 ix))

/-- Does a chain's segment start at this member with its own data? -/
def Coll.startsHere (c : Coll) (d : Nat) (s : Nat × Nat) : Bool :=
  if c.kind = 4 || c.kind = 5 then true
  else if c.kind = 3 then c.pos == c.root
  else if s.1 = 1 then c.kind == 1 && s.2 == c.pos
  else if c.wraps then s.2 == (if d = 0 then (c.pos + c.p - 1) % c.p else (c.pos + 1) % c.p)
  else if d = 0 then c.pos == 0 else c.pos + 1 == c.p

/-- The pieces ready when the collective starts. -/
def Coll.firstPieces (c : Coll) : List (Piece × List PByte) :=
  c.chains.flatMap (fun d => (c.sends d).flatMap (fun s => if c.startsHere d s then c.ownPieces d s else []))

/-! Where the bytes of DST lie. -/

/-- Element offset of row `k` (R183). -/
def rowOff : List (Nat × Nat) → Nat → Nat
  | [], _ => 0
  | ns :: rest, k => (k % max 1 ns.1) * ns.2 + rowOff rest (k / max 1 ns.1)

/-- Address of byte `k` of the packed element bytes of a descriptor's tensor. -/
def packAddr (d k : Nat) : Nat :=
  let w := (dF d).width
  let e := if w = 4 then 2 * k else k / (w / 8)
  let r := if w = 4 then 0 else k % (w / 8)
  let o := rowOff (((dSizes d).zip (dStrides d)).drop 1) (e / dN0 d) + e % dN0 d * dStride d 0
  dAddr d + eByte (dF d) o + r

/-- Writes of bytes [64·ix, …) of a segment that begins at element `e` of DST and has `m` elements. -/
def segWrites (d e m ix : Nat) (bs : List PByte) : List Run :=
  let f := dF d
  let nb := elBytes f m
  let one (i : Nat) : Nat :=
    let k := 64 * ix + i
    if k < nb then packAddr d (elBytes f e + k) else dScale d + scBytes f e + (k - nb)
  coalesce (((List.range bs.length).zip bs).map (fun ib => (one ib.1, [ib.2])))

/-- A whole segment's packets as (packet, bytes). -/
def pktsOf (bs : List PByte) : List (Nat × List PByte) :=
  let cs := chunks 64 bs
  (List.range cs.length).zip cs

/-! Arithmetic (R353). -/

/-- One packet combined with another, element by element; a poisoned word on either side poisons the result word. -/
def Coll.combine (c : Coll) (x y : List PByte) : List PByte :=
  let w := c.fmt.width / 8
  let bad (bs : List PByte) (i : Nat) : Bool := ((bs.drop (32 * (i / 32))).take 32).any Prod.snd
  let cs := ((chunks w x).zip (chunks w y)).flatMap (fun ab =>
    toLE w (msaOp c.fmt c.op false (ofLE (ab.1.map Prod.fst)) (ofLE (ab.2.map Prod.fst))).1)
  ((List.range cs.length).zip cs).map (fun ib => (ib.2, bad x ib.1 || bad y ib.1))

/-- Is an element of a packet NaN or infinite (R354)? -/
def Coll.anyNf (c : Coll) (x : List PByte) : Bool :=
  c.fmt == .fp32 && (chunks 4 x).any (fun e => !(fp32 (ofLE (e.map Prod.fst))).finite)

/-- A DATA packet taken on chain `d`: the collective after it, and the segment write it leads to, if any, as (first element
of DST, elements, packet, bytes) (R350 to R352). -/
def Coll.take (c : Coll) (d : Nat) (pc : Nat × Nat × Nat) (data : List PByte) : Coll × Option (Nat × Nat × Nat × List PByte) :=
  let (ph, ch, ix) := pc
  let em := c.segEls d ch
  let c1 := { c with come := updAt c.come d (fun n => n + 1) }
  let fwd (cc : Coll) (ps : List (Nat × Nat)) (bs : List PByte) : Coll :=
    { cc with out := cc.out ++ ps.map (fun p => (⟨p.1, p.2, ch, ix⟩, bs)) }
  let base := if c.kind = 0 then em.1 - c.pos * c.chunk else em.1
  let finish (bs : List PByte) : Coll × Option (Nat × Nat × Nat × List PByte) :=
    let c2 := { c1 with done := c1.done + 1, nf := c1.nf || c.anyNf bs }
    let ds := if c.kind = 2 then (if c.wraps then [(1, d)] else [(1, 0), (1, 1)]) else []
    (fwd c2 ds bs, some (base, em.2, ix, bs))
  if ph = 0 then
    if c.wraps then
      let bs := c.combine data (c.ownPkt d ch ix)
      if ch = c.pos then finish bs else (fwd c1 [(0, d)] bs, none)
    else if ch ≠ c.pos then (fwd c1 [(0, d)] (c.combine data (c.ownPkt d ch ix)), none)
    else
      let half := if d = 0 then c.combine data (c.ownPkt d ch ix) else data
      if c.pos + 1 = c.p then finish half
      else
        match c.part.find? (fun x => x.1 == ix) with
        | some x =>
          let bs := if d = 0 then c.combine half x.2 else c.combine x.2 half
          let (c2, w) := finish bs
          ({ c2 with part := c2.part.filter (fun x => x.1 != ix) }, w)
        | none => ({ c1 with part := c1.part ++ [(ix, half)] }, none)
  else if c.kind = 4 then (c1, some (d * c.chunk, c.chunk, ix, data))
  else
    let on := (c.sends d).contains (1, ch)
    (if on && c.kind ≠ 5 then fwd c1 [(1, d)] data else c1, some (em.1, em.2, ix, data))

/-! Payloads (Tables 13-2, 13-3; the short records are log entry 23's). -/

def collTag (axis phase poison cseq : Nat) : Nat := axis % 8 * 2 ^ 13 + phase % 8 * 2 ^ 10 + poison % 4 * 2 ^ 8 + cseq % 256
def tagAxis (t : Nat) : Nat := bits t 13 3
def tagPhase (t : Nat) : Nat := bits t 10 3
def tagPoison (t : Nat) : Nat := bits t 8 2
def tagCseq (t : Nat) : Nat := bits t 0 8

/-- HEAD fields but for POS. -/
def Coll.headWord (c : Coll) (p : Nat) : Nat :=
  c.n % 2 ^ 40 * 2 ^ 88 + c.chunk % 2 ^ 40 * 2 ^ 48 + (p - 1) % 64 * 2 ^ 42 + c.kind % 8 * 2 ^ 33 + c.op % 8 * 2 ^ 30
    + c.fmt.code % 16 * 2 ^ 26 + c.form.code * 2 ^ 24

def headPayload (w pos : Nat) : List Byte := toLE 64 (w + pos % 64 * 2 ^ 36)

/-- A HEAD payload with POS taken out. -/
def headNoPos (bs : List Byte) : Nat := let v := ofLE (bs.take 16); v - bits v 36 6 * 2 ^ 36

def flagPayload (flag : Bool) (pos left dir : Nat) : List Byte := [BitVec.ofNat 8 (b2n flag), BitVec.ofNat 8 pos, BitVec.ofNat 8 left, BitVec.ofNat 8 dir]
def closePayload (word pos left dir : Nat) : List Byte := toLE 8 word ++ [BitVec.ofNat 8 pos, BitVec.ofNat 8 left, BitVec.ofNat 8 dir]
def abortPayload (cause left dir node : Nat) : List Byte := [BitVec.ofNat 8 cause, BitVec.ofNat 8 left, BitVec.ofNat 8 dir, 0] ++ toLE 2 node

/-- Hops that a FLAG travels up and down from a position (R354). -/
def flagHops (p pos : Nat) (wraps : Bool) (d : Nat) : Nat :=
  if wraps then (if d = 0 then cdiv (p - 1) 2 else (p - 1) / 2) else if d = 0 then p - 1 - pos else pos

end Sys2Proof.Machine
end

