-- ==== Sys2Proof/Machine/Coll.lean ====
section
/-! DEFINITION. Axis collective units (R346 to R361): issue of COLL, the packets they take, completion, the closing
collective, and abandonment. -/

namespace Sys2Proof.Machine

/-! The collectives of a unit. -/

def State.coll (s : State) (a cseq : Nat) : Option Coll := (s.acu a).colls.find? (fun c => c.cseq == cseq)

def State.updColl (s : State) (a cseq : Nat) (f : Coll → Coll) : State :=
  s.updAcu a (fun u => { u with colls := u.colls.map (fun c => if c.cseq = cseq then f c else c) })

def State.dropColl (s : State) (a cseq : Nat) : State :=
  s.updAcu a (fun u => { u with colls := u.colls.filter (fun c => c.cseq != cseq) })

/-- The collective that a packet of axis `a` and sequence number `cseq` belongs to, and the unit that holds it: a closing
collective runs on every axis (R360). -/
def State.findColl (s : State) (a cseq : Nat) : Option (Nat × Coll) :=
  match s.coll a cseq with
  | some c => if c.form = .close then none else some (a, c)
  | none => none

def State.findClose (s : State) (a cseq : Nat) : Option (Nat × Coll × CloseAxis) :=
  ((List.range 8).flatMap (fun u => (s.acu u).colls.flatMap (fun c =>
    if c.form = .close then (c.axes.filter (fun x => x.axis == a && x.cseq == cseq)).map (fun x => (u, c, x)) else []))).head?

/-- A packet of a collective given to the endpoint; it counts until it is acknowledged (R357), and its 64 payload bytes are
counted. -/
def State.collSend (s : State) (a : Nat) (c : Coll) (tag node : Nat) (bs : List Byte) : State :=
  let s1 := s.updAcu a (fun u => { u with
    ctr := ctrAdd u.ctr 1 64
    colls := u.colls.map (fun x => if x.cseq = c.cseq then { x with unsent := x.unsent + 1 } else x) })
  s1.send node (.acu a c.cseq) [s1.fab.one node tCOLL tag bs]

/-- An acknowledged packet of a collective. -/
def State.collAcked (s : State) (a cseq : Nat) : State := s.updColl a cseq (fun c => { c with unsent := c.unsent - 1 })

/-- One record sent both ways round a group, to the hops of R354; `pay` makes the payload of hops left and direction. -/
def State.bothWays (s : State) (send : State → Nat → List Byte → State) (members : List Nat) (pos : Nat) (wraps : Bool)
    (pay : Nat → Nat → List Byte) : State :=
  let p := members.length
  [0, 1].foldl (fun t d =>
    let h := flagHops p pos wraps d
    if h = 0 then t
    else send t (members.getD (if d = 0 then (pos + 1) % p else (pos + p - 1) % p) 0) (pay h d)) s

/-- The next member of a group in a direction. -/
def nextMember (members : List Nat) (pos d : Nat) : Nat :=
  let p := members.length
  members.getD (if d = 0 then (pos + 1) % p else (pos + p - 1) % p) 0

/-! Abandonment (R361). -/

/-- The block fault of an abandonment's cause. -/
def abortFault : Nat → Option Nat
  | 1 => some 0x1F | 2 => some 0x20 | 3 => some 0x1D | 5 => some 0x1E | 6 => some 0x18 | _ => none

/-- The ABORT of a member, sent around its group; nobody waits for its acknowledgement. -/
def State.sendAbort (s : State) (axis cseq : Nat) (members : List Nat) (pos : Nat) (wraps : Bool) (cause : Nat) : State :=
  s.bothWays (fun t node bs => t.send node .resp [t.fab.one node tCOLL (collTag axis 5 0 cseq) bs]) members pos wraps
    (fun left d => abortPayload cause left d s.fab.node)

/-- What is held for a collective on an axis discarded (R361). -/
def State.dropHeld (s : State) (a cseq : Nat) : State :=
  (s.freeSlots ((s.acu a).inq.filter (fun p => tagCseq p.tag == cseq))).updAcu a (fun u => { u with
    inq := u.inq.filter (fun p => tagCseq p.tag != cseq) })

/-- A collective abandoned (R359, R361): its block hears of it, its binding gives up the update, what is held for it is discarded,
and an ABORT leaves. -/
def State.abandonColl (s : State) (a cseq cause : Nat) (node : Nat := 0) : State :=
  match s.coll a cseq with
  | none => s
  | some c =>
    let s1 := (s.dropColl a cseq).updAcu a (fun u => { u with ctr := ctrAdd u.ctr 2 1 })
    let s2 := match abortFault cause with
      | some code => s1.jobErr c.b c.job { ErrI.of code with node := if cause = 2 then node else 0 }
      | none => (s1.updBlock c.b (fun b => b.updJob c.job (fun j => { j with tok := none, done := true, err := none })))
    let s3 := match c.form, c.bind with
      | .gather, some (k, l) => (s2.putStack k ((s2.stack k).abandon s2.now l)).settle k
      | _, _ => s2
    if c.form = .close then
      c.axes.foldl (fun t x => (t.dropHeld x.axis x.cseq).sendAbort x.axis x.cseq x.members x.pos x.wraps cause) s3
    else (s3.dropHeld a cseq).sendAbort a cseq c.members c.pos c.wraps cause

/-- Every collective of the part abandoned. -/
def State.abandonAll (s : State) (cause : Nat) : State :=
  (List.range 8).foldl (fun t a => ((t.acu a).colls.map Coll.cseq).foldl (fun u q => u.abandonColl a q cause) t) s

/-! Writing DST. -/

/-- How the extents of a write answer. -/
def State.runsGate (s : State) (sp stk : Nat) (rs : List Run) : Gate :=
  let gs := rs.map (fun r => s.gateAt sp stk r.1 r.2.length)
  if gs.contains .refused then .refused else if gs.contains .wait then .wait else .ok

def State.wakeRuns (s : State) (sp stk : Nat) (rs : List Run) : State :=
  rs.foldl (fun t r => t.wakeAt sp stk r.1 r.2.length) s

def State.writeRuns (s : State) (sp stk : Nat) (rs : List Run) : State :=
  rs.foldl (fun t r => t.writeAt 0 sp stk r.1 r.2) s

/-- The slot that the gather form is redirected to (R359). -/
def State.gatherMove (s : State) (c : Coll) (d : Nat) : Nat :=
  match c.form, c.bind with
  | .gather, some (k, l) =>
    match (s.stack k).sue.bind l with
    | some b =>
      if b.nextSlot = 0 then d else fScale.set (fAddr.set d (dAddr d + b.vpitch)) (dScale d + b.vpitch)
    | none => d
  | _, _ => d

/-! Issue. -/

/-- The members of this part's group and its own position (R347); a part in no slice is alone. -/
def FabS.group (f : FabS) (a : Nat) (transit : List (Nat × Nat)) : List Nat × Nat :=
  if f.slice = 0 then ([f.node], 0)
  else
    let ms := f.members a transit
    (ms, (ms.findIdx? (fun n => n == f.node)).getD ms.length)

/-- Is a descriptor the step word of a stack (R360)? -/
def State.isStepWord (s : State) (d : Nat) : Bool :=
  let ko := if dSpace d = 3 then toStack (dAddr d) else (fStack.get d, dAddr d)
  (dSpace d == 3 || dSpace d == 4) && dElems d == 1 && dF d == .int64 && decide (ko.1 < 12)
    && (s.stack ko.1).sue.stepOff == some ko.2

/-- First byte of a descriptor's elements, and the byte after the last. -/
def dExtent (d : Nat) : Nat × Nat := (dAddr d, dAddr d + eByte (dF d) (dMaxOff d) + cdiv (dF d).width 8)

/-- The trigger form (R358): the binding, none, or a partial overlap. -/
def State.trigForm (s : State) (d : Nat) : Option (Nat × Nat) × Bool :=
  if dSpace d ≠ 4 then (none, false)
  else
    let k := fStack.get d
    let e := dExtent d
    let gx (b : Bind) : Nat × Nat := (stAddr b.gradS, stAddr b.gradS + b.elems * stW b.gradS)
    match (s.stack k).sue.binds.find? (fun b => let g := gx b; decide (g.1 ≤ e.1) && decide (e.2 ≤ g.2)) with
    | some b => (some (k, b.layer), false)
    | none => (none, (s.stack k).sue.binds.any (fun b => let g := gx b; decide (e.1 < g.2) && decide (g.1 < e.2)))

/-- The gather form (R359). -/
def State.gatherForm (s : State) (src dst pos c : Nat) : Option (Nat × Nat) :=
  if dSpace dst ≠ 4 || dSpace src ≠ 4 || fStack.get src ≠ fStack.get dst then none
  else
    let k := fStack.get dst
    let f := dF dst
    let a := packAddr dst (elBytes f (pos * c))
    let sc := dScale dst + scBytes f (pos * c)
    let whole (d e n : Nat) : Bool := packAddr d (elBytes f (e + n) - 1) + 1 == packAddr d (elBytes f e) + elBytes f n
    ((s.stack k).sue.binds.find? (fun b =>
      match b.strs.find? (fun t => stUsed t && stKind t == 2) with
      | some t => b.gatherB && stAddr t == a && b.elems == c && stFmt t == f && dAddr src == a && dF src == f
          && whole dst (pos * c) c && whole src 0 c && (!f.scaled || (stAux t == sc && dScale src == sc))
      | none => false)).map (fun b => (k, b.layer))

/-- The rules of R348 on counts: the chunk, or a breach. -/
def collChunk (kind n nd p : Nat) : Option Nat :=
  if kind = 0 || kind = 2 then
    (if n % (32 * p) = 0 && nd = (if kind = 0 then n / p else n) then some (n / p) else none)
  else if kind = 1 then (if n % 32 = 0 && nd = p * n then some n else none)
  else if nd ≠ n then none
  else if kind = 4 then (if n % (32 * p) = 0 then some (n / p) else none)
  else some 0

/-- COLL up to its acceptance (R218, R346 to R349, R358 to R360): the block, and the collective. -/
def State.prepColl (s : State) (b : Block) (w : Nat) (n : Nat) (transit : List (Nat × Nat)) : Iss (Block × Nat × Coll) :=
  let kind := bits w 46 3
  let op := bits w 43 3
  let a := bits w 40 3
  let sq := bit w 32
  let sh := bits w 24 8
  let dh := bits w 16 8
  let u := s.acu a
  if u.colls.length ≥ 16 then .hold
  else if !(profDef s.fab.prof a) then .fault (ErrI.of 0x1C)
  else
    let role : Role := { spaces := [2, 3, 4], fmts := allFmts }
    let j0 : Job := b.freshJob .a w .coll
    (b.aOperand { role with dest := true } dh j0).bind (fun dj =>
      let d := dj.1
      let qn := sh % 8
      -- the source: format, elements, size of dimension 0, its data where it comes from a queue, the block and job after it
      let source : Iss (Fmt × Nat × Nat × Option Tens × Block × Job × Nat) :=
        if sq then
          if !(queueBound b .a qn true) then .fault { ErrI.of 5 with handle := qn }
          else
            match b.headFields qn with
            | none => .hold
            | some none => .fault { ErrI.of 7 with handle := qn }
            | some (some hf) =>
              match b.popEntry qn with
              | none => .hold
              | some tb => .go (hf.1, hf.2.1 * hf.2.2.1, hf.2.1, some tb.1, tb.2, dj.2, 0)
        else
          (b.aOperand role sh dj.2).bind (fun sj =>
            .go (dF sj.1, dElems sj.1, dN0 sj.1, none, b, sj.2, sj.1))
      source.bind (fun x =>
        let (f, cnt, n0, q, b1, j, sd) := x
        let (ms, pos) := s.fab.group a transit
        let p := ms.length
        let close := kind == 2 && op == 1 && f == .int64 && s.isStepWord d
        let breach : ErrI := shape11 (if sq then dh else sh)
        let scaledBad := f.scaled && (n0 ≠ dN0 d || n0 % 32 ≠ 0)
        if pos ≥ p || (close && (List.range 8).any (fun x => !(s.acu x).colls.isEmpty)) then .hold
        else if !close && (kind = 0 || kind = 2) && !([Fmt.fp32, .int32, .int64].contains f) then
          .fault { ErrI.of 4 with sub := 1, handle := if sq then qn else sh }
        else if !close && f ≠ dF d then .fault breach
        else
          match (if close then some 0 else collChunk kind cnt (dElems d) p) with
          | none => .fault breach
          | some c =>
            if !close && scaledBad then .fault breach
            else if kind = 3 && bits w 33 6 ≥ p then .fault (ErrI.of 1)
            else
              let tf := if !close && (kind = 0 || kind = 2) then s.trigForm d else (none, false)
              if tf.2 then .fault { ErrI.of 4 with sub := 10, handle := dh }
              else
                let gf := if kind = 1 && !sq then s.gatherForm sd d pos c else none
                let form : Form := if close then .close else if tf.1.isSome then .trigger
                  else if gf.isSome then .gather else .plain
                let dl := bits w 0 16
                let axes := if !close || s.fab.slice = 0 then [] else
                  ((List.range 8).filter (fun x => decide (s.fab.len x > 1))).map (fun x =>
                    let g := s.fab.group x transit
                    ({ axis := x, cseq := (s.acu x).cseq, pos := g.2, wraps := s.fab.wraps x, members := g.1, sent := false } : CloseAxis))
                let coll : Coll := {
                  cseq := u.cseq, b := n, job := j.id, kind := kind, op := op, fmt := f, form := form
                  root := bits w 33 6, dir := b2n (bit w 39), n := if close then 0 else if kind = 1 then dElems d else cnt
                  chunk := c, members := ms, pos := pos, wraps := s.fab.wraps a, step := b.vimm.getD 15 0
                  dl := if dl ≠ 0 && s.dlOn 0 then some ((s.now + 256 * dl) % 2 ^ 64) else none
                  src := sh, dst := d, sq := sq, bind := if form = .trigger then tf.1 else gf
                  own := match q with | some t => t.rows.flatMap (fun r => packEls f r.elems) | none => []
                  ownS := match q with | some t => t.rows.flatMap (fun r => byteEls r.scales) | none => []
                  started := false, out := [], sent := List.replicate 64 0, come := List.replicate 64 0, part := [], done := 0
                  nf := false, flags := [], unsent := 0, bad := false, word := 0, words := [], axes := axes }
                .go ((b1.addJob { j with dst := some dh }).adv .a, a, coll)))

/-! Start and sending. -/

/-- The HEAD records of a collective, to each member it sends data to (R349). -/
def State.sendHeads (s : State) (a : Nat) (c : Coll) : State :=
  let dsts := dedup ((c.chains.filter (fun d => !(c.sends d).isEmpty)).map (fun d => c.members.getD (c.downstream d) 0))
  dsts.foldl (fun t node => t.collSend a c (collTag a 0 0 c.cseq) node (headPayload (c.headWord c.p) c.pos)) s

/-- Where a gather-form collective's binding stands: may its own chunk be sent, has it skipped (R359)? -/
def State.gatherAt (s : State) (c : Coll) : Bool × Bool :=
  match c.form, c.bind with
  | .gather, some (k, l) =>
    match (s.stack k).sue.bind l with
    | some b =>
      let r := (s.stack k).num b.statsOff 64
      ((match b.trig with | some t => t.phase == .gather | none => false),
        b.trig.isNone && bits r 288 32 == c.step && bits r 182 2 == 1)
    | none => (false, false)
  | _, _ => (true, false)

/-- What a member writes of its own data when it starts: (first element of DST, elements, bytes). -/
def Coll.localWrites (c : Coll) : List (Nat × Nat × List PByte) :=
  let all := c.own ++ c.ownS
  if c.p ≤ 1 then [(0, if c.kind = 1 then c.chunk else c.n, all)]
  else if c.kind = 1 then [(c.pos * c.chunk, c.chunk, all)]
  else if c.kind = 3 then (if c.pos = c.root then [(0, c.n, all)] else [])
  else if c.kind = 4 then [(c.pos * c.chunk, c.chunk, c.ownSeg 0 c.pos)]
  else []

/-- Does a member read its SRC? -/
def Coll.needsSrc (c : Coll) : Bool :=
  if c.p ≤ 1 then true
  else if c.kind = 3 then c.pos == c.root
  else if c.kind = 5 then c.chains.any (fun d => !(c.sends d).isEmpty)
  else true

/-- A collective starts, once its turn, its pin grant and its binding allow: SRC is read, the HEADs leave, and what it
writes of its own data is written (R347, R349, R359, R361). -/
def State.startColl (s : State) (a cseq : Nat) : State :=
  match s.coll a cseq with
  | none => s
  | some c =>
    match (s.block c.b).job c.job with
    | none => s
    | some j =>
      if c.started || c.form = .close || !j.awaits.isEmpty || !(s.gatherAt c).1 then s
      else
        let sd := s.gatherMove c ((j.desc c.src).getD 0)
        let dd := s.gatherMove c ((j.dst.bind j.desc).getD c.dst)
        let rd := c.needsSrc && !c.sq
        let t := s.readHere c.b sd
        let c1 := if rd then { c with
            own := t.rows.flatMap (fun r => packEls c.fmt r.elems), ownS := t.rows.flatMap (fun r => byteEls r.scales) } else c
        let ws := c1.localWrites.flatMap (fun x => (pktsOf x.2.2).flatMap (fun ib => segWrites dd x.1 x.2.1 ib.1 ib.2))
        let gs := [if rd then s.descGate c.b sd else .ok, s.runsGate (dSpace dd) (fStack.get dd) ws]
        if gs.contains .refused then s.abandonColl a cseq 6
        else if gs.contains .wait then (if rd then s.wakeDesc sd else s).wakeRuns (dSpace dd) (fStack.get dd) ws
        else
          let one := c1.p ≤ 1
          let c2 := { c1 with
            started := true, dst := dd, out := c1.firstPieces
            bad := ws.any (fun r => r.2.any Prod.snd)
            part := if c1.red && !c1.wraps && c1.pos = 0 && !one then pktsOf (c1.ownSeg 0 0) else []
            nf := one && c1.red && c1.anyNf c1.own
            flags := if one && c1.red then [(0, c1.anyNf c1.own)] else [] }
          let s1 := ((if rd then s.touchDesc c.b clsBulk sd else s).updColl a cseq (fun _ => c2)).writeRuns (dSpace dd) (fStack.get dd) ws
          s1.sendHeads a c2

/-- One packet of a chain sent, if the next one is ready (R350 to R352, R355). -/
def State.sendNext (s : State) (a cseq d : Nat) : State × Bool :=
  match s.coll a cseq with
  | none => (s, false)
  | some c =>
    match c.pieceAt d (c.sends d) (c.sent.getD d 0) with
    | none => (s, false)
    | some (ph, ch, ix) =>
      match c.out.find? (fun o => o.1 == ⟨ph, d, ch, ix⟩) with
      | none => (s, false)
      | some o =>
        let bs := o.2
        let poison := b2n ((bs.take 32).any Prod.snd) + 2 * b2n ((bs.drop 32).any Prod.snd)
        let node := c.members.getD (c.downstream d) 0
        let phase := if c.kind = 4 then (if d > c.pos then 1 else 2) else 1 + d
        let s1 := s.updColl a cseq (fun c => { c with
          out := c.out.filter (fun x => x.1 != o.1), sent := updAt c.sent d (fun n => n + 1) })
        (s1.collSend a c (collTag a phase poison cseq) node (bs.map Prod.fst), true)

/-- Every packet ready on a chain sent, oldest first. -/
def State.sendChain : Nat → State → Nat → Nat → Nat → State
  | 0, s, _, _, _ => s
  | f + 1, s, a, cseq, d =>
    match s.sendNext a cseq d with
    | (s1, true) => State.sendChain f s1 a cseq d
    | (s1, false) => s1

/-- Does a closing collective still owe packets on an axis, or in the unit that holds it (R349)? -/
def State.closeOwes (s : State) (a : Nat) : Bool :=
  (List.range 8).any (fun u => (s.acu u).colls.any (fun c =>
    c.form == .close && c.axes.any (fun x => !x.sent && (x.axis == a || u == a))))

/-- A unit sends what it may: its collectives start and send in acceptance order (R349); a closing collective stands before every
other on every unit. -/
def State.pump (s : State) (a : Nat) : State :=
  if s.closeOwes a then s else
  (((s.acu a).colls.map Coll.cseq).foldl (fun (st : State × Bool) q =>
    if !st.2 then st
    else
      let s1 := st.1.startColl a q
      let s2 := match s1.coll a q with
        | some c => if c.started then c.chains.foldl (fun t d => t.sendChain (c.total d (c.sends d) + 1) a q d) s1 else s1
        | none => s1
      (s2, match s2.coll a q with | some c => c.allSent || c.form == .close | none => true)) (s, true)).1

def State.pumpAll (s : State) : State := (List.range 8).foldl State.pump s

/-- COLL issues: its unit accepts the collective (R346, R349, R360). -/
def State.issueColl (s : State) (n k : Nat) (transit : List (Nat × Nat)) : State :=
  let b := s.block n
  match b.seqA.word with
  | none => s
  | some w =>
    let isK := (match opOf .a w with | .coll => true | _ => false) && bits w 46 3 == k
    if s.canIssue n && isK && !(b.waitsWipe .a w) then
      match s.prepColl b w n transit with
      | .hold => s
      | .fault e => s.blockFault n 0 b.seqA.pc e
      | .go (b1, a, c) =>
        let s1 := s.putBlock n { b1 with wd := 0 }
        let s2 := if c.form = .close then
            (List.range 8).foldl (fun t x => t.updAcu x (fun u => { u with cseq := (u.cseq + 1) % 256 })) s1
          else s1.updAcu a (fun u => { u with cseq := (u.cseq + 1) % 256 })
        ((s2.updAcu a (fun u => { u with colls := u.colls ++ [c] })).pump a).checkDone n
    else s

def execCollRs (b : Nat) (transit : List (Nat × Nat)) (s : State) : Res := onUnit (b < 144) (s.issueColl b 0 transit)
def execCollAg (b : Nat) (transit : List (Nat × Nat)) (s : State) : Res := onUnit (b < 144) (s.issueColl b 1 transit)
def execCollAr (b : Nat) (transit : List (Nat × Nat)) (s : State) : Res := onUnit (b < 144) (s.issueColl b 2 transit)
def execCollBc (b : Nat) (transit : List (Nat × Nat)) (s : State) : Res := onUnit (b < 144) (s.issueColl b 3 transit)
def execCollA2a (b : Nat) (transit : List (Nat × Nat)) (s : State) : Res := onUnit (b < 144) (s.issueColl b 4 transit)
def execCollShift (b : Nat) (transit : List (Nat × Nat)) (s : State) : Res := onUnit (b < 144) (s.issueColl b 5 transit)

/-! Packets taken. -/

/-- Has a sequence number been accepted on an axis already? -/
def State.cseqPast (s : State) (a q : Nat) : Bool := decide (((s.acu a).cseq + 256 - q) % 256 - 1 < 128) && (s.acu a).cseq != q

/-- The first packet of a phase that a unit can take: no earlier packet of the same sender and collective waits before it,
and `ready` holds of it (R333, R349). -/
def takeable (phase : Nat) (ready : Packet → Bool) : List Packet → List Packet → Option (Packet × List Packet)
  | _, [] => none
  | seen, p :: rest =>
    if tagPhase p.tag = phase && !(seen.any (fun x => x.src == p.src && tagCseq x.tag == tagCseq p.tag)) && ready p then
      some (p, seen ++ rest)
    else takeable phase ready (seen ++ [p]) rest

/-- The first ABORT whose collective is known: it acts as it arrives, whatever stands before it (R361). -/
def abortIn (ready : Packet → Bool) : List Packet → List Packet → Option (Packet × List Packet)
  | _, [] => none
  | seen, p :: rest => if tagPhase p.tag = 5 && ready p then some (p, seen ++ rest) else abortIn ready (seen ++ [p]) rest

/-- A packet of a phase taken from a unit's queue and handed to `f`. -/
def State.takeColl (s : State) (a phase : Nat) (ready : Packet → Bool) (f : State → Packet → State) : State :=
  match (if phase = 5 then abortIn ready [] (s.acu a).inq else takeable phase ready [] (s.acu a).inq) with
  | none => s
  | some (p, rest) => f ((s.freeSlot p).updAcu a (fun u => { u with inq := rest })) p

/-- Is the collective of a packet known here, or over? -/
def State.known (s : State) (a : Nat) (p : Packet) : Bool :=
  let q := tagCseq p.tag
  (s.findColl a q).isSome || (s.findClose a q).isSome || s.cseqPast a q

/-- HEAD (R349): a difference in any field but POS abandons the collective. -/
def State.collHead (s : State) (a : Nat) (p : Packet) : State :=
  let q := tagCseq p.tag
  match s.findColl a q with
  | some (u, c) => if headNoPos p.payload = c.headWord c.p then s else (s.abandonColl u q 3).pump u
  | none =>
    match s.findClose a q with
    | some (u, c, x) => if headNoPos p.payload = c.headWord x.members.length then s else (s.abandonColl u c.cseq 3).pump u
    | none => s

def execCollHeadReceive (a : Nat) (s : State) : Res :=
  onPart s (a < 8) (s.takeColl a 0 (s.known a) (fun t p => t.collHead a p))

/-- The chain by which a DATA packet came. -/
def Coll.chainOf (c : Coll) (p : Packet) : Nat :=
  if c.kind = 4 then (c.members.findIdx? (fun n => n == p.src)).getD 0 else tagPhase p.tag - 1

/-- A DATA packet as bytes with their marks, cut to the piece's length. -/
def Coll.dataOf (c : Coll) (d : Nat) (pc : Nat × Nat × Nat) (p : Packet) : List PByte :=
  let m := tagPoison p.tag
  let n := min 64 (c.segBytes d pc.2.1 - 64 * pc.2.2)
  ((List.range 64).zip (fitTo 64 p.payload)).map (fun ib => (ib.2, bit m (ib.1 / 32))) |>.take n

/-- What a DATA packet does: the collective after it, and the write it leads to. -/
def Coll.onData (c : Coll) (p : Packet) : Option (Coll × Option (Nat × Nat × Nat × List PByte)) :=
  let d := c.chainOf p
  match c.pieceAt d (c.recvs d) (c.come.getD d 0) with
  | none => none
  | some pc => some (c.take d pc (c.dataOf d pc p))

def Coll.writesOf (c : Coll) (w : Option (Nat × Nat × Nat × List PByte)) : List Run :=
  match w with
  | some (e, m, ix, bs) => segWrites c.dst e m ix bs
  | none => []

/-- May a gather-form collective write now (R359)? -/
def State.mayWrite (s : State) (c : Coll) : Bool :=
  match c.form, c.bind with
  | .gather, some (k, l) => (match (s.stack k).sue.bind l with | some b => b.writing | none => false)
  | _, _ => true

/-- Is a DATA packet's collective ready for it? One whose collective is over is taken and discarded. -/
def State.dataReady (s : State) (a : Nat) (p : Packet) : Bool :=
  match s.findColl a (tagCseq p.tag) with
  | some (_, c) => c.started && s.mayWrite c
  | none => s.known a p

/-- The own chunk is finished: its FLAG leaves both ways (R354). -/
def State.ownDone (s : State) (a cseq : Nat) : State :=
  match s.coll a cseq with
  | none => s
  | some c =>
    let need := (if c.wraps then [0, 1] else [0]).map (fun d => c.segPkts d c.pos) |>.sum
    if c.red && c.started && c.done = need && !(c.flags.any (fun f => f.1 == c.pos)) then
      (s.updColl a cseq (fun c => { c with flags := c.flags ++ [(c.pos, c.nf)] })).bothWays
        (fun t node bs => t.collSend a c (collTag a 3 0 cseq) node bs) c.members c.pos c.wraps
        (fun left d => flagPayload c.nf c.pos left d)
    else s

/-- DATA (R350 to R353): combined with the member's own, forwarded or written. Without room to write, it waits. -/
def State.collData (s0 : State) (a : Nat) (s : State) (p : Packet) : State :=
  let q := tagCseq p.tag
  match s.findColl a q with
  | none => s
  | some (_, c) =>
    match c.onData p with
    | none => s
    | some (c1, w) =>
      let rs := c.writesOf w
      match s.runsGate (dSpace c.dst) (fStack.get c.dst) rs with
      | .wait => s0.wakeRuns (dSpace c.dst) (fStack.get c.dst) rs
      | .refused => (s.abandonColl a q 6).pump a
      | .ok =>
        let c2 := { c1 with bad := c1.bad || rs.any (fun r => r.2.any Prod.snd) }
        (((s.updColl a q (fun _ => c2)).writeRuns (dSpace c.dst) (fStack.get c.dst) rs).ownDone a q).pump a

def execCollDataReceive (a : Nat) (s : State) : Res :=
  let asc := takeable 1 (s.dataReady a) [] (s.acu a).inq
  let phase := if asc.isSome then 1 else 2
  onPart s (a < 8) (s.takeColl a phase (s.dataReady a) (s.collData a))

/-- FLAG (R354): relayed while hops are left, and kept. -/
def State.collFlag (s : State) (a : Nat) (p : Packet) : State :=
  let q := tagCseq p.tag
  let bs := p.payload
  let (flag, pos, left, d) := (fld bs 0 1 % 2 == 1, fld bs 1 1, fld bs 2 1, fld bs 3 1)
  match s.findColl a q with
  | none => s
  | some (_, c) =>
    let s1 := s.updColl a q (fun c => { c with flags := c.flags.filter (fun f => f.1 != pos) ++ [(pos, flag)] })
    if left > 1 then s1.collSend a c (collTag a 3 0 q) (nextMember c.members c.pos d) (flagPayload flag pos (left - 1) d)
    else s1

def execCollFlagReceive (a : Nat) (s : State) : Res :=
  onPart s (a < 8) (s.takeColl a 3 (s.known a) (fun t p => t.collFlag a p))

/-! The closing collective (R360). -/

/-- The words of an axis with the same low 63 bits as `w` combined, or none where one differs. -/
def closeWord (w : Nat) (ws : List Nat) : Option Nat :=
  if ws.any (fun x => bits x 0 63 != bits w 0 63) then none
  else some (bits w 0 63 + b2n (bit w 63 || ws.any (fun x => bit x 63)) * 2 ^ 63)

/-- The closing collective goes on along its axes as far as the words have come. -/
def State.closeAdvance : Nat → State → Nat → Nat → State
  | 0, s, _, _ => s
  | f + 1, s, u, cseq =>
    match s.coll u cseq with
    | none => s
    | some c =>
      if !c.started then s
      else
        match c.axes.find? (fun x => !x.sent || decide ((c.words.filter (fun w => w.1 == x.axis)).length < x.members.length)
            || (c.words.any (fun w => w.1 == x.axis && w.2.2 != c.word))) with
        | none => s
        | some x =>
          if !x.sent then
            let s1 := s.updColl u cseq (fun c => { c with
              words := c.words ++ [(x.axis, x.pos, c.word)]
              axes := c.axes.map (fun y => if y.axis = x.axis then { y with sent := true } else y) })
            let nbrs := dedup ([0, 1].filterMap (fun d =>
              if flagHops x.members.length x.pos x.wraps d = 0 then none else some (nextMember x.members x.pos d)))
            let s2 := nbrs.foldl (fun t node => t.collSend u c (collTag x.axis 0 0 x.cseq) node
              (headPayload (c.headWord x.members.length) x.pos)) s1
            let s3 := s2.bothWays (fun t node bs => t.collSend u c (collTag x.axis 4 0 x.cseq) node bs) x.members x.pos x.wraps
              (fun left d => closePayload c.word x.pos left d)
            State.closeAdvance f s3 u cseq
          else
            let ws := (c.words.filter (fun w => w.1 == x.axis)).map (fun w => w.2.2)
            match closeWord c.word ws with
            | none => s.abandonColl u cseq 3
            | some w =>
              if ws.length < x.members.length then s
              else
                let s1 := s.updColl u cseq (fun c => { c with
                  word := w, words := c.words.map (fun y => if y.1 = x.axis then (y.1, y.2.1, w) else y) })
                State.closeAdvance f s1 u cseq

/-- Once every SUE has finished the step's triggers, the contribution is made (R360, steps 2 and 3; R491). -/
def State.closing (s : State) : State :=
  let cs := (List.range 8).flatMap (fun u => ((s.acu u).colls.filter (fun c => c.form == .close && !c.started)).map (fun c => (u, c)))
  match cs with
  | [] => s
  | (u, c) :: _ =>
    if s.stks.any (fun k => k.sue.binds.any (fun b => match b.trig with | some t => t.step == c.step | none => false)) then s
    else
      let nf := s.stks.any (fun k => k.sue.nfSteps.contains c.step)
      let w := c.step % 2 ^ 32 + b2n nf * 2 ^ 63
      let s1 := s.updColl u c.cseq (fun c => { c with started := true, word := w })
      (({ s1 with fab := { s1.fab with contrib := some (c.step, nf) } }).closeAdvance 20 u c.cseq).pumpAll

def execClosingCollective (s : State) : Res := onPart s true s.closing

/-- CLOSE (R360, step 4): relayed as a FLAG is, kept, combined and compared. -/
def State.collClose (s : State) (a : Nat) (p : Packet) : State :=
  let q := tagCseq p.tag
  let bs := p.payload
  let (w, pos, left, d) := (fld bs 0 8, fld bs 8 1, fld bs 9 1, fld bs 10 1)
  match s.findClose a q with
  | none => s
  | some (u, c, x) =>
    let s1 := s.updColl u c.cseq (fun c => { c with
      words := c.words.filter (fun y => y.1 != a || y.2.1 != pos) ++ [(a, pos, w)] })
    let s2 := if left > 1 then
        s1.collSend u c (collTag a 4 0 q) (nextMember x.members x.pos d) (closePayload w pos (left - 1) d)
      else s1
    (s2.closeAdvance 20 u c.cseq).pumpAll

def execCollCloseReceive (a : Nat) (s : State) : Res :=
  onPart s (a < 8) (s.takeColl a 4 (s.known a) (fun t p => t.collClose a p))

/-- ABORT (R361): the member abandons its collective, or, where it has completed it, only relays. Cause 7 also starts a
slice stop at this part (R487). -/
def State.collAbort (s : State) (a : Nat) (p : Packet) : State :=
  let q := tagCseq p.tag
  let bs := p.payload
  let (cause, left, d, node) := (fld bs 0 1, fld bs 1 1, fld bs 2 1, fld bs 4 2)
  let relay (t : State) (members : List Nat) (pos : Nat) : State :=
    if left > 1 then
      let nx := nextMember members pos d
      t.send nx .resp [t.fab.one nx tCOLL (collTag a 5 0 q) (abortPayload cause (left - 1) d node)]
    else t
  let mine := if cause = 7 then 7 else 5
  let stop (t : State) : State :=
    if cause = 7 then
      { t with fab := { t.fab with stopQ := t.fab.stopQ ++ [(2, s.now * 2 ^ 192 + node * 2 ^ 176 + 0x020E * 2 ^ 160)] } }
    else t
  match s.findColl a q with
  | some (u, c) => stop (((relay s c.members c.pos).abandonColl u q mine).pump u)
  | none =>
    match s.findClose a q with
    | some (u, c, x) => stop (((relay s x.members x.pos).abandonColl u c.cseq mine).pump u)
    | none =>
      match (s.acu a).past.find? (fun x => x.cseq == q) with
      | some x => relay s x.members x.pos
      | none => s

def execCollAbortReceive (a : Nat) (s : State) : Res :=
  onPart s (a < 8) (s.takeColl a 5 (s.known a) (fun t p => t.collAbort a p))

/-! Completion (R357 to R360). -/

/-- The group kept so that a later ABORT is relayed. -/
def Acu.addPast (u : Acu) (x : Past) : Acu :=
  let l := u.past ++ [x]
  { u with past := l.drop (l.length - 128) }

/-- The groups of a collective, by axis: those of a closing collective are on each axis that it runs along. -/
def Coll.pasts (c : Coll) (a : Nat) : List (Nat × Past) :=
  if c.form = .close then c.axes.map (fun x => (x.axis, ⟨x.cseq, x.members, x.pos, x.wraps⟩))
  else [(a, ⟨c.cseq, c.members, c.pos, c.wraps⟩)]

/-- A collective ends at this member: its instruction completes with these STATUS flags. -/
def State.endColl (s : State) (a : Nat) (c : Coll) (flags : Nat) : State :=
  let s1 := (s.dropColl a c.cseq).updAcu a (fun u => { u with ctr := ctrAdd u.ctr 0 1 })
  let s2 := (c.pasts a).foldl (fun t x => t.updAcu x.1 (fun u => u.addPast x.2)) s1
  s2.jobParts c.b c.job 0 flags

/-- Words of the closing collective all come and equal (R360)? -/
def Coll.closed (c : Coll) : Bool :=
  c.started && c.axes.all (fun x => x.sent && decide ((c.words.filter (fun w => w.1 == x.axis)).length = x.members.length)
    && c.words.all (fun w => w.1 != x.axis || w.2.2 == c.word))

/-- The combined word written to the step word of all twelve stacks (R360, step 5). -/
def State.closeDone (s : State) (a : Nat) (c : Coll) : State :=
  let gs := (List.range numStacks).map s.stackGate
  if gs.contains .refused then (s.abandonColl a c.cseq 6).pump a
  else if gs.contains .wait then (List.range numStacks).foldl State.wakeStack s
  else
    let s1 := (List.range numStacks).foldl (fun t n => t.stepWrite n c.word) s
    (s1.endColl a c 0).pump a

def State.collComplete (s : State) (a cseq : Nat) : State :=
  match s.coll a cseq with
  | none => s
  | some c =>
    if c.form = .close then (if c.closed && c.unsent = 0 then s.closeDone a c else s)
    else if !c.started then
      (if (s.gatherAt c).2 then (s.endColl a c 4).pump a else s)
    else if c.allSent && c.allCome && c.unsent = 0 && (!c.red || c.flags.length = c.p) then
      let nf := c.flags.any Prod.snd
      let flags := 4 * b2n (c.red && nf) + 32 * b2n c.bad
      match c.form, c.bind with
      | .trigger, some (k, l) =>
        match s.stackGate k with
        | .wait => s.wakeStack k
        | _ =>
          let s1 := s.endColl a c flags
          (s1.triggerWrite k l (c.step % 2 ^ 32 + b2n nf * 2 ^ 63)).pump a
      | .gather, some (k, l) =>
        if (s.gatherAt c).1 then
          let s1 := s.endColl a c flags
          (s1.putSue k ((s1.stack k).gathered l)).pump a
        else s
      | _, _ => (s.endColl a c flags).pump a
    else s

def execCollCompletion (a cseq : Nat) (s : State) : Res := onPart s (a < 8) (s.collComplete a cseq)

/-! Deadline (R361, R368, R369). -/

/-- Members that still owe this member data, nearest in chain order first (Table 13-8). -/
def Coll.late (c : Coll) : List Nat :=
  if c.form = .close then
    dedup (c.axes.flatMap (fun x => ((List.range x.members.length).filter (fun i =>
      i != x.pos && !(c.words.any (fun w => w.1 == x.axis && w.2.1 == i)))).map (fun i => x.members.getD i 0)))
  else
    let ds := c.chains.filter (fun d => decide (c.come.getD d 0 < c.total d (c.recvs d)))
    let ups := ds.filterMap c.upstream
    let fl := if c.red then (List.range c.p).filter (fun i => i != c.pos && !(c.flags.any (fun f => f.1 == i))) else []
    let near (i : Nat) : Nat := let x := (i + c.p - c.pos) % max 1 c.p; if c.wraps then min x (c.p - x) else max i c.pos - min i c.pos
    let rest := (List.range c.p).flatMap (fun k => fl.filter (fun i => near i == k))
    dedup ((ups ++ rest).map (fun i => c.members.getD i 0))

/-- The deadline of a collective passes (R361, R368); one that completes in that cycle completes first. -/
def State.collLate (s : State) (a cseq : Nat) : State :=
  match s.coll a cseq with
  | none => s
  | some c =>
    match c.dl with
    | none => s
    | some dl =>
      let s0 := s.collComplete a cseq
      if !(s.now ≥ dl && s.dlOn 0) then s
      else if (s0.coll a cseq).isNone then s0
      else
        let r := s.dlRec dl 0 a c.late (c.b % 256 * 2 ^ 24 + cseq % 256)
        let s1 := s.abandonColl a cseq 1
        let b := s1.block c.b
        let s2 := if b.st = .running then s1.updBlock c.b (fun b => { b.fence 0x1F with lastFault := some (0x1F, 0, r) }) else s1
        (s2.miss lvBlock c.b 0 r).pump a

def execCollDeadline (a cseq : Nat) (s : State) : Res := onPart s (a < 8) (s.collLate a cseq)

/-! Events of other units that let a collective go on. -/

/-- A pin grant reaches the block, and reads that waited for it begin (R265). -/
def execPinGrant (b h : Nat) (s : State) : Res := onPart s (b < 144) (s.pinGrant b h).pumpAll

def execSuePassStart (n : Nat) (s : State) : Res := onPart s (n < 12) (s.putSue n ((s.stack n).passStart s.now))

/-- A pass ends; its lanes issue nothing during a supply pause (R452). A gathering collective may then send (R359). -/
def execSuePassEnd (n : Nat) (s : State) : Res :=
  onUnit (n < 12) (if s.issueOn then (s.putSue n ((s.stack n).passEnd s.now)).pumpAll else s)

/-- A BAR2 access that the window's stacks answer (R392): a read's completion is poisoned with its words; an access that a
stack refuses ends with Completer Abort (log entry 31). -/
def State.bar2Now (s : State) (a : RAcc) : State :=
  match s.gateAt 3 0 a.off a.len with
  | .refused => { s with out := s.out ++ [.abort] }
  | .wait => (s.wakeAt 3 0 a.off a.len)
  | .ok =>
    if a.wr then
      (stacksOf 3 0 a.off a.len).foldl State.settle (s.writeAt 0 3 0 a.off (cleanBytes (fitTo a.len a.data)))
    else
      let bs := s.readAt 0 3 0 a.off a.len
      let s1 := s.touchAt 0 clsBulk 3 0 a.off a.len
      { s1 with out := s1.out ++ [.read (bs.map Prod.fst) (bs.any Prod.snd)] }

/-- A BAR2 access behind those that wait, or served at once. -/
def State.bar2Take (s : State) (a : RAcc) : State :=
  if s.host.bar2q.isEmpty && s.gateAt 3 0 a.off a.len != .wait then s.bar2Now a
  else ({ s with host := { s.host with bar2q := s.host.bar2q ++ [a] } }).wakeAt 3 0 a.off a.len

/-- The waiting BAR2 accesses taken again, in order. -/
def State.bar2Retry (s : State) : State :=
  s.host.bar2q.foldl State.bar2Take { s with host := { s.host with bar2q := [] } }

/-- What waited for a unit that has changed state goes on. -/
def State.resume (s : State) : State := s.retryAll.pumpAll.bar2Retry

end Sys2Proof.Machine
end

