-- ==== Sys2Proof/Machine/StackRows.lean ====
section
/-! DEFINITION. The stack controllers' commands: requests, the write-combining buffer, scheduling, refresh, scrub, self refresh
(chapters 9 and 16). -/

namespace Sys2Proof.Machine

/-- A request joins the queue of its class (R240); a sleeping stack is woken and it waits (R24). -/
def State.stackRequest (s : State) (n cls : Nat) (wr : Bool) (off len : Nat) : State :=
  if s.stackGate n = .refused then s
  else
    (s.wakeStack n).updStack n (fun k => k.ask s.now cls wr off len)

def execStackRequest (n cls : Nat) (wr : Bool) (off len : Nat) (s : State) : Res :=
  onPart s (n < 12 && cls < 5 && off + len ≤ stackBytes) (s.stackRequest n cls wr off len)

/-- A write accepted by the buffer (R237). -/
def execStackWriteAccept (n off : Nat) (data : List Byte) (s : State) : Res :=
  onPart s (n < 12 && off + data.length ≤ stackBytes) (s.storeIf n off (cleanBytes data))

/-- A line still partial 2 µs after its first byte is written (R238), its channel's write queue having room (R239). -/
def Stack.lineTimeout (k : Stack) (now line : Nat) : Stack :=
  match k.wcb.find? (fun l => l.line == line) with
  | some l => if now ≥ l.t + 200 && k.room line then k.flush now l else k
  | none => k

def execWcbLineTimeout (n line : Nat) (s : State) : Res :=
  onPart s (n < 12) (s.putStack n ((s.stack n).lineTimeout s.now line))

/-- A request that has waited 8 µs is served ahead of the other classes once its channel runs its way; a promoted write turns the
channel (R241, R243). -/
def Stack.promote (k : Stack) (now ch : Nat) : Stack :=
  match k.reqs.find? (fun r => (place r.off).pc / 2 == ch && r.promoted now) with
  | none => k
  | some r =>
    let k1 := if (k.chans.getD ch ⟨false, 0, 0⟩).wr ≠ r.wr && k.mustSwitch now ch then k.switch now ch else k
    if (k1.chans.getD ch ⟨false, 0, 0⟩).wr = r.wr then k1.serveSlot now (place r.off).pc else k1

def execWritePromotion (n ch : Nat) (s : State) : Res :=
  onPart s (n < 12 && ch < 32) (s.updStack n (fun k => k.promote s.now ch))

/-- A channel switches its direction (R243). -/
def execChannelDirectionSwitch (n ch : Nat) (s : State) : Res :=
  onPart s (n < 12 && ch < 32) (s.updStack n (fun k => if k.mustSwitch s.now ch then k.switch s.now ch else k))

/-- Per-bank refresh of the next bank (R247): its rows close, and it is not accessed until the refresh ends, after a time that the
spec does not give, or the next bank's begins. -/
def State.stackRefresh (s : State) (n : Nat) : State :=
  let (d, s1) := s.draw
  s1.updStack n (fun k => { k with
    bank := (k.bank + 1) % 36, refr := some (k.bank, s.now + d), rows := k.rows.filter (fun o => o.bank != k.bank) })

def execStackRefresh (n : Nat) (s : State) : Res :=
  onPart s (n < 12) (if (s.stack n).st = .active then s.stackRefresh n else s)

/-- The temperature readout (R247): refresh doubles above 85 °C and returns at or below 83 °C. -/
def execStackTemperatureSample (n : Nat) (t : Int) (s : State) : Res :=
  onPart s (n < 12) (s.updStack n (fun k => { k with
    temp := t, hot := if t > 1360 then true else if t ≤ 1328 then false else k.hot }))

/-- The patrol scrubber reads a granule (R251, R252). -/
def execPatrolScrub (n : Nat) (s : State) : Res :=
  onPart s (n < 12) (if (s.stack n).st = .active then s.putStack n ((s.stack n).scrub s.now) else s)

/-- A stack whose buffer and write queues have emptied, in SELF_REFRESH: its rows are closed. -/
def Stack.emptied (k : Stack) (now : Nat) : Stack :=
  { k.drain now with st := .selfRefresh, rows := [], refr := none, reqs := k.reqs.filter (fun r => !r.wr && r.cls != 2) }

/-- Self refresh is entered once the buffer and the write queues are empty (R239, R447). -/
def State.enterSelf (s : State) (n : Nat) : State :=
  if (s.stack n).st = .entering then
    s.putStack n ((s.stack n).emptied s.now)
  else s

/-- A woken stack becomes ready for access 4 µs after its wake began (R447): the writes that waited at its edge are accepted in
order (R24), and what else waited goes on. -/
def State.stackReady (s : State) (n : Nat) : State :=
  let k := s.stack n
  if k.st = .waking && s.now ≥ k.wake then
    let s1 := s.updStack n (fun k => { k with st := .active, byReq := false, edge := [] })
    let s2 := k.edge.foldl (fun t w => (t.storeStack n w.1 w.2).settle n) (if k.byReq then s1.emit 0x0103 lvStack n 0 0 else s1)
    s2.resume
  else s

def execStackWake (n : Nat) (s : State) : Res := onPart s (n < 12) (s.stackReady n)

end Sys2Proof.Machine
end

