-- ==== Sys2Proof/WellFormed.lean ====
section
/-! DEFINITION. Which commands name units that the part has (R9 to R13, R227, R315, Tables 14-1 and 14-8). -/

namespace Sys2Proof

/-- Units of each level of Table 14-8: blocks, regions, the chip, stacks, links, ACUs, Thallus, mailboxes. -/
def levelUnits (level : Nat) : Nat :=
  match level with
  | 1 => 144 | 2 => 4 | 3 => 1 | 4 => 12 | 5 => 64 | 6 => 8 | 7 => 1 | 8 => 16 | _ => 0

/-- Bytes of a stack (R227). -/
def stackSize : Nat := 72 * 2 ^ 30

/-- A packet's slot is one of 1 to 256 of its frame, a control slot is slot 0 (R316); a tick has 16 LD_CLK cycles. -/
def Rx.wf (r : Rx) (control : Bool) : Bool :=
  (if control then r.slot == 0 else decide (1 ≤ r.slot) && decide (r.slot ≤ 256)) && decide (r.cyc < 16)

/-- A command names existing units, and what comes with it lies inside them. -/
def Instr.wf (i : Instr) : Bool :=
  match i with
  | .instructionDecode b _ | .loop b _ | .tokWait b _ | .tokSig b _ | .ctxMark b _ | .descSet b | .descSetAdd b
    | .descSetLcr b | .descSetVimm b | .ld b | .st b | .gth b | .sca b | .collRs b _ | .collAg b _ | .collAr b _
    | .collBc b _ | .collA2a b _ | .collShift b _ | .mmMul b _ | .mmL1 b _ | .mmL2sq b _ | .mmMaxp b _ | .mmMinp b _
    | .bld b _ | .shadowLoadComplete b | .swp b _ | .strmPassStart b | .packHoldExpiry b | .slabVerdict b
    | .drainComplete b | .spl b _ | .spillComplete b | .rsm b _ | .cvt b _ | .qPush b _ | .qPop b _ | .vopAdd b _
    | .vopSub b _ | .vopMul b _ | .vopFma b _ | .vopMax b _ | .vopMin b _ | .vopAbs b _ | .vopNeg b _ | .vopDiv b _
    | .vopSqrt b _ | .vopRcp b _ | .vopRsqrt b _ | .vopExp b _ | .vopExp2 b _ | .vopLog b _ | .vopLog2 b _
    | .vopTanh b _ | .vopSigm b _ | .vopCmpEq b _ | .vopCmpNe b _ | .vopCmpLt b _ | .vopCmpLe b _ | .vopSel b _
    | .vopRsum b _ | .vopRmax b _ | .vopRmin b _ | .vopRssq b _ | .vopAcc b _ | .vopMset b _ | .rowLnF b _
    | .rowLnB b _ | .rowRmsF b _ | .rowRmsB b _ | .rowSmF b _ | .rowSmB b _ | .rowSmCh b _ | .rowSmMrg b _
    | .rowGet b _ | .rowSt b _ | .rowLd b _ | .completionEvent b _ | .errorCompletion b _ | .streamHang b | .nocE2e b
    | .scratchpadScrubTick b | .secureWipeComplete b | .blockStartMessage b | .blockClockRampComplete b
    | .blockClockGate b | .pinRequest b _ | .pinGrant b _ | .pinRefused b _ | .pinRelease b _ | .blockFetch b =>
    b < 144
  | .tokenMessage src dst | .nocTransferDelivery src dst _ =>
    src < 144 && dst < 144
  | .queueEntryCommit b qn _ =>
    b < 144 && qn < 8
  | .regionStoreAccess r _ off len _ =>
    r < 4 && off + len ≤ 2 ^ 24
  | .triggerWrite n _ _ | .suePassStart n | .suePassEnd n | .stepWordWrite n _ | .stepClose n | .rollbackComplete n _
    | .layerUpdateDeadline n _ | .pinDeadline n _ | .scaRowApply n | .wcbLineTimeout n _ | .stackRefresh n
    | .stackTemperatureSample n _ | .patrolScrub n | .selfRefreshEntry n | .stackWake n | .tripStackStop n =>
    n < 12
  | .stackRequest n cls _ off len =>
    n < 12 && cls < 5 && off + len ≤ stackSize
  | .stackWriteAccept n off data =>
    n < 12 && off + data.length ≤ stackSize
  | .writePromotion n ch | .channelDirectionSwitch n ch =>
    n < 12 && ch < 32
  | .linkSlotTransmit l | .linkDown l | .linkTransitionComplete l
    | .linkTrainerStart l _ | .linkGateVerdict l _ _ _ =>
    l < 64
  | .packetIngress l _ rx =>
    decide (l < 64) && rx.wf false
  | .controlSlotReceive l _ rx =>
    decide (l < 64) && rx.wf true
  | .packetInjection d =>
    d.die < 2 && d.cyc < 16
  | .endpointReceive d | .ackTimer d _ | .ackReceive d | .resendTimeout d _ | .errReceive d
    | .respReceive d | .keepAliveLoss d | .linkReferenceStop d | .linkDieLost d =>
    d < 2
  | .collHeadReceive a | .collDataReceive a | .collFlagReceive a | .collCloseReceive a | .collAbortReceive a
    | .collCompletion a _ | .collDeadline a _ =>
    a < 8
  | .closingCollective | .stcSyncRound | .stcSeedTimeout | .deadlineRecordReceive | .sliceStopRecordReceive
    | .sliceStop | .eventLogEntry | .evtIrqGapExpiry | .thallusWake | .faultSummaryWrite _ | .hostHbWrite _
    | .evtTailWrite _ | .stcNowRead _ _ | .functionLevelReset | .heartbeat | .hostSilent | .thallusLockstep
    | .thallusRestartComplete | .pwrGoodRise _ _ | .resetNLow | .warmReset | .supplyResume | .tripClockStop
    | .oscillatorStop | .chipTransitionComplete | .fuseReadComplete _ | .romBootComplete _ | .flashDiscovery _ _
    | .firmwareVerify | .settingsVerify | .ready | .castSegmentReceive | .castFetchReceive | .castRefuseReceive
    | .jtagAccess _ _ | .smbusCommand _ _ | .smbusAlertResponse | .smbusTimeout | .coreDieResetRelease
    | .resetLevelRelease =>
    true
  | .correctedSummary level unit _ =>
    decide (unit < levelUnits level)
  | .mbxHandoff m off data | .mailboxWrite m off data =>
    m < 16 && off + data.length ≤ 4096
  | .commandCompletion m | .mailboxDeadline m | .devIdentify m | .devGrade m | .devFwVersion m | .devHeartbeat m
    | .pwrChipState m | .pwrRegionState m | .pwrStackState m | .pwrLinkState m | .pwrQuery m | .memMapWindow m
    | .memWipe m | .memFill m | .memCopy m _ | .memScrubSet m | .memReadBack m | .prgLoad m _ | .prgCastOpen m
    | .prgCastSegment m _ | .prgCastClose m | .prgStart m | .prgStop m | .prgStatus m | .descWrite m | .fabProfile m
    | .fabLinkStatus m | .fabSliceSet m | .fabSliceClear m | .fabAcceptWiring m | .fabRetrainLink m
    | .fabTransitOnly m | .stcRead m | .stcSetEpoch m | .stcSetEpochSeed m | .deadlinePolicy m | .sueLoadRule m
    | .sueBindLayer m | .sueUnbindLayer m | .sueVersionState m | .sueScaleMode m | .sueRollback m | .sueStatsRead m
    | .telCounters m _ | .telSensors m | .telClear m | .fltRead m | .fltClear m | .fltInject m | .blkGradeDown m
    | .secAttest m | .secLifecycle m | .secOwnerKey m | .fwStage m _ | .fwSwitch m | .setRead m _ | .setWrite m _ =>
    m < 16
  | .registerWrite off size _ =>
    off + size ≤ 0x40000
  | .bar2Access _ off len _ =>
    decide (off + len ≤ 2 ^ 36)
  | .oscWaitExpiry low =>
    low.all (fun r => r < 8)
  | .packageReset cause =>
    cause < 10
  | .coreDieReset rail | .supplyWarn rail | .supplyHigh rail =>
    rail < 8
  | .thermalSample core dies =>
    core.length == 5 && dies.length == 2
  | .regionTransitionComplete r =>
    r < 4
  | .memoryTrainingComplete n v =>
    n < 12 && (match v with | .failed k => decide (1 ≤ k) && decide (k ≤ 6) | .trained _ => true)
  | .blockTest fails =>
    fails.all (fun x => x.1 < 144)
  | .tamperEvent sensor =>
    sensor < 5
  | .hostDebugAccess b wr off len data =>
    b < 144 && (off + (if wr then data.length else len) ≤ 2 ^ 21
      || 2 ^ 21 ≤ off && off + (if wr then data.length else len) ≤ 2 ^ 21 + 0x1000)
  | .cablePresent p | .cableRemoved p =>
    p < 16
  | .sidebandShort p pin =>
    p < 16 && pin < 4

end Sys2Proof
end

