-- ==== Sys2Proof/Machine/Fabric.lean ====
section
/-! DEFINITION. Links and endpoints: slots, ingress, control slots, injection, re-send, acknowledgement, and the requests of
other parts (R315 to R345, R482, R492 to R496). -/

namespace Sys2Proof.Machine

/-- Link counters (Table 12-12). -/
def lTx := 0
def lRx := 1
def lFecCorr := 2
def lFecUnc := 3
def lDropFec := 4
def lForeign := 5
def lBubble := 6
def lDown := 7

/-- Endpoint counters (Table 12-12). -/
def eFail := 0
def eDup := 1
def eOrder := 2
def eBadType := 3
def eResend := 4
def ePathLost := 5
def eErrSent := 6
def eCoreDown := 7

def State.link (s : State) (l : Nat) : Link := s.fab.link l
def Link.count (k : Link) (i : Nat) : Link := { k with ctr := ctrAdd k.ctr i 1 }
def Endp.count (e : Endp) (i : Nat) : Endp := { e with ctr := ctrAdd e.ctr i 1 }

/-- Does the link die of a link run (R441)? -/
def State.dieUp (s : State) (d : Nat) : Bool := s.pwr.good && s.pwr.dieOn.getD d false && !(s.pwr.dieIdle.getD d false)

/-! Lost directions (R496). -/

/-- Directions of the slice that have MEMBER ports and no UP link. -/
def FabS.emptyDirs (f : FabS) : List (Nat × Nat) :=
  if f.slice = 0 then []
  else
    ((List.range 8).flatMap (fun a => [(a, 0), (a, 1)])).filter (fun ad =>
      profDef f.prof ad.1 && (List.range 16).any (fun n => f.portDir n == some ad && f.memberPort n)
        && (f.upLinks ad.1 ad.2).isEmpty)

/-- DIRECTION_LOST for directions newly without a link; one that has a link again may be lost anew. -/
def State.dirCheck (s : State) : State :=
  let e := s.fab.emptyDirs
  let new := e.filter (fun ad => !(s.fab.dirLost.contains ad))
  let s1 := { s with fab := { s.fab with dirLost := e } }
  new.foldl (fun t ad => t.emit 0x0206 lvChip 0 (ad.1 + 65536 * ad.2) 0) s1

/-- After training both ends count slots anew, a slot still held here as one not yet freed (log entry 76). -/
def State.recount (s : State) (l : Nat) : State :=
  s.updLink l (fun k => { k with
    sent := [0, 0, 0, 0], cred := [0, 0, 0, 0]
    freed := (List.range 4).map (fun v => (65536 - s.fab.held l v % 65536) % 65536) })

/-- A link enters UP (R467, R493). -/
def State.linkUp (s : State) (l : Nat) : State :=
  let s1 := s.updLink l (fun k => { k with st := .up, goal := .up, lastGood := s.now })
  let s2 := { s1 with time := { s1.time with quiet := match s1.time.quiet with | some t => some t | none => some s1.now } }
  (s2.emit 0x0201 lvLink l l 0).dirCheck

/-! Sending (R319, R329 to R331). -/

/-- Free receive slots known at the neighbour for a VC. -/
def Link.credits (k : Link) (vc : Nat) : Nat := 512 - (k.sent.getD vc 0 + 65536 - k.cred.getD vc 0) % 65536

/-- May a packet leave now (R331)? -/
def Link.may (k : Link) (x : TxP) : Bool := decide (k.credits x.p.vc ≥ (if x.turn = 0 then 1 else 2))

/-- Does `x` go before `y` (R330, items 3 and 4)? -/
def TxP.before (x y : TxP) : Bool :=
  decide (x.t < y.t) || (x.t == y.t && (decide (x.turn < y.turn) || (x.turn == y.turn && decide (x.from_ < y.from_))))

/-- The first packet in order of a list. -/
def firstTx : List TxP → Option TxP
  | [] => none
  | x :: xs => match firstTx xs with | some y => if y.before x then some y else some x | none => some x

/-- The packet of a link's next slot (R330). -/
def Link.choose (k : Link) : Option TxP :=
  let on (v : Nat) : Option TxP := firstTx (k.tx.filter (fun x => x.p.vc == v && k.may x))
  match on 3 with
  | some x => some x
  | none => ([k.rot % 3, (k.rot + 1) % 3, (k.rot + 2) % 3].filterMap on).head?

/-- Is a link's cable silenced by an injected fault (R430)? -/
def Link.mute (k : Link) (now : Nat) : Bool := match k.silent with | some t => decide (now < t) | none => false

/-- What a link sends; what a silenced cable is given is lost. -/
def State.wire (s : State) (l : Nat) (o : Out) : State :=
  if (s.link l).mute s.now then s else { s with out := s.out ++ [o] }

/-- LD_CLK cycles of the STC: LD_CLK is 6.4 GHz / LD_D, 16 cycles in a tick at the default (Table 16-2). -/
def State.ldNow (s : State) : Nat := 64 * s.now / max 1 (bits s.pwr.clkRec 8 4)

/-- Link protocol version of the running firmware (Table 17-5). -/
def State.linkVer (s : State) : Nat × Nat := (fld s.boot.hdr 12 1, fld s.boot.hdr 13 1)

/-- The identity record sent on a link (Table 12-2, bytes 24 to 47): the axis and direction byte as a PORTn field has them
(log entry 133). A part without a profile sends node 0xFFFF and a hash of zeros. -/
def State.identBytes (s : State) (l : Nat) : List Byte :=
  let v := s.linkVer
  let ad := match s.fab.portDir (l / 4) with | some (a, d) => a + 8 * d | none => 0
  let (node, hash) := match s.fab.profile with | some pr => (s.fab.node, pr.hash) | none => (0xFFFF, 0)
  toLE 2 node ++ toLE 1 (l / 4) ++ toLE 1 ad ++ toLE 1 v.1 ++ toLE 1 v.2 ++ toLE 16 hash ++ [0, 0]

/-- Is a control slot the first that a link sends after a multiple of 100 ticks (R363)? -/
def State.sampleDue (s : State) (l : Nat) : Bool := (s.link l).sampled != some (s.now / 100)

/-- A step counter sample (Table 13-6); one that is not VALID is zeros. -/
def State.sampleBytes (s : State) (valid : Bool) : List Byte :=
  toLE 16 (if valid then s.time.stc % 2 ^ 96 * 2 ^ 32 + s.time.state * 2 ^ 30 + 2 ^ 29 else 0)

/-- A slot's first 76 bytes with their CRC-32C. -/
def sealed (bs : List Byte) : List Byte := bs ++ toLE 4 (crc32c bs)

/-- Does the CRC-32C of a control or training slot hold? -/
def sealOk (bs : List Byte) : Bool := bs.length == 80 && fld bs 76 4 == crc32c (bs.take 76)

/-- The control slot that a link sends now (Table 12-2). -/
def State.ctlBytes (s : State) (l : Nat) : List Byte :=
  sealed ((s.link l).freed.flatMap (toLE 2) ++ s.sampleBytes (s.sampleDue l) ++ s.identBytes l ++ List.replicate 28 0)

/-- A training slot (Table 17-8). -/
def State.trainBytes (s : State) (l step flags : Nat) : List Byte :=
  sealed (toLE 1 step ++ toLE 1 flags ++ [0, 0] ++ s.identBytes l ++ toLE 8 s.ldNow ++ toLE 8 (s.link l).echo
    ++ List.replicate 32 0)

/-- The packet that a link sends in its next slot, and what the choice leaves (R330, R331). -/
def State.sendPacket (s : State) (l : Nat) : State :=
  let k := s.link l
  let wait := k.tx.any (fun x => x.turn != 0 && k.credits x.p.vc == 1)
  let k0 := if wait then k.count lBubble else k
  match k.choose with
  | none => s.updLink l (fun _ => k0)
  | some x =>
    let k1 := { k0.count lTx with
      tx := k0.tx.erase x
      sent := updAt k0.sent x.p.vc (fun n => (n + 1) % 65536)
      rot := if x.p.vc = 3 then k0.rot else (x.p.vc + 1) % 3 }
    ((s.updLink l (fun _ => k1)).freeSlot x.p).wire l (.packet l { x.p with via := 64 })

/-- States in which a link sends and receives control slots. -/
def LinkSt.slots : LinkSt → Bool
  | .up | .standby | .miswired | .version => true
  | _ => false

/-- A transmit link's next slot (R316, R320, R465): slot 0 of a frame is the control slot, or a training slot during the gate;
the others carry a packet or nothing, or the PRBS31 pattern during the gate. -/
def State.slot (s : State) (l : Nat) : State :=
  let k := s.link l
  let gate := k.st == .training && k.gate
  if !(s.dieUp (l / 32)) || !(k.st.slots || gate) then s
  else
    let s1 := s.updLink l (fun k => { k with
      txPos := (k.txPos + 1) % 257, sampled := if k.txPos = 0 && !gate then some (s.now / 100) else k.sampled })
    if gate then s1.wire l (if k.txPos = 0 then .train l (s.trainBytes l 6 (b2n k.fast)) else .prbs l)
    else if k.txPos = 0 then s1.wire l (.control l (s.ctlBytes l))
    else if k.st = .up then s1.sendPacket l
    else s1

def execLinkSlotTransmit (l : Nat) (s : State) : Res := onPart s (l < 64) (s.slot l)

/-- A packet put on its way from this part: to its own endpoint, to a transmit buffer, or dropped for want of an UP link,
counted at die `d` (R328, R329). `inAxis` is the axis it came by, and `t` its LD_CLK cycle. -/
def State.forward (s : State) (p : Packet) (d t : Nat) (inAxis : Option Nat) : State :=
  match s.fab.route p.dst with
  | none => s.updEndp (p.src % 2) (fun e => { e with inq := e.inq ++ [p] })
  | some (a, dir) =>
    match s.fab.pickLink a dir p.src p.dst with
    | none => (s.freeSlot p).updEndp d (fun e => { e with noRoute := min cntMax (e.noRoute + 1) })
    | some l =>
      let turn := match inAxis with | some b => if a = b then 0 else 1 | none => 2
      s.updLink l (fun k => { k with tx := k.tx ++ [⟨p, t, turn, p.via⟩] })

/-! Reception: frames and FEC (R315, R316, R318). -/

/-- The FEC code words of its frame that slot `n` overlaps: a word carries 5,140 data bits, a slot 640 (R316). -/
def slotWords (n : Nat) : List Nat :=
  let (a, z) := (640 * n / 5140, (640 * n + 639) / 5140)
  (List.range (z + 1 - a)).map (fun i => a + i)

/-- The code words of a slot with their symbol errors, numbered through the frames. -/
def rxWords (r : Rx) : List (Nat × Nat) := ((slotWords r.slot).map (fun w => 32 * r.frame + w)).zip (r.errs ++ [0, 0])

/-- RS(544,514) corrects up to 15 symbols of a code word (R315). -/
def fecLimit : Nat := 15

/-- Does a slot overlap an uncorrectable code word (R318)? -/
def rxLost (r : Rx) : Bool := (rxWords r).any (fun w => decide (w.2 > fecLimit))

/-- Does an instant lie in the last second (Table 15-7)? -/
def lastSecond (now t : Nat) : Bool := decide (now < t + 100000000)

/-- One code word's verdict counted, once (R344). -/
def Link.fecWord (now : Nat) (k : Link) (w : Nat × Nat) : Link :=
  if (match k.fecLast with | some v => decide (w.1 ≤ v) | none => false) then k
  else
    let k1 :=
      if w.2 = 0 then k
      else if w.2 ≤ fecLimit then { k.count lFecCorr with fecAt := k.fecAt.filter (lastSecond now) ++ [now] }
      else k.count lFecUnc
    { k1 with fecLast := some w.1 }

def Link.fec (now : Nat) (k : Link) (r : Rx) : Link := (rxWords r).foldl (Link.fecWord now) k

/-- States in which a link end receives packets: a link's state governs its transmit side only (R448). -/
def LinkSt.takes : LinkSt → Bool
  | .up | .standby => true
  | _ => false

/-- Does the slice check of R339 drop a packet that arrives at a link? -/
def FabS.foreign (f : FabS) (l : Nat) (p : Packet) : Bool :=
  p.slice = 0 || p.slice ≠ f.slice || !(f.memberPort (l / 4)) || !(f.inBox p.src) || !(f.inBox p.dst)

/-- A packet arrives at a link (R318, R339): it takes a receive slot, which a dropped one gives back at once. -/
def State.ingress (s : State) (l : Nat) (p0 : Packet) (rx : Rx) : State :=
  let k := s.link l
  let p := { p0 with via := l }
  if !k.st.takes || !(s.dieUp (l / 32)) || k.mute s.now then s
  else
    let s1 := s.updLink l (fun k => k.fec s.now rx)
    if rxLost rx then (s1.updLink l (fun k => k.count lDropFec)).freeSlot p
    else if s.fab.foreign l p then
      let w := s.now / 100000
      let s2 := (s1.updLink l (fun k => { k.count lForeign with foreign := some w })).freeSlot p
      if k.foreign = some w then s2 else s2.emit 0x0205 lvLink l (l + 65536 * p.src + 2 ^ 32 * p.slice) 0
    else
      (s1.updLink l (fun k => k.count lRx)).forward p (l / 32) (s.ldNow + rx.cyc) ((s.fab.portDir (l / 4)).map Prod.fst)

def execPacketIngress (l : Nat) (p : Packet) (rx : Rx) (s : State) : Res := onPart s (l < 64 && rx.wf false) (s.ingress l p rx)

/-! Control slots and wiring checks (R317, R365, R492, R493). -/

/-- An identity record at a byte of a slot (Table 12-2). -/
def identAt (bs : List Byte) (o : Nat) : Ident :=
  let b := fld bs (o + 3) 1
  ⟨fld bs o 2, fld bs (o + 2) 1, b % 8, b / 8 % 2, fld bs (o + 4) 1, fld bs (o + 5) 1, fld bs (o + 6) 16⟩

/-- The fields of a control slot (Table 12-2). -/
def ctlOf (bs : List Byte) : CtlSlot :=
  let x := fld bs 8 16
  ⟨(List.range 4).map (fun v => fld bs (2 * v) 2), ⟨bits x 64 64, bits x 32 32, bits x 30 2, bit x 29⟩, identAt bs 24⟩

/-- The checks of R492 on an identity record: 0 passed, 1 the version differs, 2 the wiring or profile does. -/
def State.identBad (s : State) (l : Nat) (i : Ident) : Nat :=
  if i.major ≠ s.linkVer.1 then 1
  else
    match s.fab.profile, s.fab.portDir (l / 4) with
    | some pr, some (a, d) =>
      if i.node = 0xFFFF then 0
      else if i.node = s.fab.neighbour a d && i.axis = a && i.dir = 1 - d && i.hash = pr.hash % 2 ^ 128 then 0 else 2
    | _, _ => 0

/-- The node and port that a port expects to face: the k-th port of an axis faces the k-th port of the opposite direction
(DESIGN CHOICE, log entry 24). -/
def FabS.expected (f : FabS) (n : Nat) : Nat × Nat :=
  match f.portDir n with
  | none => (0xFFFF, 0xFF)
  | some (a, d) =>
    let mine := (List.range 16).filter (fun m => f.portDir m == some (a, d))
    let theirs := (List.range 16).filter (fun m => f.portDir m == some (a, 1 - d))
    (f.neighbour a d, theirs.getD ((mine.findIdx? (fun m => m == n)).getD 0) 0xFF)

/-- A link takes the verdict of the identity checks (R493). -/
def State.wiring (s : State) (l : Nat) (i : Ident) : State :=
  let k := s.link l
  match s.identBad l i with
  | 1 =>
    if k.st = .version then s
    else
      let v := s.linkVer
      ((s.updLink l (fun k => { k with st := .version })).emit 0x0209 lvLink l
        (l + 65536 * (v.1 * 256 + v.2) + 2 ^ 32 * (i.major * 256 + i.minor)) 0).dirCheck
  | 2 =>
    if k.st = .miswired then s
    else
      let n := l / 4
      let x := s.fab.expected n
      let s1 := [0, 1, 2, 3].foldl (fun (t : State) j =>
        t.updLink (4 * n + j) (fun k => if k.st.slots then { k with st := .miswired } else k)) s
      (s1.emit 0x0208 lvLink l n (i.node + 65536 * i.port + 2 ^ 32 * x.1 + 2 ^ 48 * x.2)).dirCheck
  | _ => if k.st = .miswired || k.st = .version then s.linkUp l else s

/-- A sample as θ in units of 2^-32 tick (R365): the sender's time plus the delay, less this part's. -/
def State.theta (s : State) (x : StcSample) (delay : Nat) : Int :=
  ((x.int * 2 ^ 32 + x.frac + delay * 2 ^ 32 / 10000 : Nat) : Int) - ((s.time.stc % 2 ^ 96 : Nat) : Int)

/-- What a good control slot brings (R317, R320, R365). -/
def State.goodSlot (s : State) (l : Nat) (c : CtlSlot) : State :=
  let s1 := s.updLink l (fun k => { k with
    cred := c.cred, lastGood := s.now, ident := some c.ident
    sample := if c.sample.valid then some (s.theta c.sample k.delay, c.sample.state, s.now) else k.sample })
  let s2 := if c.sample.valid && c.sample.state = 2 then
      { s1 with time := { s1.time with quiet := s1.time.quiet.map (fun _ => s1.now) } }
    else s1
  s2.wiring l c.ident

/-- A control slot is received (R317, R320): one whose CRC-32C fails is ignored. -/
def State.ctlSlot (s : State) (l : Nat) (bs : List Byte) (rx : Rx) : State :=
  let k := s.link l
  if !k.st.slots || !(s.dieUp (l / 32)) || k.mute s.now then s
  else
    let s1 := s.updLink l (fun k => k.fec s.now rx)
    if sealOk bs then s1.goodSlot l (ctlOf bs) else s1

def execControlSlotReceive (l : Nat) (bs : List Byte) (rx : Rx) (s : State) : Res :=
  onPart s (l < 64 && rx.wf true) (s.ctlSlot l bs rx)

/-- No good control slot for 2 µs: the link goes down, and what it held is dropped (R320). -/
def State.goDown (s : State) (l : Nat) : State :=
  (((s.updLink l (fun k => { k.count lDown with
    st := .down, goal := .up, tx := [], downAt := s.now, sample := none, gate := false, tries := 0 })).freeSlots
      ((s.link l).tx.map TxP.p)).emit 0x0202 lvLink l l 0).dirCheck

def State.linkDown (s : State) (l : Nat) : State :=
  let k := s.link l
  if k.st.slots && s.dieUp (l / 32) && decide (s.now ≥ k.lastGood + 200) then s.goDown l else s

def execLinkDown (l : Nat) (s : State) : Res := onPart s (l < 64) (s.linkDown l)

/-! Endpoints: injection (R332, R335, R340). -/

def Endp.pair (e : Endp) (node : Nat) : Pair := (e.pairs.find? (fun p => p.node == node)).getD ⟨node, 0, [], 0, false, 0, 0, none, none⟩

def Endp.setPair (e : Endp) (p : Pair) : Endp := { e with pairs := e.pairs.filter (fun x => x.node != p.node) ++ [p] }

/-- Packets kept in all. -/
def Endp.kept (e : Endp) : Nat := (e.pairs.map (fun p => p.kept.length)).sum

/-- The end of a request: it leaves the list of those that await an answer. -/
def State.dropReq (s : State) (d tag node : Nat) : State :=
  s.updEndp d (fun e => { e with reqs := e.reqs.filter (fun r => !(r.tag == tag && r.node == node)) })

/-- An error completion for whoever gave a packet to the endpoint (R335, R340). -/
def State.sendFailed (s : State) (d : Nat) (p : Packet) (o : Orig) (code : Nat) : State :=
  match o with
  | .block b job =>
    (s.dropReq d p.tag p.dst).jobErr b job
      { ErrI.of code with arg := if code = 0x22 then p.dst else 0, node := if code = 0x20 then p.dst else 0 }
  | .acu a q => (s.abandonColl a q 2 p.dst).pump a
  | .cast => { s with fab := { s.fab with acks := s.fab.acks.filter (fun x => x.1 != p.dst) } }
  | .resp => s

/-- Can a waiting packet be taken at injection, its pair within the limits (R335)? -/
def Endp.canInject (e : Endp) (p : Packet) : Bool :=
  p.typ == tACK || (decide ((e.pair p.dst).kept.length < 1024) && decide (e.kept < 65536)) || (e.pair p.dst).lost

/-- The first packet that can be injected, and the rest. -/
def splitFirst {α : Type} (f : α → Bool) : List α → Option (α × List α)
  | [] => none
  | x :: xs => if f x then some (x, xs) else (splitFirst f xs).map (fun r => (r.1, x :: r.2))

/-- An endpoint injects a packet (R333, R335, R340), in LD_CLK cycle `cyc` of the tick. -/
def State.inject (s : State) (d cyc : Nat) : State :=
  let e := s.endp d
  if !(s.dieUp d) then s
  else
    match splitFirst (fun x => e.canInject x.1) e.outq with
    | none => s
    | some ((p, o), rest) =>
      let s1 := s.updEndp d (fun e => { e with outq := rest })
      if !(s.fab.inBox p.dst) then s1.sendFailed d p o 0x22
      else if p.typ = tACK then s1.forward { p with crc := pktSum p } d (s.ldNow + cyc) none
      else
        let q := e.pair p.dst
        if q.lost then s1.sendFailed d p o 0x20
        else
          let p1 := { p with seq := q.seq, slice := s.fab.slice, src := s.fab.node }
          let p2 := { p1 with crc := pktSum p1 }
          let s2 := s1.updEndp d (fun e => e.setPair { q with seq := (q.seq + 1) % 2 ^ 24, kept := q.kept ++ [⟨p2, o, s.now⟩] })
          let s3 := if o = .cast then { s2 with fab := { s2.fab with acks := s2.fab.acks ++ [(p.dst, q.seq)] } } else s2
          s3.forward p2 d (s.ldNow + cyc) none

def execPacketInjection (d : InjAt) (s : State) : Res := onPart s (d.die < 2 && d.cyc < 16) (s.inject d.die d.cyc)

/-- A packet's part of its sender's work is done: it has been acknowledged (R357, Table 7-6). -/
def State.acked (s : State) (d : Nat) (k : Kept) : State :=
  match k.orig with
  | .block b job =>
    if (k.p.typ = tWR || k.p.typ = tSCA) && k.p.last then (s.dropReq d k.p.tag k.p.dst).jobPart b job else s
  | .acu a q => s.collAcked a q
  | .cast => { s with fab := { s.fab with acks := s.fab.acks.filter (fun x => !(x.1 == k.p.dst && x.2 == k.p.seq)) } }
  | .resp => s

/-- An ACK acknowledges every packet below its SEQ (R334). -/
def State.applyAck (s : State) (d : Nat) (p : Packet) : State :=
  let q := (s.endp d).pair p.src
  let under (k : Kept) : Bool := let x := (p.seq + 2 ^ 24 - k.p.seq) % 2 ^ 24; 1 ≤ x && decide (x ≤ 2 ^ 23)
  let gone := q.kept.filter under
  if gone.isEmpty then s
  else
    let s1 := s.updEndp d (fun e => e.setPair { q with kept := q.kept.filter (fun k => !(under k)), retry := 0 })
    gone.foldl (fun t k => t.acked d k) s1

/-- The endpoint takes one of the ACKs that have reached it. -/
def State.takeAckOf (s : State) (d : Nat) (is : Packet → Bool) : State :=
  if !(s.dieUp d) then s
  else
    match splitFirst (fun p => p.typ == tACK && is p) (s.endp d).inq with
    | none => s
    | some (p, rest) =>
      let s1 := (s.updEndp d (fun e => { e with inq := rest })).freeSlot p
      if !(pktOk p) then s1.updEndp d (fun e => e.count eFail)
      else if p.vc ≠ 1 then s1.updEndp d (fun e => e.count eBadType)
      else s1.applyAck d p

def State.takeAck (s : State) (d : Nat) : State := s.takeAckOf d (fun _ => true)

/-- The ACKs of a node that have reached the endpoint are applied before a timeout (R334). -/
def State.acksFirst (s : State) (d node : Nat) : State :=
  ((s.endp d).inq.filter (fun p => p.typ == tACK && p.src == node)).foldl (fun t _ => t.takeAckOf d (fun p => p.src == node)) s

def execAckReceive (d : Nat) (s : State) : Res := onPart s (d < 2) (s.takeAck d)

/-- The oldest unacknowledged packet of a pair times out (R335), unless an ACK that has come covers it (R334). -/
def State.timeout (s0 : State) (d node : Nat) : State :=
  let s := s0.acksFirst d node
  let e := s.endp d
  let q := e.pair node
  match q.kept with
  | [] => s
  | k :: _ =>
    if q.lost || !(s.dieUp d) || s.fab.timeout = 0 || decide (s.now < k.t + s.fab.timeout) then s
    else if q.retry < 3 then
      let s1 := s.updEndp d (fun e => (e.setPair { q with
        retry := q.retry + 1, kept := q.kept.map (fun k => { k with t := s.now }) }).count eResend)
      q.kept.foldl (fun t k => t.forward k.p d s.ldNow none) s1
    else
      let s1 := s.updEndp d (fun e => (e.setPair { q with lost := true, kept := [] }).count ePathLost)
      let s2 := s1.emit 0x0204 lvEndp d node k.p.seq
      q.kept.foldl (fun t k => t.sendFailed d k.p k.orig 0x20) s2

def execResendTimeout (d node : Nat) (s : State) : Res := onPart s (d < 2) (s.timeout d node)

/-! Endpoints: reception (R333, R334, R336). -/

/-- An ACK sent to a node, with SEQ = NEXT. -/
def State.sendAck (s : State) (d node : Nat) : State :=
  let q := (s.endp d).pair node
  let s1 := s.updEndp d (fun e => e.setPair { q with unack := 0, since := none })
  s1.updEndp d (fun e => { e with outq := e.outq ++ [({ s1.fab.one node tACK 0 [] with seq := q.next }, .resp)] })

/-- A packet committed: NEXT advances, and 64 commits bring an ACK. -/
def State.commit (s : State) (d node : Nat) : State :=
  let q := (s.endp d).pair node
  let q1 := { q with
    next := (q.next + 1) % 2 ^ 24, unack := q.unack + 1, since := match q.since with | some t => some t | none => some s.now }
  let s1 := s.updEndp d (fun e => e.setPair q1)
  if q1.unack ≥ 64 then s1.sendAck d node else s1

/-- 1 µs has passed since the oldest unacknowledged commit (R334). -/
def State.ackDue (s : State) (d node : Nat) : State :=
  match ((s.endp d).pair node).since with
  | some t => if s.now ≥ t + 100 && s.dieUp d then s.sendAck d node else s
  | none => s

def execAckTimer (d node : Nat) (s : State) : Res := onPart s (d < 2) (s.ackDue d node)

/-- A request that cannot be served is answered with ERR (R336). -/
def State.sendErr (s : State) (d : Nat) (p : Packet) (cause : Nat) : State :=
  (s.updEndp d (fun e => e.count eErrSent)).send p.src .resp [s.fab.one p.src tERR p.tag [BitVec.ofNat 8 cause]]

def State.setMsg (s : State) (d node : Nat) (m : Option Msg) : State :=
  s.updEndp d (fun e => e.setPair { e.pair node with msg := m })

/-- The address block of a message's first packet (Table 12-6). -/
structure Blk where
  n : Nat
  op : Nat
  fmt : Nat
  sat : Bool
  sp : Nat
  stk : Nat
  addr : Nat
  deriving DecidableEq, Repr

def blkOf (p : Packet) : Blk :=
  let w := ofLE (p.payload.take 16)
  ⟨bits w 64 12 + 1, bits w 60 2, bits w 56 4, bit w 55, bits w 52 3, bits w 48 4, bits w 0 48⟩

def isScaMsg (t : Nat) : Bool := t == tSCA || t == tSCAR

/-- Why no request is served at this part now: the cause of Table 12-7, 0 for none (R341, R342, R442). -/
def State.closedTo (s : State) : Nat :=
  if s.fab.transit then 5 else if !s.coreUp then 6 else if s.pwr.chip = 0 then 4 else 0

/-- Why the bytes of a packet cannot be served now (R24, R154). -/
def State.refusedAt (s : State) (b : Blk) (a n : Nat) : Nat :=
  if s.closedTo ≠ 0 then s.closedTo
  else if s.gateAt b.sp b.stk a n = .refused then 4
  else if s.deniedAt b.sp a n then 3
  else 0

/-- Is the address block itself unserviceable: a space, an adder format or an extent (Table 12-7, causes 1 and 2)? -/
def blkBad (typ : Nat) (b : Blk) : Nat :=
  if b.sp = 0 || b.sp > 4 || (b.sp = 4 && b.stk > 11) then 1
  else if isScaMsg typ && (b.sp < 3 || !(match Fmt.ofCode b.fmt with | some f => scaFmts.contains f | none => false)) then 1
  else if !(inSpace b.sp b.addr (b.addr + b.n - 1)) then 2
  else 0

/-- Why a request cannot be served here: the cause of Table 12-7, 0 for none (R336). -/
def State.refusal (s : State) (p : Packet) : Nat :=
  let b := blkOf p
  if s.closedTo ≠ 0 then s.closedTo
  else if blkBad p.typ b ≠ 0 then blkBad p.typ b
  else s.refusedAt b b.addr b.n

/-- Elements of a piece of SCA data, cut by stack: (stack, elements). -/
def scaPieces (b : Blk) (w : Nat) (at_ : Nat) (data : List Byte) : List (Nat × List (Nat × Nat × Nat × Bool)) :=
  let cs := chunks w data
  byStack b.sp b.stk (((List.range cs.length).zip cs).map (fun ic => (at_ / w + ic.1, b.addr + at_ + ic.1 * w, ofLE ic.2, false)))

/-- One packet of a request served: bytes written, elements applied (R217, R237, R249). -/
def State.serve (s : State) (d : Nat) (b : Blk) (m : Msg) (data : List Byte) : State × Msg :=
  if isScaMsg m.head.typ then
    let f := (Fmt.ofCode b.fmt).getD .fp32
    let w := f.width / 8
    let (s1, olds) := (scaPieces b w m.got data).foldl (fun (st : State × List (Nat × Nat × Bool)) ke =>
      let (k1, o, _) := (st.1.stack ke.1).scaEls st.1.now st.1.time.policy f b.op b.sat ke.2
      (st.1.putSue ke.1 k1, st.2 ++ o)) (s, [])
    let n := data.length / w
    let old := (List.range n).flatMap (fun i =>
      match olds.find? (fun o => o.1 == m.got / w + i) with | some o => toLE w o.2.1 | none => toLE w 0)
    (s1, { m with got := m.got + data.length, bad := m.bad || olds.any (fun o => o.2.2), data := m.data ++ old })
  else
    let _ := d
    ((s.writeAt 0 b.sp b.stk (b.addr + m.got) (data.map (fun x => (x, false)))), { m with got := m.got + data.length })

/-- The answer of a served request (R325, R482). -/
def State.answerReq (s : State) (d : Nat) (m : Msg) : State :=
  let p := m.head
  let b := blkOf p
  if p.typ = tRD then
    let bs := s.readAt 0 b.sp b.stk b.addr b.n
    let s1 := s.touchAt 0 clsBulk b.sp b.stk b.addr b.n
    if bs.any Prod.snd then s1.sendErr d p 7 else s1.send p.src .resp (s1.fab.msg p.src tRESP p.tag none (bs.map Prod.fst))
  else if p.typ = tSCAR then
    (if m.bad then s.sendErr d p 7 else s.send p.src .resp (s.fab.msg p.src tRESP p.tag none m.data))
  else s

/-- A request refused with a cause: ERR, and the rest of the message discarded (R336); a secure partition's is logged (R154). -/
def State.refuse (s : State) (d : Nat) (p head : Packet) (a cause : Nat) : State :=
  let s1 := if cause = 3 then s.emit 0x17 lvEndp p.src a 0 else s
  (s1.sendErr d head cause).setMsg d p.src (if p.last then none else some ⟨head, 0, true, false, []⟩)

/-- A packet of a request commits (R326, R336): each is held to what may refuse it. -/
def State.onRequest (s : State) (d : Nat) (p : Packet) : State :=
  let data := if p.first then (pktData p).drop 16 else pktData p
  let go (m : Msg) : State :=
    let (s1, m1) := if p.typ = tRD then (s, m) else s.serve d (blkOf m.head) m data
    if p.last then (s1.answerReq d m1).setMsg d p.src none else s1.setMsg d p.src (some m1)
  if p.first then
    match s.refusal p with
    | 0 => go ⟨p, 0, false, false, []⟩
    | c => s.refuse d p p (blkOf p).addr c
  else
    match ((s.endp d).pair p.src).msg with
    | none => s
    | some m =>
      let b := blkOf m.head
      if m.drop then s.setMsg d p.src (if p.last then none else some m)
      else
        match s.refusedAt b (b.addr + m.got) (max 1 data.length) with
        | 0 => go m
        | c => s.refuse d p m.head (b.addr + m.got) c

/-- Must a request packet wait for its target (R24, R155)? -/
def State.mustWait (s : State) (d : Nat) (p : Packet) : Bool :=
  if vcOf p.typ ≠ some 0 || p.vc ≠ 0 || !(pktOk p) || p.seq ≠ ((s.endp d).pair p.src).next then false
  else if p.first then s.refusal p == 0 && (let b := blkOf p; s.gateAt b.sp b.stk b.addr b.n == .wait)
  else
    match ((s.endp d).pair p.src).msg with
    | some m =>
      let b := blkOf m.head
      !m.drop && s.refusedAt b b.addr b.n == 0 && s.gateAt b.sp b.stk b.addr b.n == .wait
    | none => false

/-- A committed packet handed to the unit that it is for (Table 12-5). A part that is transit-only, whose core die is in reset
or whose chip is in C0 discards all but requests (R341, R342, R442), a relayed record or segment going on its way first (R370,
R474). -/
def State.handOn (s : State) (d : Nat) (p : Packet) : State :=
  if vcOf p.typ = some 0 then s.onRequest d p
  else
    let off := s.closedTo ≠ 0
    let s1 := if s.closedTo = 6 then s.updEndp d (fun e => e.count eCoreDown) else s
    if p.typ = tCAST then { s1 with fab := { s1.fab with castq := s1.fab.castq ++ [(p, !off)] } }
    else if p.typ = tCTRL then
      (if off then s1.relayOn p (fld p.payload 0 1) else { s1 with fab := { s1.fab with ctrlq := s1.fab.ctrlq ++ [p] } })
    else if off then s1
    else if p.typ = tCOLL then s1.updAcu (tagAxis p.tag) (fun u => { u with inq := u.inq ++ [p] })
    else if p.typ = tRESP then s1.updEndp d (fun e => { e with resps := e.resps ++ [p] })
    else s1.updEndp d (fun e => { e with errs := e.errs ++ [p] })

/-- Does a committed packet keep its receive slot: collective data that the axis collective unit has not taken (R349)? -/
def State.keepsSlot (s : State) (p : Packet) : Bool := p.typ == tCOLL && s.closedTo == 0

/-- The first packet of a queue that need not wait, later ones of the same source staying behind one that must. -/
def firstFree (wait : Packet → Bool) : List Packet → List Packet → Option (Packet × List Packet)
  | _, [] => none
  | seen, p :: rest =>
    if p.typ = tACK || wait p || seen.any (fun x => x.src == p.src && x.typ != tACK) then firstFree wait (seen ++ [p]) rest
    else some (p, seen ++ rest)

/-- A packet at its destination endpoint (R325, R333). -/
def State.receive (s : State) (d : Nat) : State :=
  let e := s.endp d
  if !(s.dieUp d) then s
  else
    match firstFree (s.mustWait d) [] e.inq with
    | none =>
      (e.inq.filter (fun p => s.mustWait d p)).foldl (fun t p =>
        let b := blkOf (if p.first then p else match ((s.endp d).pair p.src).msg with | some m => m.head | none => p)
        t.wakeAt b.sp b.stk b.addr b.n) s
    | some (p, rest) =>
      let s0 := s.updEndp d (fun e => { e with inq := rest })
      let s1 := s0.freeSlot p
      if !(pktOk p) then s1.updEndp d (fun e => e.count eFail)
      else if vcOf p.typ ≠ some p.vc then s1.updEndp d (fun e => e.count eBadType)
      else
        let q := e.pair p.src
        let behind := (q.next + 2 ^ 24 - p.seq) % 2 ^ 24
        if behind = 0 then
          (if s.keepsSlot p then (s0.handOn d p).commit d p.src else (s1.handOn d { p with via := 64 }).commit d p.src)
        else (s1.updEndp d (fun e => e.count (if behind ≤ 1024 then eDup else eOrder))).sendAck d p.src

def execEndpointReceive (d : Nat) (s : State) : Res := onPart s (d < 2) (s.receive d)

/-- ERR reaches the requesting endpoint (R336, R482). -/
def State.takeErr (s : State) (d : Nat) : State :=
  let e := s.endp d
  match e.errs with
  | [] => s
  | p :: rest =>
    let s1 := s.updEndp d (fun e => { e with errs := rest })
    let cause := fld p.payload 0 1
    match e.reqs.find? (fun r => r.tag == p.tag && r.node == p.src) with
    | none => s1
    | some r =>
      let s2 := s1.dropReq d r.tag r.node
      if cause = 7 then
        let z : List PByte := List.replicate r.len (0, true)
        ((s2.updBlock r.b (fun b => b.updJob r.job (fun j => { j with
          got := j.got ++ [(r.addr, z)], flags := j.flags ||| 32 }))).emit 0x0213 lvEndp d (r.node + 65536 * r.tag) 0).jobPart r.b r.job
      else
        let e1 := if cause = 3 then { ErrI.of 0x17 with arg := r.addr }
          else if cause = 4 then { ErrI.of 0x18 with arg := r.addr }
          else { ErrI.of 0x21 with sub := cause, arg := r.addr, node := r.node }
        s2.jobErr r.b r.job e1

def execErrReceive (d : Nat) (s : State) : Res := onUnit (d < 2) (if s.coreUp then s.takeErr d else s)

/-- RESP returns read data or old values (R325). -/
def State.takeResp (s : State) (d : Nat) : State :=
  let e := s.endp d
  match e.resps with
  | [] => s
  | p :: rest =>
    let s1 := s.updEndp d (fun e => { e with resps := rest })
    match e.reqs.find? (fun r => r.tag == p.tag && r.node == p.src) with
    | none => s1
    | some r =>
      let bs := (pktData p).map (fun x => (x, false))
      let s2 := s1.updBlock r.b (fun b => b.updJob r.job (fun j => { j with got := j.got ++ [(r.addr + r.got, bs)] }))
      if p.last then (s2.dropReq d r.tag r.node).jobPart r.b r.job
      else s2.updEndp d (fun e => { e with reqs := e.reqs.map (fun x =>
        if x.tag = r.tag && x.node = r.node then { x with got := x.got + bs.length } else x) })

def execRespReceive (d : Nat) (s : State) : Res := onUnit (d < 2) (if s.coreUp then s.takeResp d else s)

end Sys2Proof.Machine
end

