-- ==== Sys2Proof/Machine/Time.lean ====
section
/-! DEFINITION. The step counter's synchronisation (R362 to R366), records relayed through the slice (R370), and the slice
stop (R487 to R491). -/

namespace Sys2Proof.Machine

/-! Synchronisation (R365, R366). θ is in units of 2^-32 tick. -/

def tick1 : Int := 4294967296

/-- Insertion into a rising list. -/
def insertI (x : Int) : List Int → List Int
  | [] => [x]
  | y :: ys => if x ≤ y then x :: y :: ys else y :: insertI x ys

def sortI (l : List Int) : List Int := l.foldl (fun a x => insertI x a) []

/-- The median; of an even number, half the sum of the middle two (log entry 25). -/
def medianI (l : List Int) : Int :=
  let s := sortI l
  let n := s.length
  if n % 2 = 1 then s.getD (n / 2) 0 else (s.getD (n / 2 - 1) 0 + s.getD (n / 2) 0) / 2

def meanI (l : List Int) : Int := if l.isEmpty then 0 else l.foldl (· + ·) 0 / (l.length : Int)

/-- Links whose last sample is VALID, from a LOCKED neighbour, and at most 1 µs old: (link, θ). -/
def State.samples (s : State) : List (Nat × Int) :=
  (List.range numLinks).filterMap (fun l =>
    match (s.link l).sample with
    | some (θ, st, t) => if st = 2 && decide (s.now ≤ t + 100) then some (l, θ) else none
    | none => none)

/-- |θ| ≤ 0.4 on every link (R365). -/
def near (θs : List Int) : Bool := θs.all (fun x => decide (x.natAbs * 10 ≤ 4 * 2 ^ 32))

/-- One round of R365, in the order of its text: samples more than 10 ticks away are left out first. -/
def State.syncRound (s : State) : State :=
  let all := s.samples
  let far := all.filter (fun x => decide (x.2.natAbs > 10 * 2 ^ 32))
  let θs := (all.filter (fun x => decide (x.2.natAbs ≤ 10 * 2 ^ 32))).map Prod.snd
  let s1 := (far.filter (fun x => decide (x.2.natAbs > 100 * 2 ^ 32))).foldl (fun (t : State) x =>
    t.emit 0x0212 lvLink x.1 (x.1 + 65536 * unsigned 32 (Int.tdiv x.2 tick1)) 0) s
  let t0 : TimeS := { s1.time with outlier := min cntMax (s1.time.outlier + far.length), round := s.now }
  let fab := { s1.fab with links := s1.fab.links.map (fun k => { k with sample := none }) }
  let t1 : TimeS :=
    if θs.isEmpty then { t0 with inc := 2 * t0.rate / tick1 }
    else if t0.state = 0 then
      { t0 with stc := ((t0.stc : Int) + medianI θs).toNat, state := 1, good := b2n (near θs) }
    else
      let m := meanI θs
      let rate := t0.rate + m * 4194304
      let lim : Int := tick1 / 10
      let slew := max (-lim) (min lim (m / 2))
      let good := if near θs then t0.good + 1 else 0
      { t0 with rate := rate, inc := 2 * rate / tick1 + slew / 50, good := good
                state := if t0.state = 1 && good ≥ 64 then 2 else t0.state }
  { s1 with time := { t1 with round := t1.stc / 2 ^ 32 }, fab := fab }

/-- Every 1 µs (R365). -/
def execStcSyncRound (s : State) : Res := .next (if s.pwr.crust && !s.pwr.stopped && s.now ≥ s.time.round + 100 then s.syncRound else s)

/-- Node 0 has heard no LOCKED neighbour for 10 ms after its first link came UP (R366). -/
def State.seedTimeout (s : State) : State :=
  match s.time.quiet with
  | some t =>
    if s.time.state = 0 && s.fab.node = 0 && decide (s.now ≥ t + 1000000) then { s with time := { s.time with state := 2 } } else s
  | none => s

def execStcSeedTimeout (s : State) : Res := onPart s true s.seedTimeout

/-! Records (R370). -/

/-- The first CTRL packet of a type taken from the queue. -/
def State.takeCtrl (s : State) (typ : Nat) (f : State → Nat → State) : State :=
  match splitFirst (fun p => fld p.payload 0 1 == typ) s.fab.ctrlq with
  | none => s
  | some (p, rest) =>
    let s1 := ({ s with fab := { s.fab with ctrlq := rest } }).relayOn p typ
    if s1.coreUp && !s1.fab.transit then f s1 (fld p.payload 32 32) else s1

/-- A deadline record is relayed, and logged (R370, R388). -/
def execDeadlineRecordReceive (s : State) : Res := onPart s true (s.takeCtrl 1 (fun t r => t.emit 0x0401 lvChip 0 0 r))

/-- A slice-stop record is relayed, and reaches Thallus (R488). -/
def execSliceStopRecordReceive (s : State) : Res :=
  onPart s true (s.takeCtrl 2 (fun t r => { t with fab := { t.fab with stopQ := t.fab.stopQ ++ [(1, r)] } }))

/-! Slice stop (R487 to R491). -/

/-- A slice-stop record (Table 18-3). -/
def stopRec (stc node code unit level evseq : Nat) : Nat :=
  stc % 2 ^ 64 * 2 ^ 192 + node % 65536 * 2 ^ 176 + code % 65536 * 2 ^ 160 + unit % 65536 * 2 ^ 144 + level % 16 * 2 ^ 140
    + evseq % 2 ^ 64 * 2 ^ 64

/-- Steps 2 to 4 of R488. -/
def State.stopAll (s : State) : State :=
  let s1 := (List.range numBlocks).foldl State.stopBlock s
  let s2 := s1.abandonAll 7
  (List.range numStacks).foldl (fun (t : State) n => t.putSue n ((t.stack n).sueStop t.now t.fab.contrib)) s2

/-- A slice stop starts (R488): logged, relayed where no relay has carried the record, and acted on. An older record than
the last start is only logged, and so is one that meets a stop in force (R489). -/
def State.sliceStop (s : State) : State :=
  match s.fab.stopQ with
  | [] => s
  | (how, r) :: rest =>
    let s1 := { s with fab := { s.fab with stopQ := rest } }
    let old := how = 1 && decide (bits r 192 64 < s.fab.lastStart)
    let s2 := if how = 0 then s1.emit 0x020E lvChip 0 0 r else s1.emit 0x020F lvChip 0 (b2n old) r
    if old || s.fab.stopOn then s2
    else
      let s3 := if how = 1 then s2 else s2.relayStart 2 r
      ({ s3 with fab := { s3.fab with stopOn := true } }).stopAll

def execSliceStop (s : State) : Res := .next (if s.thallusUp then s.sliceStop else s)

end Sys2Proof.Machine
end

