-- ==== Sys2Proof/Machine/Events.lean ====
section
/-! DEFINITION. The event log, FAULT_SUMMARY, interrupts, and what an event starts (R377, R388 to R391, R478, R479, R487,
R504). -/

namespace Sys2Proof.Machine

/-- Codes of class INFO (Tables 18-9, 19-9). -/
def infoCodes : List Nat :=
  [0x0103, 0x0105, 0x0108, 0x0201, 0x0203, 0x020C, 0x020D, 0x0305, 0x0306, 0x0307, 0x0308, 0x0309, 0x030A, 0x0501, 0x0502,
   0x0503, 0x0504, 0x0603, 0x0606, 0x0607, 0x0609, 0x0B03, 0x0B04, 0x0B06, 0x0B07]

def correctedCodes : List Nat := [0x0101, 0x0202, 0x020B]

def containedCodes : List Nat :=
  [0x0102, 0x0106, 0x0107, 0x0205, 0x0208, 0x0209, 0x020A, 0x0210, 0x0211, 0x0212, 0x0213, 0x0303, 0x0601, 0x0602, 0x0604,
   0x0608, 0x0B02, 0x0B05]

/-- Class of an event (R478, R503): 0 INFO, 1 CORRECTED, 2 CONTAINED, 3 STOPPED. A refusal by a secure partition whose
requester is not a block is CONTAINED. -/
def classOf (code level : Nat) : Nat :=
  if code = 0x17 && level ≠ lvBlock then 2
  else if infoCodes.contains code then 0
  else if correctedCodes.contains code then 1
  else if containedCodes.contains code then 2
  else 3

/-- Bits of FAULT_SUMMARY that an event sets (Table 14-4, R504). -/
def summaryOf (e : Ev) : Nat :=
  let c := classOf e.code e.level
  let cls := if c = 3 then 1 else if c = 2 then 2 else 0
  let x :=
    if [0x0202, 0x0204, 0x0205].contains e.code || (e.code = 0x20 && e.level = lvBlock) then 8
    else if [0x0301, 0x0302, 0x0304].contains e.code then 4
    else if e.code = 0x1F then 16 + (if e.level = lvStack then 4 else 0)
    else if e.code = 0x0401 then 16
    else if e.code = 0x0501 || e.code = 0x0503 || (e.code = 0x0506 && e.info % 65536 < 2) then 32
    else if e.code = 0x0504 || e.code = 0x0505 then 64
    else if e.code = 0x0601 then 128
    else if e.code = 0x0603 then 512
    else 0
  cls + x

/-- The event record (Table 14-8). -/
def eventRec (e : Ev) (seq : Nat) : Nat :=
  e.detail % 2 ^ 256 * 2 ^ 256 + e.info % 2 ^ 64 * 2 ^ 192 + e.unit % 65536 * 2 ^ 160 + classOf e.code e.level * 2 ^ 150
    + e.level % 16 * 2 ^ 144 + e.code % 65536 * 2 ^ 128 + e.stc % 2 ^ 64 * 2 ^ 64 + seq % 2 ^ 64

/-- Does an event start a slice stop (R487)? -/
def startsStop (e : Ev) : Bool :=
  (classOf e.code e.level == 3 && [lvBlock, lvStack, lvLink, lvEndp].contains e.level)
    || [0x1F, 0x0401, 0x0206, 0x0207].contains e.code

/-- Is an MSI-X vector masked? -/
def HostS.masked (h : HostS) (v : Nat) : Bool := (h.msixT.get (16 * v + 12)).toNat % 2 == 1

/-- An MSI-X message, or its pending bit where the vector is masked. -/
def State.msix (s : State) (v : Nat) : State :=
  if s.host.masked v then { s with host := { s.host with pba := s.host.pba ||| (1 <<< v) } }
  else { s with out := s.out ++ [.msix v] }

/-- FAULT_SUMMARY bits set, with vector 17 where one of them was 0 or `always` says so (Table 14-9). -/
def State.summarise (s : State) (bits : Nat) (always : Bool) : State :=
  let old := s.host.summary
  let new := old ||| bits
  let s1 := { s with host := { s.host with summary := new, sumNow := s.host.sumNow ||| bits } }
  if new ≠ old || always then s1.msix 17 else s1

/-- Vector 16 for a record entered (R391). -/
def State.recordIrq (s : State) (cls : Nat) : State :=
  if cls = 3 then s.msix 16
  else
    match s.host.gapEnd with
    | some _ => { s with host := { s.host with gapDue := true } }
    | none =>
      let s1 := s.msix 16
      if s.host.gap = 0 then s1 else { s1 with host := { s1.host with gapEnd := some (s.now + 100 * s.host.gap) } }

/-- An event entered in the log, its bits set, its record kept for FLT_READ, and a slice stop put in hand where it starts one
(R377, R389, R390, R430, R487). -/
def State.logEvent (s : State) (e : Ev) : State :=
  let h := s.host
  let seq := h.evseq + 1
  let cls := classOf e.code e.level
  let full := (h.head + 1) % 1024 == h.tail
  let r := eventRec e seq
  let h1 := if full then { h with evseq := seq, ovf := min cntMax (h.ovf + 1) }
    else { h with evseq := seq, ring := h.ring.put (64 * h.head) (toLE 64 r), head := (h.head + 1) % 1024 }
  let s1 := { s with host := h1 }
  let s2 := if cls ≥ 2 then
      { s1 with latest := s1.latest.filter (fun x => !(x.1 == e.level && x.2.1 == e.unit)) ++ [(e.level, e.unit, e, seq)] }
    else s1
  let s3 := if full then s2 else s2.recordIrq cls
  let s4 := s3.summarise (summaryOf e + (if full then 256 else 0)) (e.code == 0x1F || e.code == 0x0401)
  if startsStop e then
    { s4 with fab := { s4.fab with stopQ := s4.fab.stopQ ++ [(0, stopRec e.stc s.fab.node e.code e.unit e.level seq)] } }
  else s4

/-- What Thallus does on a tamper event (R518, steps 2 and 3): every RUNNING block stops, and every secure partition is wiped,
those of regions in RETAIN once they have been raised to ARMED. -/
def State.tamperAct (s : State) : State :=
  let s1 := (List.range numBlocks).foldl State.stopBlock s
  let on := (List.range numBlocks).filter (fun n => (s1.region (n / 36)).st != .off)
  let low := (List.range 4).filter (fun r => (s1.region r).st == .retain)
  let s2 := on.foldl (fun (t : State) n =>
    if low.contains (n / 36) then t else t.updBlock n (fun b => if b.wiping then b else b.startWipe false)) s1
  let s3 := low.foldl (fun (t : State) r => t.updRegion r (fun g => { g with
    goal := .armed, move := match g.move with | some (.armed, e) => some (.armed, e) | _ => some (.armed, s.now + 4000) })) s2
  { s3 with sec := { s3.sec with tamper := on, tamperRet := low, tamperDue := false } }

/-- Thallus enters the oldest forwarded event; a tamper event that came while Thallus did not serve is acted on now. -/
def execEventLogEntry (s : State) : Res :=
  .next (match s.events with
    | [] => s
    | e :: rest =>
      if s.thallusUp then
        let s1 := ({ s with events := rest }).logEvent e
        if e.code = 0x0B01 && s.sec.tamperDue then s1.tamperAct else s1
      else s)

/-- The vector-16 gap ends (R391). -/
def execEvtIrqGapExpiry (s : State) : Res :=
  onPart s true (match s.host.gapEnd with
    | none => s
    | some t =>
      if s.now < t then s
      else if s.host.gapDue then
        ({ s with host := { s.host with gapDue := false, gapEnd := some (s.now + 100 * s.host.gap) } }).msix 16
      else { s with host := { s.host with gapEnd := none } })

/-- The summary of a unit's corrections at the end of a second (R479). -/
def State.summary (s : State) (level unit kind : Nat) : State :=
  if level = lvBlock then
    let i := if kind = 0 then 0 else if kind = 3 then 1 else 2
    let n := (s.block unit).corrNow.getD i 0
    if n = 0 || !([0, 3, 4].contains kind) then s
    else (s.updBlock unit (fun b => { b with corrNow := b.corrNow.set i 0 })).emit 0x0101 lvBlock unit n kind
  else if level = lvRegion && kind = 1 then
    let n := (s.region unit).corrNow
    if n = 0 then s else (s.updRegion unit (fun r => { r with corrNow := 0 })).emit 0x0101 lvRegion unit n kind
  else if level = lvStack && kind = 5 then
    let n := (s.stack unit).corrNow
    if n = 0 then s else (s.updStack unit (fun k => { k with corrNow := 0 })).emit 0x0101 lvStack unit n kind
  else s

/-- Units of a level of Table 14-8. -/
def unitsOf (level : Nat) : Nat :=
  match level with
  | 1 => 144 | 2 => 4 | 3 => 1 | 4 => 12 | 5 => 64 | 6 => 8 | 7 => 1 | 8 => 16 | _ => 0

def execCorrectedSummary (level unit kind : Nat) (s : State) : Res :=
  onPart s (decide (unit < unitsOf level)) (s.summary level unit kind)

end Sys2Proof.Machine
end

