-- ==== Sys2Proof/Machine/HostRegs.lean ====
section
/-! DEFINITION. The host interface: mailbox bytes and handoffs, the status registers, BAR2, function-level reset, heartbeat
(chapter 14), and the pins that Crust drives. -/

namespace Sys2Proof.Machine

/-- Does Crust run? -/
def State.crustUp (s : State) : Bool := s.pwr.crust && !s.pwr.stopped

/-- A counter as it is read (Table 2-11). -/
def ctrWord (c : Nat) : Nat := c % 2 ^ 40 + (if c = cntMax then 2 ^ 63 else 0)

/-- The life-cycle state as CRUST_STATUS shows it: its reset value until Crust has read the fuses (Table 14-3, R456). -/
def State.shownLc (s : State) : Nat := if s.boot.boot ≤ 1 then 0 else s.sec.fuses.lc

/-- CRUST_STATUS (Table 14-3). -/
def State.crustStatus (s : State) : Nat :=
  s.boot.boot % 16 * 2 ^ 20 + s.shownLc % 4 * 2 ^ 18 + s.boot.slot % 2 * 2 ^ 17 + b2n s.boot.switching * 2 ^ 16
    + b2n s.pwr.therm * 2 ^ 11 + b2n (!s.pwr.rails.isEmpty) * 2 ^ 10 + s.time.state % 4 * 2 ^ 8 + b2n s.boot.ready * 4
    + s.pwr.chip % 4

/-- FAULT_N is driven low (R377, R530). -/
def State.faultN (s : State) : Bool := s.pwr.good && s.pwr.crust && s.host.summary != 0

/-- THERM_TRIP_N is driven low (R455, R530). -/
def State.thermTripN (s : State) : Bool := s.pwr.good && s.pwr.crust && s.pwr.trip.isSome

/-- SMB_ALERT_N is driven low (R537). -/
def State.smbAlert (s : State) : Bool := s.crustUp && (s.pwr.therm || !s.pwr.rails.isEmpty)

/-- PORTpp_SB1 pulls low (R539). -/
def State.portLed (s : State) (p : Nat) : Bool :=
  (List.range 4).any (fun i => (s.fab.link (4 * p + i)).st == .up)

/-! Mailboxes (R376 to R384). -/

/-- A field of a mailbox. -/
def HostS.mbxField (h : HostS) (m off n : Nat) : Nat := ofLE (h.mbx.raw (4096 * m + off) n)

def HostS.owned (h : HostS) (m : Nat) : Bool := bit (h.mbxField m 0 1) 0

/-- Bytes put into a mailbox by the part. -/
def HostS.putMbx (h : HostS) (m off : Nat) (bs : List Byte) : HostS := { h with mbx := h.mbx.put (4096 * m + off) bs }

/-- MBX_OWNED (Table 14-2). -/
def HostS.mbxOwned (h : HostS) : Nat := maskOf ((List.range 16).filter h.owned)

def State.lateWrite (s : State) : State := { s with host := { s.host with late := min cntMax (s.host.late + 1) } }

/-- The mask of a header byte that the host can write (Table 14-5). -/
def mbxMask (i : Nat) : Byte :=
  if i = 0 then 1 else if i = 1 then 255 else if i < 4 then 0 else if i < 6 then 255 else if i = 6 then 1 else if i = 7 then 0
  else if i < 12 then 255 else if i < 16 then 0 else if i < 24 then 255 else if i < 32 then 0 else 255

/-- The bytes of a mailbox after a host write of bytes from `off`: read-only bits keep their value. -/
def mbxLay (old : List Byte) (off : Nat) (data : List Byte) : List Byte :=
  ((old.zip data).zip (List.range old.length)).map (fun x =>
    let k := mbxMask (off + x.2)
    (x.1.1 &&& ~~~k) ||| (x.1.2 &&& k))

/-- A handoff in C0 wakes the chip: 5 ms to C1 (R384, Table 16-4). -/
def State.wakeChip (s : State) : State :=
  if s.pwr.chip = 0 && s.boot.boot = 8 && s.pwr.chipMove.isNone && !s.host.hand.isEmpty then
    { s with pwr := { s.pwr with chipMove := some (1, s.now + 500000), chipGoal := max 1 s.pwr.chipGoal } }
  else s

/-- A handoff latched: those of one CRUST_CLK cycle stand in ascending mailbox number (R19, R379). -/
def HostS.latchHand (h : HostS) (m : Nat) : HostS :=
  let n := h.hand.length - h.handNow
  let now := h.hand.drop n
  { h with
    hand := h.hand.take n ++ now.filter (fun x => decide (x < m)) ++ [m] ++ now.filter (fun x => decide (m ≤ x))
    handNow := min h.handNow h.hand.length + 1 }

/-- A host write to mailbox `m` (R378, R382). -/
def State.mbxWrite (s : State) (m off : Nat) (data : List Byte) : State :=
  if !s.crustUp || data.isEmpty then s
  else if s.host.owned m then s.lateWrite
  else if off < 4 && !(off = 0 && data.length ≥ 4) then s.lateWrite
  else
    let h := s.host.putMbx m off (mbxLay (s.host.mbx.raw (4096 * m + off) data.length) off data)
    let s1 := { s with host := h }
    if h.owned m then ({ s1 with host := h.latchHand m }).wakeChip else s1

/-- A host write of MBX_CTL with OWNER = 1 (R378). -/
def execMbxHandoff (m off : Nat) (data : List Byte) (s : State) : Res :=
  onUnit (m < 16 && off + data.length ≤ 4096) (s.mbxWrite m off data)

/-- A host write to a mailbox (R378, R382). -/
def execMailboxWrite (m off : Nat) (data : List Byte) (s : State) : Res :=
  onUnit (m < 16 && off + data.length ≤ 4096) (s.mbxWrite m off data)

/-! Status registers and event pointers (R376, R377, R390, R391, R395). -/

/-- W1C; a bit that hardware sets in the same cycle ends set (R8). -/
def State.summaryWrite (s : State) (v : Nat) : State :=
  if s.crustUp then
    { s with host := { s.host with
      summary := (s.host.summary ^^^ (s.host.summary &&& v)) ||| (s.host.summary &&& s.host.sumNow) } }
  else s

def execFaultSummaryWrite (v : Nat) (s : State) : Res := .next (s.summaryWrite v)

/-- HOST_HB (R395). -/
def State.hbWrite (s : State) (v : Nat) : State :=
  if s.crustUp then
    { s with host := { s.host with hostHb := v % 2 ^ 32, hbAge := 0, hbPart := 0, silentDone := false } }
  else s

def execHostHbWrite (v : Nat) (s : State) : Res := .next (s.hbWrite v)

/-- EVT_TAIL (R390): accepted from the current TAIL forward to EVT_HEAD. -/
def State.tailWrite (s : State) (v : Nat) : State :=
  if !s.crustUp then s
  else
    let t := v % 1024
    if (t + 1024 - s.host.tail) % 1024 ≤ (s.host.head + 1024 - s.host.tail) % 1024 then
      { s with host := { s.host with tail := t } }
    else s.lateWrite

def execEvtTailWrite (v : Nat) (s : State) : Res := .next (s.tailWrite v)

/-- A read of STC_NOW (Table 14-2): a 4-byte read of the low half latches the high half for the next read at 0x14. Any other
access reads zero (R376). -/
def State.stcNowRead (s : State) (off size : Nat) : State :=
  if !s.crustUp then s
  else
    let answer (t : State) (v : Nat) : State := { t with out := t.out ++ [.read (toLE size v) false] }
    if off = 0x10 && size = 8 then answer s s.now
    else if off = 0x10 && size = 4 then
      answer { s with host := { s.host with latch := some (s.now / 2 ^ 32) } } (s.now % 2 ^ 32)
    else if off = 0x14 && size = 4 then
      match s.host.latch with
      | some h => answer { s with host := { s.host with latch := none } } h
      | none => answer s (s.now / 2 ^ 32)
    else answer s 0

def execStcNowRead (off size : Nat) (s : State) : Res := .next (s.stcNowRead off size)

/-- A write to the MSI-X table: an entry unmasked with its pending bit set sends its message. -/
def State.msixWrite (s : State) (x : Nat) (bs : List Byte) : State :=
  let h := { s.host with msixT := s.host.msixT.put x bs }
  let send := (List.range 64).filter (fun v => bit h.pba v && !(h.masked v))
  { s with host := { h with pba := h.pba ^^^ (h.pba &&& maskOf send) }, out := s.out ++ send.map Out.msix }

/-- A 4-byte register written. -/
def State.word32 (s : State) (off v : Nat) : State :=
  if off = 0x0008 then s.summaryWrite v
  else if off = 0x000C then s.summaryWrite (v * 2 ^ 32)
  else if off = 0x0020 then s.hbWrite v
  else if off = 0x8004 then s.tailWrite v
  else if off = 0x8010 then { s with host := { s.host with gap := v % 65536 } }
  else if off ≥ 0x30000 && off < 0x30400 then s.msixWrite (off - 0x30000) (toLE 4 v)
  else s

/-- A write to BAR0 by access codes (R7, R376): read-only registers and reserved offsets take none. -/
def State.regWrite (s : State) (off size v : Nat) : State :=
  if !s.crustUp then s
  else if off ≥ 0x10000 && off < 0x20000 then s.mbxWrite ((off - 0x10000) / 4096) (off % 4096) (toLE size v)
  else if size = 4 && off % 4 = 0 then s.word32 off (v % 2 ^ 32)
  else if size = 8 && off % 8 = 0 then (s.word32 off (v % 2 ^ 32)).word32 (off + 4) (v / 2 ^ 32 % 2 ^ 32)
  else s

def execRegisterWrite (off size v : Nat) (s : State) : Res := onUnit (off + size ≤ 0x40000) (s.regWrite off size v)

/-! BAR2 (R392, R442). -/

def State.bar2Access (s : State) (wr : Bool) (off len : Nat) (data : List Byte) : State :=
  if !s.crustUp then s
  else if s.pwr.chip = 0 || !s.coreUp || s.pwr.clkOff then { s with out := s.out ++ [.abort] }
  else s.bar2Take ⟨wr, s.host.bar2 * 2 ^ 30 + off, len, data⟩

def execBar2Access (wr : Bool) (off len : Nat) (data : List Byte) (s : State) : Res :=
  onUnit (decide (off + len ≤ 2 ^ 36)) (s.bar2Access wr off len data)

/-- R375. -/
def State.flr (s : State) : State :=
  if s.crustUp then
    { s with host := { s.host with msixT := msixReset, pba := 0, bar2 := 0, bar2q := [], latch := none } }
  else s

def execFunctionLevelReset (s : State) : Res := .next s.flr

/-! Heartbeat (R393, R395). -/

/-- The end of a heartbeat period: a period in which Thallus kicked counts (log entry 32). -/
def State.heartbeat (s : State) : State :=
  let h := s.host
  if !s.crustUp || decide (s.now < h.hbT + 100000 * h.hbPeriod) then s
  else
    let h1 := { h with hbT := s.now, hbPeriod := h.hbNext }
    if s.thallusUp then
      let c := if h.hbCount ≥ 0xFFFFFFFE then 0 else h.hbCount + 1
      let s1 := { s with host := { h1 with hbCount := c } }
      if h.hbAddr = 0 then s1
      else { s1 with out := s1.out ++ [.hostWrite h.hbAddr (toLE 4 c ++ toLE 4 s.crustStatus ++ toLE 8 s.now) false] }
    else { s with host := h1 }

def execHeartbeat (s : State) : Res := .next s.heartbeat

/-- HOST_SILENT, once per silence (R395). -/
def State.hostSilent (s : State) : State :=
  let h := s.host
  if s.thallusUp && h.silent ≠ 0 && h.hbAge > h.silent && !h.silentDone then
    ({ s with host := { h with silentDone := true } }).emit 0x0603 lvHost 0 h.hbAge 0
  else s

def execHostSilent (s : State) : Res := .next s.hostSilent

end Sys2Proof.Machine
end

