-- ==== Sys2Proof/Machine/Cmd.lean ====
section
/-! DEFINITION. How Thallus runs commands: the checks before a command begins, the resources it claims, its answer
(R379 to R387, R397 to R402). -/

namespace Sys2Proof.Machine

/-- Status codes (Table 14-6). -/
def stOk := 0
def stBusy := 1
def stOpcode := 2
def stParam := 3
def stState := 4
def stResource := 5
def stDenied := 6
def stLate := 7
def stFaulted := 8
def stVersion := 9
def stPartial := 10

/-- Commands of VMP 3.2 and the PARAM_LEN each requires (Tables 15-2 to 15-15). -/
def opTable : List (Nat × Nat) :=
  [(0x0100, 0), (0x0101, 0), (0x0102, 0), (0x0103, 24), (0x0200, 4), (0x0201, 4), (0x0202, 4), (0x0203, 12), (0x0204, 0),
   (0x0300, 4), (0x0301, 8), (0x0302, 24), (0x0303, 24), (0x0304, 4), (0x0305, 16)]
  ++ [(0x0400, 32), (0x0401, 64), (0x0402, 48), (0x0403, 4), (0x0404, 20), (0x0405, 20), (0x0406, 4), (0x0407, 72),
   (0x0600, 4), (0x0601, 8), (0x0602, 20), (0x0603, 0), (0x0604, 8), (0x0605, 4), (0x0606, 4), (0x0700, 0), (0x0701, 24),
   (0x0702, 4)]
  ++ [(0x0800, 232), (0x0801, 200), (0x0802, 4), (0x0803, 32), (0x0804, 4), (0x0805, 4), (0x0900, 16), (0x0901, 0),
   (0x0902, 8), (0x0A00, 4), (0x0A01, 4), (0x0A02, 16), (0x0A03, 4), (0x0B00, 36), (0x0B01, 72), (0x0B02, 136),
   (0x0C00, 16), (0x0C01, 4), (0x0C02, 16), (0x0C03, 16)]

/-- Commands that a deadline does not interrupt (the Int. column). -/
def uninterrupted : List Nat :=
  [0x0200, 0x0201, 0x0202, 0x0300, 0x0301, 0x0401, 0x0402, 0x0404, 0x0407, 0x0600, 0x0602, 0x0603, 0x0604, 0x0605, 0x0606,
   0x0701, 0x0702, 0x0800, 0x0801, 0x0803, 0x0804, 0x0902, 0x0A01, 0x0A02, 0x0A03, 0x0B00, 0x0B01, 0x0B02, 0x0C01, 0x0C03]

/-- Kinds of resources (Table 15-1). -/
inductive ResK
  | dev | pwr | reg | stk | mem | win | blk | cast | fab | lnk | retrain | stc | sue | tel | flt | sec | fw | all
  deriving DecidableEq, Repr

/-- A claim: a resource, its number, and whether it is exclusive. -/
structure Claim where
  k : ResK
  n : Nat
  x : Bool
  deriving DecidableEq, Repr

def claimEach (k : ResK) (l : List Nat) : List Claim := l.map (fun n => ⟨k, n, true⟩)

def allBlocks : List Nat := List.range numBlocks

/-- The claims of a command (the Claims columns of chapter 15). -/
def claimsOf (op : Nat) (p : List Byte) : List Claim :=
  let x (k : ResK) : Claim := ⟨k, 0, true⟩
  let sh (k : ResK) : Claim := ⟨k, 0, false⟩
  let blocks := claimEach .blk (bitsOf numBlocks (fld p 0 18))
  let stks := claimEach .stk (bitsOf numStacks (fld p 0 2))
  match op with
  | 0x0103 | 0x0702 => [x .dev]
  | 0x0200 => x .pwr :: claimEach .reg (List.range 4)
  | 0x0201 => claimEach .reg (bitsOf 4 (fld p 0 1))
  | 0x0202 | 0x0304 => stks
  | 0x0203 => claimEach .lnk (bitsOf numLinks (fld p 0 8))
  | 0x0300 => [x .win]
  | 0x0301 => x .mem :: (if bit (fld p 0 1) 0 then claimEach .stk (bitsOf numStacks (fld p 2 2)) else [])
      ++ (if bit (fld p 0 1) 2 || bit (fld p 0 1) 3 then claimEach .blk allBlocks else [])
  | 0x0302 | 0x0303 | 0x0305 => [sh .mem]
  | 0x0400 | 0x0404 | 0x0405 => blocks
  | 0x0401 => x .cast :: claimEach .blk (bitsOf numBlocks (fld p 12 18))
  | 0x0402 => [sh .cast]
  | 0x0403 => [x .cast]
  | 0x0407 => [⟨.blk, fld p 0 2, true⟩]
  | 0x0600 => x .fab :: claimEach .lnk (List.range numLinks)
  | 0x0602 | 0x0603 | 0x0606 => [x .fab]
  | 0x0604 => x .fab :: claimEach .lnk ((List.range 4).map (fun i => 4 * fld p 0 1 + i))
  | 0x0605 => [⟨.lnk, fld p 0 1, true⟩, x .retrain]
  | 0x0701 => [x .stc]
  | 0x0800 => claimEach .sue (bitsOf numStacks (fld p 0 2))
  | 0x0801 | 0x0804 => [⟨.sue, fld p 0 1, true⟩]
  | 0x0803 => claimEach .sue (List.range numStacks)
  | 0x0900 => [sh .tel]
  | 0x0902 => [x .tel]
  | 0x0A00 => [sh .flt]
  | 0x0A01 => x .flt :: (if fld p 0 1 = 1 then [⟨.blk, fld p 2 2, true⟩] else [])
  | 0x0A02 => [x .flt]
  | 0x0A03 => [⟨.blk, fld p 0 2, true⟩, x .fw]
  | 0x0B01 | 0x0C01 => [x .all]
  | 0x0B02 => [x .sec, x .fw]
  | 0x0C00 | 0x0C03 => [x .fw]
  | 0x0C02 => [sh .fw]
  | _ => []

/-- Do two lists of claims conflict (R385)? -/
def conflict (a b : List Claim) : Bool :=
  a.any (fun c => b.any (fun d => c.k == d.k && c.n == d.n && (c.x || d.x)))

def claimsAll (a : List Claim) : Bool := a.any (fun c => c.k == .all)

/-! Commands that run. -/

def State.cmd (s : State) (m : Nat) : Option Cmd := s.host.runs.find? (fun c => c.m == m)

def State.updCmd (s : State) (m : Nat) (f : Cmd → Cmd) : State :=
  { s with host := { s.host with runs := s.host.runs.map (fun c => if c.m = m then f c else c) } }

/-- The command's answer is known: status and results. -/
def State.answer (s : State) (m st : Nat) (res : List Byte) : State := s.updCmd m (fun c => { c with ans := some (st, res) })

/-- It did what was asked. -/
def State.ok (s : State) (m : Nat) (res : List Byte) : State := s.answer m stOk res

/-- What a long command keeps while it runs. -/
def State.keep (s : State) (m : Nat) (l : List Nat) : State := s.updCmd m (fun c => { c with keep := l })

/-- A command's own row: its command waits to run and Thallus serves. -/
def State.cmdRowIf (s : State) (m op : Nat) (is : Cmd → Bool) (f : State → Cmd → State) : State :=
  match s.cmd m with
  | some c =>
    if c.op = op && !c.begun && c.ans.isNone && is c && s.thallusUp then
      f (s.updCmd m (fun c => { c with begun := true })) c
    else s
  | none => s

def State.cmdRow (s : State) (m op : Nat) (f : State → Cmd → State) : State := s.cmdRowIf m op (fun _ => true) f

/-- Is any block RUNNING? -/
def State.anyRunning (s : State) : Bool := s.blocks.any (fun b => b.st == .running)

/-- Is a block's region OFF or RETAIN (R399)? -/
def State.darkBlock (s : State) (b : Nat) : Bool :=
  match (s.region (b / 36)).st with
  | .off | .retain => true
  | _ => false

/-- A map is well formed: some bit set, and none above the highest unit (R402). -/
def mapOk (n bytes w : Nat) : Bool := w % 2 ^ (8 * bytes) != 0 && decide (w % 2 ^ (8 * bytes) < 2 ^ n)

/-! Settings in force (R461, R515, R520). -/

/-- The body of a settings block in force. -/
def State.setBody (s : State) (id : Nat) : List Byte :=
  match s.sec.sets.find? (fun x => x.1 == id) with
  | some x => (x.2.drop 128).take (fld x.2 8 4)
  | none => []

/-- Bit of the security settings (Table 19-5); every field reads 0 without the block. -/
def State.secBit (s : State) (i : Nat) : Bool := bit (fld (s.setBody 0x0003) 0 8) i

/-- FLT_INJECT is enabled (Table 19-4). -/
def State.injectOn (s : State) : Bool := s.sec.fuses.lc != 2 || s.secBit 0

/-- The secure image list holds a digest (R520). -/
def State.imageListed (s : State) (d : Nat) : Bool := (chunks 32 (s.setBody 0x0031)).any (fun c => ofLE c == d)

/-- SECURE of a block's kept image header (Table 7-2). -/
def Block.keptSecure (b : Block) : Bool := bit (fld b.kept 6 1) 0

/-- A block holds a loaded image (R519). -/
def State.loaded (s : State) (n : Nat) : Bool := (s.block n).st != .idle && s.sec.meas.any (fun x => x.1 == n)

/-- Why PRG_START of a block is refused, if it is (R518, R520). -/
def State.imageRefused (s : State) (n : Nat) : Option Nat :=
  if !(s.loaded n && (s.block n).keptSecure) then none
  else if s.sec.fuses.lc ≠ 2 then some 1
  else
    match s.sec.meas.find? (fun x => x.1 == n) with
    | some x => if !(s.imageListed x.2) then some 2 else if s.sec.keys then none else some 3
    | none => some 2

/-! Authorisations (R509, R510). -/

/-- The SM3 of a public key. -/
def keyDigest (k : Nat) : Nat := Config.sm3 (toLE 64 k)

def State.ownerDigest (s : State) : Nat :=
  match s.sec.owner with
  | some k => keyDigest k
  | none => 0

/-- The authorisation message (Table 19-2). -/
def State.authMsg (s : State) (purpose target counter digest : Nat) : List Byte :=
  toLE 16 s.sec.fuses.serial ++ toLE 1 purpose ++ toLE 1 s.sec.fuses.lc ++ toLE 1 target ++ [0] ++ toLE 4 counter
    ++ toLE 32 digest ++ toLE 8 0

/-- Who must sign a change of the life-cycle state (Table 19-3); none where the table does not list it, or what it also
requires is missing. -/
def State.lcSigner (s : State) (target : Nat) : Option Nat :=
  match s.sec.fuses.lc, target with
  | 0, 1 => if (s.setBody 0x0004).isEmpty then none else some Config.vendorKey
  | 0, 3 => some Config.vendorKey
  | 1, 2 => s.sec.owner
  | 1, 3 => match s.sec.owner with | some k => some k | none => some Config.vendorKey
  | 2, 3 => s.sec.owner
  | _, _ => none

/-- Why an authorisation fails (Table 19-9): 3 key store empty, 1 signature, 2 counter; log entry 33 gives the order. -/
def State.authFail (s : State) (signer : Option Nat) (msg : List Byte) (counter sig : Nat) : Option Nat :=
  if !s.sec.keys then some 3
  else
    let good := match signer with
      | some k => Config.sm2Verify k (Config.sm3 msg) sig
      | none => true
    if !good then some 1 else if counter ≤ s.sec.authCtr then some 2 else none

/-- A refused authorisation is logged (R510). -/
def State.authLog (s : State) (purpose cause : Nat) : State := s.emit 0x0B02 lvChip 0 (purpose + 65536 * cause) 0

/-- Is a command denied by the life-cycle state or the security rules (R381, check 4)? The state holds what is logged. -/
def State.deny (s : State) (op : Nat) (p : List Byte) : Option State :=
  match op with
  | 0x0404 =>
    match (bitsOf numBlocks (fld p 0 18)).find? (fun n => (s.imageRefused n).isSome) with
    | some n => some (s.emit 0x0B05 lvChip 0 (n + 65536 * (s.imageRefused n).getD 0) 0)
    | none => none
  | 0x0407 => if s.loaded (fld p 0 2) && (s.block (fld p 0 2)).keptSecure then some s else none
  | 0x0602 => if s.secBit 2 && !s.sec.wiped then some s else none
  | 0x0A02 => if s.injectOn then none else some s
  | 0x0B00 => if s.sec.keys then none else some s
  | 0x0B01 =>
    let target := fld p 0 1
    match s.lcSigner target with
    | none => some s
    | some k =>
      match s.authFail (some k) (s.authMsg 1 target (fld p 4 4) s.ownerDigest) (fld p 4 4) (fld p 8 64) with
      | some c => some (s.authLog 1 c)
      | none => none
  | 0x0B02 =>
    if s.sec.fuses.lc = 0 || s.sec.fuses.lc = 3 then some s
    else
      let signer := if s.sec.owner.isNone && s.sec.fuses.lc = 1 then none else some (s.sec.owner.getD 0)
      match s.authFail signer (s.authMsg 2 0 (fld p 64 4) (Config.sm3 (p.take 64))) (fld p 64 4) (fld p 72 64) with
      | some c => some (s.authLog 2 c)
      | none => none
  | 0x0C03 => if s.sec.keys then none else some s
  | _ => none

/-! Waking Thallus. -/

/-- The state before a command's own row: its header as read, and its answer where a check already gives it (R381, R385). -/
def State.begin_ (s : State) (m : Nat) : State :=
  let h := s.host
  let op := h.mbxField m 4 2
  let len := h.mbxField m 8 4
  let dl0 := h.mbxField m 16 8
  let p := h.mbx.raw (4096 * m + 32) (min len 4064)
  let c : Cmd := { m := m, op := op, flags := h.mbxField m 6 2, seq := h.mbxField m 1 1, dl := if s.dlOn 3 then dl0 else 0
                   pars := p, begun := false, late := false, ans := none, keep := [], t0 := s.now }
  let cl := claimsOf op p
  let put (t : State) (st : Option Nat) : State :=
    { t with host := { t.host with runs := t.host.runs ++ [{ c with ans := st.map (fun x => (x, [])) }] } }
  match opTable.find? (fun x => x.1 == op) with
  | none => put s (some stOpcode)
  | some (_, need) =>
    if len > 4064 || len ≠ need then put s (some stParam)
    else if dl0 ≠ 0 && s.dlOn 3 && dl0 ≤ s.now then put s (some stLate)
    else
      match s.deny op p with
      | some t => put t (some stDenied)
      | none =>
        let others := (h.runs.filter (fun r => r.begun || r.ans.isNone)).map (fun r => claimsOf r.op r.pars)
        let clash := others.any (fun o => conflict cl o || claimsAll cl || claimsAll o)
        let tamper := !s.sec.tamper.isEmpty && cl.any (fun x => x.k == .blk || x.k == .sec || x.k == .all)
        if clash then put s (some stState) else if tamper then put s (some stBusy) else put s none

/-- Thallus begins the oldest handoff (R379, R384). -/
def execThallusWake (s : State) : Res :=
  .next (match s.host.hand with
    | [] => s
    | m :: rest =>
      if s.boot.ready && s.thallusUp then ({ s with host := { s.host with hand := rest } }).begin_ m else s)

/-! Ending. -/

/-- Commands whose results a missed deadline also returns (R409, R416). -/
def partialOps : List Nat := [0x0302, 0x0303, 0x0305, 0x0405]

/-- `n` bytes that the spec leaves undefined: free values. -/
def freeBytes (k n : Nat) : List Byte := (List.range n).map (fun i => BitVec.ofNat 8 (Config.lost k i))

/-- A command completes (R380): results, RESULT_LEN and STATUS, then MBX_CTL, then its vector. The result area beyond
RESULT_LEN is left undefined. Done as requested but late, it ends DEADLINE_MISSED (R387; log entry 43). -/
def State.finish (s : State) (c : Cmd) (st : Nat) (res : List Byte) : State :=
  let (st1, res1) := if c.late && st = stOk then (stLate, if partialOps.contains c.op then res else []) else (st, res)
  let area := res1 ++ freeBytes s.freeN (4064 - res1.length)
  let h := ((((s.host.putMbx c.m 32 area).putMbx c.m 12 (toLE 4 res1.length)).putMbx c.m 24 (toLE 2 st1)).putMbx c.m 0
    (toLE 4 (256 * c.seq)))
  let s1 := { s with freeN := s.freeN + 1, host := { h with runs := h.runs.filter (fun r => r.m != c.m) } }
  if bit c.flags 0 then s1.msix c.m else s1

end Sys2Proof.Machine
end

