-- ==== Sys2Proof/Machine/Power.lean ====
section
/-! DEFINITION. Chip, region, stack and link power states: their moves, and the power commands (chapter 16; R406, R407). -/

namespace Sys2Proof.Machine

/-! Regions (R444, R445). -/

/-- What loss of power leaves in a store of `size` bytes: the pairs of a free list, laid down one by one. -/
def lostMem (k size : Nat) : Mem :=
  (Config.lostErrs k).foldl (fun m e => m.setDelta (e.1 % (size / 32)) e.2)
    ((Config.lostCells k).foldl (fun m c => m.put (c.1 % size) [c.2]) Mem.empty)

/-- A block whose region enters OFF (Table 16-5): IDLE, sets INVALID, counters 0. Its stores are lost when power comes back. -/
def Block.powerOff (b : Block) : Block :=
  { b with
    st := .idle, stopping := false, fault := 0, active := TSet.invalid, shadow := TSet.invalid, loading := none
    ctr := List.replicate 40 0, corrNow := [0, 0, 0], jobs := [], fences := [], slabs := [], packed := [], drains := []
    tiles := [], pins := [], pinq := [], rels := [], clk := .gated, idle := 0, wd := 0, nocOut := [], nocIn := []
    wiping := false, clearSec := false, wipeStart := false, clearing := false, arrInj := none }

/-- A sequencer that power comes back to. -/
def lostSeqr (k i : Nat) : Seqr := ⟨Config.lost k i % 2 ^ 13, [], none⟩

/-- An instruction memory that power comes back to. -/
def lostWords (k i : Nat) : List IWord :=
  (List.range 4096).map (fun j => ⟨Config.lost k (i + j) % 2 ^ 64, Config.lost k (i + 5000 + j) % 4⟩)

/-- A block that power comes back to: what its memories and registers held is undefined (Table 16-6). -/
def Block.lose (b : Block) (k : Nat) : Block :=
  { b with
    spad := lostMem (4 * k) (2 ^ 21), acc := lostMem (4 * k + 1) (2 ^ 17)
    sideV := lostMem (4 * k + 2) 65536, sideT := lostMem (4 * k + 3) 65536
    descs := (List.range 256).map (fun i => Config.lost k i % 2 ^ 512)
    toks := (List.range 64).map (fun i => Config.lost k (256 + i) % 2 ^ 16)
    lcr := (List.range 8).map (fun i => Config.lost k (320 + i) % 2 ^ 24)
    vimm := (List.range 16).map (fun i => Config.lost k (328 + i) % 2 ^ 32)
    lanes := (List.range 64).map (fun i => Config.lost k (344 + i) % 2 ^ 32)
    maskF := (List.range 8).map (fun i => Config.lost k (408 + i) % 2 ^ 128)
    maskB := (List.range 8).map (fun i => Config.lost k (416 + i) % 2 ^ 128)
    seqA := lostSeqr k 424, seqF := lostSeqr k 425, seqB := lostSeqr k 426
    run := ⟨Config.lost k 427 % 2 ^ 13, Config.lost k 428 % 2 ^ 13, Config.lost k 429 % 2 ^ 13, Config.lost k 430 % 2 ^ 32, b.run.secure⟩
    markF := Config.lost k 431 % 2 ^ 16, markB := Config.lost k 432 % 2 ^ 16
    arrCtl := Config.lost k 433 % 2 ^ 16 &&& 0xFFC1, rowMiss := Config.lost k 434 % 2 ^ 64
    imA := lostWords k 1000, imX := lostWords k 11000 }

/-- The blocks of a region. -/
def regionBlocks (r : Nat) : List Nat := (List.range 36).map (fun i => 36 * r + i)

def State.updRegionBlocks (s : State) (r : Nat) (f : Nat → Block → Block) : State :=
  (regionBlocks r).foldl (fun t n => t.updBlock n (f n)) s

/-- A region enters a state (Tables 16-5, 16-6). -/
def State.regionEnter (s : State) (r : Nat) (n : RegSt) : State :=
  let old := (s.region r).st
  let s1 := s.updRegion r (fun g => { g with st := n, move := none })
  match n with
  | .off => (s1.updRegion r (fun g => { g with ctr := [0, 0], corrNow := 0, waiting := [] })).updRegionBlocks r
      (fun _ b => b.powerOff)
  | .retain =>
    if old = .off then
      let k := s1.freeN
      let s2 := ({ s1 with freeN := k + 145 }).updRegionBlocks r (fun b x => x.lose (k + b))
      s2.updRegion r (fun g => { g with store := lostMem (4 * (k + 144)) (2 ^ 24) })
    else s1.updRegionBlocks r (fun _ b => { b with
      active := TSet.invalid, shadow := TSet.invalid, loading := none, clk := .gated })
  | .armed => s1.updRegionBlocks r (fun _ b => { b with
      clk := if old = .run && (b.st == .running || !b.jobs.isEmpty) then .running else .gated, idle := 0 })
  | .run => (s1.updRegion r (fun g => { g with waiting := [] })).updRegionBlocks r (fun _ b => { b with clk := .running })

/-- Ticks of a region step (Table 16-6). -/
def regionTicks : RegSt → RegSt → Nat
  | .off, _ => 2000
  | .retain, .off => 200
  | .retain, _ => 4000
  | .armed, .run => 100
  | .armed, _ => 500
  | .run, _ => 50

/-- The next state toward a higher one and toward a lower one. -/
def RegSt.up : RegSt → RegSt
  | .off => .retain | .retain => .armed | .armed => .run | .run => .run
def RegSt.down : RegSt → RegSt
  | .run => .armed | .armed => .retain | .retain => .off | .off => .off

/-- The next step of a region at rest (R445): toward OFF the secure partitions are wiped first, in ARMED. -/
def State.regionNext (s : State) (r : Nat) : Option RegSt :=
  let g := s.region r
  let secret := (regionBlocks r).any (fun n => (s.block n).sec || (s.block n).wiping)
  if g.move.isSome then none
  else if g.goal = .off && secret then
    match g.st with
    | .retain => some .armed
    | .run => some .armed
    | _ => none
  else if g.goal.code > g.st.code then
    if g.st = .armed && s.regions.any (fun x => match x.move with | some (.run, _) => true | _ => false) then none
    else some g.st.up
  else if g.goal.code < g.st.code then some g.st.down
  else none

/-- A region at rest takes its next step, or begins the wipes that its way to OFF needs. -/
def State.regionStep (s : State) (r : Nat) : State :=
  let g := s.region r
  match s.regionNext r with
  | some n => s.updRegion r (fun g => { g with move := some (n, s.now + regionTicks g.st n) })
  | none =>
    if g.move.isNone && g.goal = .off && g.st = .armed then
      s.updRegionBlocks r (fun _ b => if b.sec && !b.wiping then b.startWipe true else b)
    else s

def State.regionsStep (s : State) : State := [0, 1, 2, 3].foldl State.regionStep s

/-! The chip (R442, R443). -/

/-- Highest region state a chip state allows (Table 16-3). -/
def chipRegion : Nat → RegSt
  | 0 => .retain | 1 => .retain | 2 => .armed | _ => .run

/-- Ticks of a chip step (Table 16-4). -/
def chipTicks : Nat → Nat → Nat
  | 0, _ => 500000
  | 1, 0 => 10000
  | 1, _ => 2000
  | 2, 1 => 1000
  | 2, _ => 1000
  | _, _ => 500

/-- The chip takes its next step; a downward one waits for what the lower state does not allow (R443). -/
def State.chipStep (s : State) : State :=
  let c := s.pwr.chip
  let go (t : State) (n : Nat) : State := { t with pwr := { t.pwr with chipMove := some (n, t.now + chipTicks c n) } }
  if s.pwr.chipMove.isSome || s.pwr.chipGoal = c then s
  else if s.pwr.chipGoal > c then go s (c + 1)
  else
    let top := chipRegion (c - 1)
    let s1 := ({ s with regions := s.regions.map (fun (g : Region) =>
      if g.goal.code > top.code then { g with goal := top } else g) }).regionsStep
    let quiet := s1.regions.all (fun g => g.move.isNone && decide (g.st.code ≤ top.code))
    if c ≠ 1 then (if quiet then go s1 (c - 1) else s1)
    else
      let s2 := { s1 with stks := s1.stks.map (fun (k : Stack) =>
        if k.st = .active then { k with st := .entering, wake := s1.now + 200 } else k) }
      if quiet && s2.stks.all (fun k => k.st == .selfRefresh || k.st == .failed || k.st == .untrained) then go s2 0 else s2

/-- What a region's new state lets go on. -/
def State.regionsGo (s : State) : State := s.regionsStep.chipStep

/-- A region step ends (R445): waiting requests are served or refused. -/
def State.regionDone (s : State) (r : Nat) : State :=
  match (s.region r).move with
  | none => s
  | some (n, t) =>
    if s.now < t || !s.coreUp || s.pwr.clkOff || (n = .run && !s.issueOn) then s
    else
      let ws := (s.region r).waits
      let s1 := (s.regionEnter r n).updRegion r (fun g => { g with waits := [] })
      let s2 := ws.foldl (fun t a => t.storeAccess r a) s1
      let s3 := if n = .armed && (s.region r).st = .retain then
          (regionBlocks r).foldl (fun t b =>
            if t.sec.tamper.contains b then t.updBlock b (fun b => if b.wiping then b else b.startWipe false) else t) s2
        else s2
      s3.resume.regionsGo

def execRegionTransitionComplete (r : Nat) (s : State) : Res := onUnit (r < 4) (s.regionDone r)

/-- A secure partition's zero-fill ends (R155): accesses proceed, and a region on its way to OFF goes on. -/
def execSecureWipeComplete (b : Nat) (s : State) : Res :=
  onPart s (b < 144) (((s.updBlock b Block.endWipe).tamperDone b).resume.regionsGo)

/-- A chip step ends (R443): in C1 from C0 READY is set; C0 is entered once Thallus has completed the command. -/
def State.chipDone (s : State) : State :=
  match s.pwr.chipMove with
  | none => s
  | some (n, t) =>
    if s.now < t || !s.coreUp || s.pwr.clkOff || (n = 0 && s.host.runs.any (fun c => c.op == 0x0200)) then s
    else
      let s1 := { s with pwr := { s.pwr with chip := n, chipMove := none } }
      if n = 0 then ({ s1 with boot := { s1.boot with ready := false } }).wakeChip
      else
        let s2 := if s.pwr.chip = 0 then { s1 with boot := { s1.boot with ready := true } } else s1
        s2.chipStep

def execChipTransitionComplete (s : State) : Res := .next s.chipDone

/-- The base die reports self refresh, its buffer and write queues empty (R239, R447). -/
def State.selfEntered (s : State) (n : Nat) : State := (s.enterSelf n).chipStep

def execSelfRefreshEntry (n : Nat) (s : State) : Res := onPart s (n < 12) (s.selfEntered n)

/-! Links (R448). -/

/-- A link change ends: its buffer has drained, it has reached its frame boundary, or it is OFF. -/
def State.linkDone (s : State) (l : Nat) : State :=
  let k := s.link l
  if !(s.dieUp (l / 32)) then s
  else
    match k.st, k.goal with
    | .up, .standby => if k.tx.isEmpty then s.updLink l (fun k => { k with st := .standby }) else s
    | .standby, .up => (s.updLink l (fun k => { k with st := .up })).dirCheck
    | _, .off => ((s.freeSlots (k.tx.map TxP.p)).updLink l (fun k => { k with
        st := .off, tx := [], sample := none, gate := false, tries := 0 })).dirCheck
    | _, _ => s

def execLinkTransitionComplete (l : Nat) (s : State) : Res := onPart s (l < 64) (s.linkDone l)

/-! The power commands (R406, R407). -/

/-- Has a stack's SUE a trigger not yet finished? -/
def Stack.trigOut (k : Stack) : Bool := k.sue.pass.isSome || k.sue.binds.any (fun b => b.trig.isSome)

/-- PWR_CHIP_STATE (R443). -/
def State.pwrChip (s : State) (c : Cmd) : State :=
  let t := fld c.pars 0 1
  if t > 3 then s.answer c.m stParam []
  else if (t < 3 && s.anyRunning) || (t ≥ 2 && s.stks.any (fun k => k.st == .failed)) || (t = 0 && s.stks.any Stack.trigOut)
  then s.answer c.m stState []
  else (({ s with pwr := { s.pwr with chipGoal := t } }).keep c.m [s.pwr.chip, s.now]).chipStep

def execPwrChipState (m : Nat) (s : State) : Res := onUnit (m < 16) (s.cmdRow m 0x0200 State.pwrChip)

def regStOf : Nat → RegSt
  | 0 => .off | 1 => .retain | 2 => .armed | _ => .run

/-- PWR_REGION_STATE (R445). -/
def State.pwrRegion (s : State) (c : Cmd) : State :=
  let map := fld c.pars 0 1
  let t := fld c.pars 1 1
  let named := bitsOf 4 map
  if !(mapOk 4 1 map) || t > 3 then s.answer c.m stParam []
  else if s.pwr.chip < 2 || t > (chipRegion s.pwr.chip).code
      || (t < 2 && named.any (fun r => (regionBlocks r).any (fun n => (s.block n).st == .running))) then
    s.answer c.m stState []
  else
    let prev := (s.regions.zip [1, 4, 16, 64]).foldl (fun a x => a + x.1.st.code * x.2) 0
    let s1 := named.foldl (fun u r => u.updRegion r (fun g => { g with goal := regStOf t })) s
    (s1.keep c.m [prev]).regionsStep

def execPwrRegionState (m : Nat) (s : State) : Res := onUnit (m < 16) (s.cmdRow m 0x0201 State.pwrRegion)

/-- PWR_STACK_STATE (R447). -/
def State.pwrStack (s : State) (c : Cmd) : State :=
  let map := fld c.pars 0 2
  let t := fld c.pars 2 1
  let named := bitsOf numStacks map
  if !(mapOk numStacks 2 map) || t > 1 then s.answer c.m stParam []
  else if named.any (fun n => let k := s.stack n
      k.st == .failed || k.st == .untrained || (t == 1 && k.trigOut)) then s.answer c.m stState []
  else
    let prev := maskOf ((List.range numStacks).filter (fun n => (s.stack n).st == .selfRefresh))
    let s1 := named.foldl (fun u n => u.updStack n (fun k =>
      if t = 1 then (if k.st = .active then { k with st := .entering, wake := s.now + 200 } else k)
      else if k.st = .selfRefresh then { k with st := .waking, wake := s.now + 400, byReq := false } else k)) s
    s1.keep c.m [prev]

def execPwrStackState (m : Nat) (s : State) : Res := onUnit (m < 16) (s.cmdRow m 0x0202 State.pwrStack)

def linkStOf : Nat → LinkSt
  | 0 => .up | 1 => .standby | _ => .off

/-- State of a link in PWR_LINK_STATE's two bits. -/
def LinkSt.code2 : LinkSt → Nat
  | .up => 0 | .standby => 1 | .off => 2 | _ => 3

def State.linkStates (s : State) : List Byte :=
  (chunks 4 s.fab.links).map (fun ks =>
    BitVec.ofNat 8 ((ks.zip [1, 4, 16, 64]).foldl (fun a x => a + x.1.st.code2 * x.2) 0))

/-- Would moving links out of UP leave a direction of a defined axis without an UP link (R407)? -/
def State.emptiesDir (s : State) (named : List Nat) : Bool :=
  ((List.range 8).flatMap (fun a => [(a, 0), (a, 1)])).any (fun ad =>
    profDef s.fab.prof ad.1 && (s.fab.upLinks ad.1 ad.2).any (fun l => named.contains l)
      && (s.fab.upLinks ad.1 ad.2).all (fun l => named.contains l))

/-- A link set toward a state (Table 16-8). A port without its cable keeps its links in OFF (R539). -/
def Link.toward (k : Link) (t : LinkSt) : Link :=
  match t, k.st with
  | .off, _ => { k with goal := .off }
  | _, .off => if k.cable then { k with st := .training, goal := t, full := false, gate := false, tries := 0 }
      else { k with goal := t }
  | _, _ => { k with goal := t }

/-- PWR_LINK_STATE (R407, R448). -/
def State.pwrLink (s : State) (c : Cmd) : State :=
  let map := fld c.pars 0 8
  let t := fld c.pars 8 1
  let named := bitsOf numLinks map
  if !(mapOk numLinks 8 map) || t > 2 then s.answer c.m stParam []
  else if (t < 2 && named.any (fun l => (s.link l).st.code2 == 3))
      || (t > 0 && s.fab.slice != 0 && fld c.pars 9 1 == 0 && s.emptiesDir named) then s.answer c.m stState []
  else
    let prev := s.linkStates
    let s1 := named.foldl (fun u l => u.updLink l (fun k => k.toward (linkStOf t))) s
    (s1.keep c.m [ofLE prev]).dirCheck

def execPwrLinkState (m : Nat) (s : State) : Res := onUnit (m < 16) (s.cmdRow m 0x0203 State.pwrLink)

/-- State of a stack in PWR_QUERY. -/
def StkSt.code : StkSt → Nat
  | .selfRefresh => 1 | .failed => 2 | _ => 0

/-- PWR_QUERY (Table 15-3); the package power is what the sensors read, which the spec does not state. -/
def State.pwrQuery (s : State) (c : Cmd) : State :=
  let (p, s1) := s.draw
  s1.ok c.m (toLE 1 s.pwr.chip ++ s.regions.map (fun g => BitVec.ofNat 8 g.st.code)
    ++ s.stks.map (fun k => BitVec.ofNat 8 k.st.code) ++ s.linkStates ++ toLE 3 0 ++ toLE 4 p)

def execPwrQuery (m : Nat) (s : State) : Res := onUnit (m < 16) (s.cmdRow m 0x0204 State.pwrQuery)

/-- The answer of a power command that has reached its end. -/
def State.pwrEnd (s : State) (c : Cmd) : Option (Nat × List Byte) :=
  match c.op with
  | 0x0200 =>
    let t := fld c.pars 0 1
    let us (end_ : Nat) : Nat := cdiv (end_ - c.keep.getD 1 0) 100
    let res (end_ : Nat) : List Byte := toLE 1 (c.keep.getD 0 0) ++ toLE 1 t ++ toLE 2 0 ++ toLE 4 (us end_)
    if t = 0 then
      match s.pwr.chipMove with
      | some (0, e) => some (stOk, res e)
      | _ => none
    else if s.pwr.chip = t && s.pwr.chipMove.isNone then some (stOk, res s.now) else none
  | 0x0201 =>
    let t := regStOf (fld c.pars 1 1)
    if (bitsOf 4 (fld c.pars 0 1)).all (fun r => (s.region r).st == t && (s.region r).move.isNone) then
      some (stOk, toLE 4 (c.keep.getD 0 0))
    else none
  | 0x0202 =>
    let t : StkSt := if fld c.pars 2 1 = 1 then .selfRefresh else .active
    if (bitsOf numStacks (fld c.pars 0 2)).all (fun n => (s.stack n).st == t) then some (stOk, toLE 4 (c.keep.getD 0 0))
    else none
  | 0x0203 =>
    let t := linkStOf (fld c.pars 8 1)
    let named := bitsOf numLinks (fld c.pars 0 8)
    let res := toLE 16 (c.keep.getD 0 0)
    let fin (k : Link) : Bool := k.st == t || (k.st != .training && k.st.code2 == 3)
    if named.all (fun l => fin (s.link l)) then
      some (if named.all (fun l => (s.link l).st == t) then (stOk, res) else (stFaulted, []))
    else none
  | _ => none

end Sys2Proof.Machine
end

