-- ==== Sys2Proof/Machine/CmdMem.lean ====
section
/-! DEFINITION. The memory commands (R392, R408 to R411). -/

namespace Sys2Proof.Machine

/-- MEM_MAP_WINDOW (R392). -/
def State.mapWindow (s : State) (c : Cmd) : State :=
  let b := fld c.pars 0 4
  if b > 800 then s.answer c.m stParam []
  else ({ s with host := { s.host with bar2 := b } }).ok c.m (toLE 4 s.host.bar2)

def execMemMapWindow (m : Nat) (s : State) : Res := onUnit (m < 16) (s.cmdRow m 0x0300 State.mapWindow)

/-! MEM_WIPE (R411). -/

/-- A stack zero-filled; its bindings and triggers are discarded, its rules stay (R411). -/
def Stack.wiped (k : Stack) : Stack :=
  { k.wipe with st := .active, byReq := false, sue := { k.sue with binds := [], queue := [], pass := none } }

/-- A block's stores zero-filled: scratchpad and secure partition, accumulators and side memory (R411). -/
def Block.wiped (b : Block) (spad acc : Bool) : Block :=
  let b1 := if spad then { b with spad := Mem.empty, sec := false, wiping := false, clearSec := false } else b
  if acc then { b1 with acc := Mem.empty, tiles := [], drains := [], sideV := Mem.empty, sideT := Mem.empty } else b1

/-- The stores of a scope zero-filled, in regions of any state (log entry 34). -/
def State.wipe (s : State) (scope stks : Nat) : State :=
  let s1 := if bit scope 0 then
      (bitsOf numStacks stks).foldl (fun t n => (t.updStack n Stack.wiped).settle n) s
    else s
  let s2 := if bit scope 1 then { s1 with regions := s1.regions.map (fun g => { g with store := Mem.empty }) } else s1
  { s2 with blocks := s2.blocks.map (fun b => b.wiped (bit scope 2) (bit scope 3)) }

/-- A full wipe has ended (R523). -/
def State.fullWipe (s : State) : State := { s with sec := { s.sec with wiped := true, wipeAt := s.now } }

/-- MEM_WIPE begins: stacks wake, and the time it takes is known (R411). -/
def State.memWipe (s : State) (c : Cmd) : State :=
  let scope := fld c.pars 0 1
  let named := if bit scope 0 then bitsOf numStacks (fld c.pars 2 2) else []
  if bit scope 0 && !(mapOk numStacks 2 (fld c.pars 2 2)) then s.answer c.m stParam []
  else if s.anyRunning then s.answer c.m stState []
  else if named.any (fun n => (s.stack n).st == .failed || (s.stack n).st == .untrained) then
    s.answer c.m stFaulted (toLE 4 0)
  else
    let (d, s1) := s.draw
    let us := if named.any (fun n => (s.stack n).hot) then 32970 else if !named.isEmpty then 31520 else d % 6
    let s2 := named.foldl (fun t n => t.updStack n (fun k =>
      if k.st = .selfRefresh then { k with st := .waking, wake := s.now + 400, byReq := false } else k)) s1
    s2.keep c.m [s.now + 100 * us, us]

def execMemWipe (m : Nat) (s : State) : Res := onUnit (m < 16) (s.cmdRow m 0x0301 State.memWipe)

/-- Has the wipe's time passed? -/
def State.wipeEnds (s : State) (c : Cmd) : Bool := decide (s.now ≥ c.keep.getD 0 0)

/-- The end of MEM_WIPE. -/
def State.wipeDone (s : State) (c : Cmd) : State :=
  let scope := fld c.pars 0 1
  let s1 := s.wipe scope (fld c.pars 2 2)
  let s2 := if scope % 16 = 15 && fld c.pars 2 2 = 0xFFF then s1.fullWipe else s1
  s2.ok c.m (toLE 4 (c.keep.getD 1 0))

/-! Extents (R402, R409, R410). -/

/-- Does an extent lie in its space? -/
def extentOk (sp stk a len : Nat) : Bool :=
  ((1 ≤ sp && sp ≤ 3) || (sp == 4 && stk < 12)) && inSpace sp a (a + max len 1 - 1)

/-- An extent cut where the unit that answers changes. -/
def unitCuts : Nat → Nat → Nat → Nat → List (Nat × Nat)
  | 0, _, _, _ => []
  | f + 1, sp, a, n =>
    if n = 0 then []
    else
      let u := if sp = 1 then (if a % 2 ^ 21 < secBase then secBase - a % 2 ^ 21 else 2 ^ 21 - a % 2 ^ 21)
        else if sp = 2 then 2 ^ 24 - a % 2 ^ 24 else if sp = 3 then 256 - a % 256 else n
      (a, min n u) :: unitCuts f sp (a + min n u) (n - min n u)

def State.cutsOf (s : State) (sp stk a len : Nat) : List (Nat × Nat) :=
  if sp = 3 && s.gateAt sp stk a len != .refused then [(a, len)]
  else unitCuts (len / 256 + 2) sp a len

/-- How far an extent is served: the bytes before the first unit that refuses, and the status that it gives. -/
def State.reach (s : State) (sp stk : Nat) : List (Nat × Nat) → Nat × Nat
  | [] => (0, stOk)
  | (a, n) :: rest =>
    if s.gateAt sp stk a n == .refused then (0, stFaulted)
    else if s.deniedAt sp a n then (0, stDenied)
    else let r := s.reach sp stk rest; (n + r.1, r.2)

def State.reachOf (s : State) (sp stk a len : Nat) : Nat × Nat := s.reach sp stk (s.cutsOf sp stk a len)

/-- Must an extent wait for a wake, a move or a wipe? -/
def State.waitsAt (s : State) (sp stk a len : Nat) : Bool :=
  (s.cutsOf sp stk a len).any (fun p => s.gateAt sp stk p.1 p.2 == .wait)

/-- A write by a unit outside the blocks, with what the SUEs make of it. -/
def State.hostStore (s : State) (sp stk a : Nat) (bs : List PByte) : State :=
  (stacksOf sp stk a bs.length).foldl State.settle (s.writeAt 0 sp stk a bs)

/-- A refused access of a command is logged (R154): the requester is the host interface. -/
def State.logDenied (s : State) (m st addr : Nat) : State := if st = stDenied then s.emit 0x17 lvHost m addr 0 else s

/-- The command goes back to waiting for its row, what it needs being woken (R24). -/
def State.again (s : State) (m : Nat) : State := s.updCmd m (fun c => { c with begun := false })

/-- MEM_FILL (R409, R410). -/
def State.memFill (s : State) (c : Cmd) : State :=
  let (sp, stk, len, a) := (fld c.pars 0 1, fld c.pars 1 1, fld c.pars 4 4, fld c.pars 8 8)
  if !(extentOk sp stk a len) || a % 8 ≠ 0 || len % 8 ≠ 0 then s.answer c.m stParam []
  else if s.waitsAt sp stk a len then (s.wakeAt sp stk a len).again c.m
  else
    let (n, st) := s.reachOf sp stk a len
    let bs := (List.replicate (n / 8) ((c.pars.drop 16).take 8)).flatten
    ((s.hostStore sp stk a (cleanBytes bs)).logDenied c.m st (a + n)).answer c.m st (toLE 4 n)

def execMemFill (m : Nat) (s : State) : Res := onUnit (m < 16) (s.cmdRow m 0x0302 State.memFill)

/-- A DMA that completed with a PCIe error (R398). -/
def State.dmaErr (s : State) (m : Nat) : State := (s.emit 0x0604 lvHost m m 0).answer m stFaulted []

/-- Do two extents of a copy overlap (R409)? -/
def copyOverlap (sp1 stk1 a1 sp2 stk2 a2 len : Nat) : Bool :=
  sp1 == sp2 && (sp1 != 4 || stk1 == stk2) && decide (a1 < a2 + len) && decide (a2 < a1 + len)

/-- MEM_COPY (R409, R410): `dma` is what the host buffer held, or nothing where the DMA failed. -/
def State.memCopy (dma : Option (List Byte)) (s : State) (c : Cmd) : State :=
  let (sp1, stk1, sp2, stk2) := (fld c.pars 0 1, fld c.pars 1 1, fld c.pars 2 1, fld c.pars 3 1)
  let (len, a1, a2) := (fld c.pars 4 4, fld c.pars 8 8, fld c.pars 16 8)
  let okAt (sp stk a : Nat) : Bool := if sp = 7 then a % 64 == 0 else extentOk sp stk a len
  if !(okAt sp1 stk1 a1) || !(okAt sp2 stk2 a2) || (sp1 = 7 && sp2 = 7) || (sp1 ≠ 7 && copyOverlap sp1 stk1 a1 sp2 stk2 a2 len)
  then s.answer c.m stParam []
  else if (sp1 ≠ 7 && s.waitsAt sp1 stk1 a1 len) || (sp2 ≠ 7 && s.waitsAt sp2 stk2 a2 len) then
    let s1 := if sp1 = 7 then s else s.wakeAt sp1 stk1 a1 len
    (if sp2 = 7 then s1 else s1.wakeAt sp2 stk2 a2 len).again c.m
  else if (sp1 = 7 || sp2 = 7) && dma.isNone then s.dmaErr c.m
  else
    let r1 := if sp1 = 7 then (len, stOk) else s.reachOf sp1 stk1 a1 len
    let r2 := if sp2 = 7 then (len, stOk) else s.reachOf sp2 stk2 a2 len
    let n := min r1.1 r2.1
    let (st, bad) := if r1.1 < len && r1.1 ≤ r2.1 then (r1.2, a1 + n) else if r2.1 < len then (r2.2, a2 + n) else (stOk, 0)
    let bs := if sp1 = 7 then cleanBytes (fitTo n (dma.getD [])) else s.readAt 0 sp1 stk1 a1 n
    let s1 := if sp1 = 7 then s else s.touchAt 0 clsBulk sp1 stk1 a1 n
    let s2 := if sp2 = 7 then { s1 with out := s1.out ++ [.hostWrite a2 (bs.map Prod.fst) (bs.any Prod.snd)] }
      else s1.hostStore sp2 stk2 a2 bs
    (s2.logDenied c.m st bad).answer c.m st (toLE 4 n)

def execMemCopy (m : Nat) (dma : Option (List Byte)) (s : State) : Res :=
  onUnit (m < 16) (s.cmdRow m 0x0303 (State.memCopy dma))

/-- MEM_SCRUB_SET (R251): a new period holds from the next sweep. -/
def State.scrubSet (s : State) (c : Cmd) : State :=
  let map := fld c.pars 0 2
  let p := fld c.pars 2 1
  if !(mapOk numStacks 2 map) || p < 10 || p > 60 then s.answer c.m stParam []
  else
    ((bitsOf numStacks map).foldl (fun t n => t.updStack n (fun k => { k with newPeriod := p })) s).ok c.m
      (s.stks.map (fun k => BitVec.ofNat 8 k.newPeriod))

def execMemScrubSet (m : Nat) (s : State) : Res := onUnit (m < 16) (s.cmdRow m 0x0304 State.scrubSet)

/-- The poison map of bytes read from address `a`: bit w for the w-th word touched. -/
def poisonMap (a : Nat) (bs : List PByte) : Nat :=
  maskOf (((bs.zip (List.range bs.length)).filter (fun x => x.1.2)).map (fun x => (a + x.2) / 32 - a / 32))

/-- MEM_READ_BACK (R410). -/
def State.readBack (s : State) (c : Cmd) : State :=
  let (sp, stk, len, a) := (fld c.pars 0 1, fld c.pars 1 1, fld c.pars 4 4, fld c.pars 8 8)
  if !(extentOk sp stk a len) || len = 0 || len > 4032 then s.answer c.m stParam []
  else if s.waitsAt sp stk a len then (s.wakeAt sp stk a len).again c.m
  else
    let (n, st) := s.reachOf sp stk a len
    let bs := s.readAt 0 sp stk a n
    ((s.touchAt 0 clsBulk sp stk a n).logDenied c.m st (a + n)).answer c.m st
      (toLE 16 (poisonMap a bs) ++ toLE 16 0 ++ bs.map Prod.fst)

def execMemReadBack (m : Nat) (s : State) : Res := onUnit (m < 16) (s.cmdRow m 0x0305 State.readBack)

end Sys2Proof.Machine
end

