-- ==== Sys2Proof/Machine/Prog.lean ====
section
/-! DEFINITION. Block images and the program commands (R162 to R168, R412 to R417, R470, R471, R519, R520). -/

namespace Sys2Proof.Machine

/-! Images (R163). -/

/-- Descriptor records of an image: handle and descriptor. -/
def imageRecs (bs : List Byte) : List (Nat × Nat) :=
  let first := 256 + 8 * (fld bs 8 2 + fld bs 10 2)
  (List.range (fld bs 14 2)).map (fun i => (fld bs (first + 72 * i) 1, fld bs (first + 72 * i + 8) 64))

/-- Do two rings overlap? -/
def ringsMeet (a b : QCfg) : Bool := decide (a.base < b.base + 512 * b.size) && decide (b.base < a.base + 512 * a.size)

/-- The rules of R175 over eight configurations. -/
def queuesOk (qs : List QCfg) : Bool :=
  let on := (qs.zip (List.range 8)).filter (fun x => x.1.en)
  on.all (fun x => decide (1 ≤ x.1.size) && decide (x.1.size ≤ 1024) && x.1.base % 512 == 0
    && decide (x.1.base + 512 * x.1.size ≤ 2 ^ 21)
    && on.all (fun y => x.2 == y.2 || !(ringsMeet x.1 y.1)))

/-- No two records name one handle. -/
def handlesOk : List (Nat × Nat) → Bool
  | [] => true
  | r :: rs => rs.all (fun x => x.1 != r.1) && handlesOk rs

/-- The checks of R163, on the bytes of a load. -/
def imageStatus (bs : List Byte) : Nat :=
  if bs.length < 64 || fld bs 0 4 ≠ 0x4B54494D then stParam
  else if fld bs 4 2 ≠ 1 then stVersion
  else
    let (a, x, e, n) := (fld bs 8 2, fld bs 10 2, fld bs 12 2, fld bs 14 2)
    if a > 4096 || x > 4096 || e > x || n > 256 || bs.length ≠ 256 + 8 * (a + x) + 72 * n then stParam
    else
      let recs := imageRecs bs
      if handlesOk recs && recs.all (fun r => descOk r.2)
          && queuesOk ((List.range 8).map (fun i => qcfgOf (fld bs (192 + 8 * i) 8))) then stOk
      else stParam

/-- Instruction words of an image. -/
def imageWords (bs : List Byte) (off n : Nat) : List IWord :=
  (chunks 8 ((bs.drop off).take (8 * n))).map (fun c => let w := ofLE c; ⟨w, parityOf w⟩)

/-- An accepted load written into a block (R163); handles it names are left unpinned (R265). -/
def Block.load (b : Block) (bs : List Byte) : Block :=
  let (a, x) := (fld bs 8 2, fld bs 10 2)
  let b1 := (imageRecs bs).foldl (fun (k : Block) r => (k.setDesc r.1 r.2).setPin ⟨r.1, false, false, 0, 0, 0, 0⟩) b
  { b1 with
    st := .loaded, kept := bs.take 256
    imA := imageWords bs 256 a ++ b.imA.drop a
    imX := imageWords bs (256 + 8 * a) x ++ b.imX.drop x }

/-- A load into the named blocks, with its measurement (R519). -/
def State.loadBlocks (s : State) (bl : List Nat) (bs : List Byte) (digest : Nat) : State :=
  let s1 := bl.foldl (fun t n => t.updBlock n (fun b => b.load bs)) s
  let keep := s1.sec.meas.filter (fun x => !(bl.contains x.1))
  { s1 with sec := { s1.sec with
      meas := keep ++ bl.map (fun n => (n, digest)), modif := s1.sec.modif.filter (fun n => !(bl.contains n)) } }

/-- Is a block reserved by the open Sporecast session (R414)? -/
def State.castHolds (s : State) (n : Nat) : Bool :=
  match s.fab.cast with
  | some c => bit c.blocks n
  | none => false

/-- May a load, a start, or a DESC_WRITE name this block (Table 7-3, R399, R414)? -/
def State.blockFree (s : State) (n : Nat) (idleToo : Bool) : Bool :=
  let st := (s.block n).st
  !(s.darkBlock n) && !(s.castHolds n)
    && (st == .loaded || st == .done || st == .stopped || (idleToo && st == .idle)) && !(s.starts.contains n)

/-- PRG_LOAD (R413). -/
def State.prgLoad (dma : Option (List Byte)) (s : State) (c : Cmd) : State :=
  let map := fld c.pars 0 18
  let bl := bitsOf numBlocks map
  if !(mapOk numBlocks 18 map) || fld c.pars 24 8 % 64 ≠ 0 then s.answer c.m stParam []
  else if !(bl.all (fun n => s.blockFree n true)) then s.answer c.m stState []
  else
    match dma with
    | none => s.dmaErr c.m
    | some got =>
      let bs := fitTo (fld c.pars 20 4) got
      let st := imageStatus bs
      if st ≠ stOk then s.answer c.m st [] else (s.loadBlocks bl bs (Config.sm3 bs)).ok c.m (toLE 18 map)

def execPrgLoad (m : Nat) (dma : Option (List Byte)) (s : State) : Res :=
  onUnit (m < 16) (s.cmdRow m 0x0400 (State.prgLoad dma))

/-- PRG_START (R415): start messages go out in ascending order. -/
def State.prgStart (s : State) (c : Cmd) : State :=
  let map := fld c.pars 0 18
  let bl := bitsOf numBlocks map
  if !(mapOk numBlocks 18 map) then s.answer c.m stParam []
  else if s.pwr.chip ≠ 3 || !(bl.all (fun n => s.blockFree n false)) then s.answer c.m stState []
  else
    { s with starts := s.starts ++ bl, fab := { s.fab with lastStart := s.now, stopOn := false } }.keep c.m [s.now]

def execPrgStart (m : Nat) (s : State) : Res := onUnit (m < 16) (s.cmdRow m 0x0404 State.prgStart)

/-- Its end: every start message has reached its block. -/
def State.startEnd (s : State) (c : Cmd) : Option (Nat × List Byte) :=
  if (bitsOf numBlocks (fld c.pars 0 18)).any (fun n => s.starts.contains n) then none
  else some (stOk, toLE 8 (c.keep.getD 0 0))

/-- PRG_STOP (R416). -/
def State.prgStop (s : State) (c : Cmd) : State :=
  let map := fld c.pars 0 18
  let bl := bitsOf numBlocks map
  if !(mapOk numBlocks 18 map) then s.answer c.m stParam []
  else if bl.any s.darkBlock then s.answer c.m stState []
  else
    let run := bl.filter (fun n => (s.block n).st == .running)
    (bl.foldl State.stopBlock s).keep c.m [maskOf run, maskOf (bl.filter (fun n => !(run.contains n)))]

def execPrgStop (m : Nat) (s : State) : Res := onUnit (m < 16) (s.cmdRow m 0x0405 State.prgStop)

/-- The maps of PRG_STOP as they stand. -/
def State.stopMaps (s : State) (c : Cmd) : List Byte :=
  toLE 18 (maskOf ((bitsOf numBlocks (c.keep.getD 0 0)).filter (fun n => (s.block n).st == .stopped)))
    ++ toLE 18 (c.keep.getD 1 0)

def State.stopEnd (s : State) (c : Cmd) : Option (Nat × List Byte) :=
  let run := bitsOf numBlocks (c.keep.getD 0 0)
  if run.any (fun n => (s.block n).st == .running) then none
  else some (if run.any (fun n => (s.block n).st == .faulted) then stFaulted else stOk, s.stopMaps c)

/-! Reading a block. -/

/-- BLK_STATUS (Table 7-4). -/
def Block.statusWord (b : Block) : Nat :=
  let never := (b.st == .idle || b.st == .loaded) && b.run == ⟨0, 0, 0, 0, false⟩
  let end_ (q : Seq) : Nat := b2n (b.ended q && !never)
  b.seqB.pc % 2 ^ 13 * 2 ^ 51 + b.seqF.pc % 2 ^ 13 * 2 ^ 38 + b.seqA.pc % 2 ^ 13 * 2 ^ 25 + b.fault % 65536 * 2 ^ 9
    + end_ .b * 32 + end_ .f * 16 + end_ .a * 8 + b.st.code

/-- CTX_MARK (Table 7-5). -/
def Block.markWord (b : Block) : Nat := b.markB % 65536 * 65536 + b.markF % 65536

/-- QSTAT (Table 7-10). -/
def Queue.statWord (q : Queue) : Nat := q.ents.length % 65536 * 2 ^ 32 + q.used % 65536 * 65536

/-- PRG_STATUS (R417). -/
def State.prgStatus (s : State) (c : Cmd) : State :=
  let n := fld c.pars 0 2
  let b := s.block n
  if n ≥ numBlocks then s.answer c.m stParam []
  else if s.darkBlock n then s.answer c.m stState []
  else s.ok c.m (toLE 8 b.statusWord ++ toLE 4 b.markWord ++ toLE 4 0 ++ b.qs.flatMap (fun q => toLE 8 q.statWord)
    ++ b.toks.flatMap (toLE 2))

def execPrgStatus (m : Nat) (s : State) : Res := onUnit (m < 16) (s.cmdRow m 0x0406 State.prgStatus)

/-- DESC_WRITE (R417, R519). -/
def State.descWrite (s : State) (c : Cmd) : State :=
  let n := fld c.pars 0 2
  let h := fld c.pars 2 1
  let d := fld c.pars 8 64
  if n ≥ numBlocks then s.answer c.m stParam []
  else if !(s.blockFree n false) then s.answer c.m stState []
  else if !(descOk d) then s.answer c.m stParam []
  else
    let s1 := s.updBlock n (fun b => (b.setDesc h d).setPin ⟨h, false, false, 0, 0, 0, 0⟩)
    ({ s1 with sec := { s1.sec with modif := s1.sec.modif.filter (fun x => x != n) ++ [n] } }).ok c.m []

def execDescWrite (m : Nat) (s : State) : Res := onUnit (m < 16) (s.cmdRow m 0x0407 State.descWrite)

/-! A block's own fetch (R470) and the block test (R471). -/

/-- A block's entry in the image manifest (Table 17-11), where the manifest is in force. -/
def State.manifest (s : State) (n : Nat) : List Byte := ((s.setBody 0x0030).drop (64 + 48 * n)).take 48

/-- Does a block fetch at a warm start? -/
def State.fetches (s : State) (n : Nat) : Bool :=
  let e := s.manifest n
  (fld e 0 1 == 2 || fld e 0 1 == 3) && bit (fld e 1 1) 0

/-- A failed check leaves instruction memories and descriptors undefined (R163). -/
def Block.badFetch (b : Block) (k : Nat) : Block :=
  { b with
    st := .idle, kept := []
    imA := (List.range 4096).map (fun i => ⟨Config.lost k (1000 + i) % 2 ^ 64, Config.lost k (6000 + i) % 4⟩)
    imX := (List.range 4096).map (fun i => ⟨Config.lost k (11000 + i) % 2 ^ 64, Config.lost k (16000 + i) % 4⟩)
    descs := (List.range 256).map (fun i => Config.lost k i % 2 ^ 512) }

/-- A block fetches its image (R470), once in each warm start. -/
def State.fetchImage (s : State) (n : Nat) : State :=
  let e := s.manifest n
  let (sp, len, a) := (fld e 0 1, fld e 4 4, fld e 8 8)
  if s.boot.boot ≠ 9 || s.boot.fetched.contains n || !(s.fetches n) || !s.coreUp then s
  else
    let s1 := { s with boot := { s.boot with fetched := s.boot.fetched ++ [n] } }
    let fail (t : State) (cause : Nat) : State := t.emit 0x0106 lvBlock n cause 0
    if (s.region (n / 36)).st = .off || !(extentOk sp 0 a len) || s.gateAt sp 0 a len = .refused then fail s1 1
    else if s.gateAt sp 0 a len = .wait then s.wakeAt sp 0 a len
    else
      let got := s.readAt n sp 0 a len
      let bs := got.map Prod.fst
      let s2 := s1.touchAt n clsLC sp 0 a len
      if got.any Prod.snd then fail s2 1
      else
        let cause := if Config.sm3 bs ≠ fld e 16 32 then 2 else if imageStatus bs ≠ stOk then 3 else 0
        if cause = 0 then s2.loadBlocks [n] bs (fld e 16 32)
        else
          let k := s2.freeN
          fail (({ s2 with freeN := k + 1 }).updBlock n (fun b => b.badFetch k)) cause

def execBlockFetch (b : Nat) (s : State) : Res := onUnit (b < 144) (s.fetchImage b)

/-- Does the manifest ask for the block test (Table 17-11)? -/
def State.testSet (s : State) : Bool := bit (fld (s.setBody 0x0030) 2 1) 0

/-- The block test of a cold start (R471), as one event: `fails` are the blocks that fail and their tests. It leaves every
region OFF and the chip in C1. -/
def State.blockTest (s : State) (fails : List (Nat × Nat)) : State :=
  if (s.boot.boot = 6 || s.boot.boot = 7) && s.testSet && !(s.boot.fetched.contains numBlocks) && s.coreUp then
    fails.foldl (fun t x => t.emit 0x0107 lvBlock x.1 x.2 0)
      { s with boot := { s.boot with fetched := s.boot.fetched ++ [numBlocks] } }
  else s

def execBlockTest (fails : List (Nat × Nat)) (s : State) : Res :=
  onUnit (fails.all (fun x => x.1 < 144)) (s.blockTest fails)

end Sys2Proof.Machine
end

