-- ==== Sys2Proof/Machine/Flash.lean ====
section
/-! DEFINITION. Serial flash: directory, firmware slots, settings blocks; the start-up stages that read them, and the firmware
and settings commands (R431, R433 to R435, R437, R459 to R462, R505 to R508, R516). -/

namespace Sys2Proof.Machine

/-! Layout (Tables 17-3 to 17-6). -/

def Flash.read (f : Flash) (off n : Nat) : List Byte := f.mem.raw off n
def Flash.write (f : Flash) (off : Nat) (bs : List Byte) : Flash := { f with mem := f.mem.put off bs }

/-- A device is usable (R459). -/
def Flash.usable (f : Flash) : Bool :=
  match f.sfdp with
  | some x => x.sign == 0x50444653 && x.octal && decide (x.density ≥ 1)
  | none => false

/-- A device is shorted: its signature reads as all 0x00 or all 0xFF bytes (R460). -/
def Flash.shorted (f : Flash) : Bool :=
  match f.sfdp with
  | some x => x.sign == 0 || x.sign == 0xFFFFFFFF
  | none => false

/-- A directory copy where it is valid (Table 17-4). -/
def Flash.dirCopy (f : Flash) (c : Nat) : Option (List Byte) :=
  let d := f.read (4096 * c) 96
  if fld d 0 4 = 0x4C46544B && fld d 64 32 = Config.sm3 (d.take 64) then some d else none

/-- The directory copy that governs: the valid one with the higher COUNT. -/
def Flash.dir (f : Flash) : Option (Nat × List Byte) :=
  match f.dirCopy 0, f.dirCopy 1 with
  | some a, some b => if fld b 8 8 > fld a 8 8 then some (1, b) else some (0, a)
  | some a, none => some (0, a)
  | none, some b => some (1, b)
  | none, none => none

/-- The copy that does not govern written, and only then in force: ACTIVE and the current-copy map replaced, COUNT raised. -/
def Flash.putDir (f : Flash) (active map : Nat) : Flash :=
  let (c, n) := match f.dir with | some (g, d) => (1 - g, fld d 8 8 + 1) | none => (0, 1)
  let head := toLE 4 0x4C46544B ++ toLE 1 active ++ [0] ++ toLE 2 1 ++ toLE 8 n ++ toLE 16 0 ++ toLE 32 map
  f.write (4096 * c) (head ++ toLE 32 (Config.sm3 head))

def Flash.active (f : Flash) : Nat := match f.dir with | some (_, d) => fld d 4 1 % 2 | none => 0
def Flash.curMap (f : Flash) : Nat := match f.dir with | some (_, d) => fld d 32 32 | none => 0

/-- Offset of a firmware slot, and of a copy of a settings block (Table 17-3). -/
def slotOff (k : Nat) : Nat := if k = 0 then 0x00100000 else 0x02100000
def setOff (i c : Nat) : Nat := 0x04100000 + (2 * i + c) * 0x8000

/-- A firmware image passes (R460): magic, length, body hash, vendor signature, security version. -/
def Flash.fwOk (f : Flash) (slot minSec : Nat) : Bool :=
  let h := f.read (slotOff slot) 256
  let n := fld h 16 4
  fld h 0 4 == 0x5746544B && decide (n ≤ 2 ^ 24 - 256)
    && fld h 32 32 == Config.sm3 (f.read (slotOff slot + 256) n)
    && Config.sm2Verify Config.vendorKey (Config.sm3 (h.take 64)) (fld h 64 64) && decide (fld h 20 4 ≥ minSec)

/-- The current copy of a settings block: header and body; nothing where it was never written (all bytes of the header
alike, log entry 35). -/
def Flash.setting (f : Flash) (i : Nat) : Option (List Byte) :=
  let o := setOff i (b2n (bit f.curMap i))
  let h := f.read o 128
  if h.all (fun b => b == 0) || h.all (fun b => b == 255) then none else some (h ++ f.read (o + 128) (min 32640 (fld h 8 4)))

/-! Checking settings (R461, R505 to R508, Table 19-4). -/

/-- Does a settings block pass its check? `bs` is header and body. -/
def State.setOk (s : State) (i : Nat) (bs : List Byte) : Bool :=
  let body := bs.drop 128
  let dig := Config.sm3 (bs.take 48)
  let sig := fld bs 48 64
  let basic := fld bs 0 2 == i && fld bs 8 4 == body.length && decide (body.length ≤ 32640) && fld bs 16 32 == Config.sm3 body
  basic &&
    (if i = 1 || i = 2 then Config.sm2Verify (Config.sm2Public s.sec.ident) dig sig
     else if i = 4 then Config.certOk body (Config.sm2Public s.sec.ident)
     else if s.sec.fuses.lc = 0 then true
     else
       match s.sec.owner with
       | some k => Config.sm2Verify k dig sig
       | none => s.sec.fuses.lc != 2)

/-- The device that the running firmware came from, and the other. -/
def State.devs (s : State) : List Nat := let d := s.boot.dev.getD 0; [d, 1 - d]

def State.flashAt (s : State) (d : Nat) : Flash := s.sec.flash.getD d ⟨none, Mem.empty⟩

def State.setFlash (s : State) (d : Nat) (f : Flash → Flash) : State := { s with sec := { s.sec with flash := updAt s.sec.flash d f } }

/-- Both devices written, the running one first; with the other not usable, FLASH_SINGLE (R462). -/
def State.flashBoth (s : State) (f : Flash → Flash) : State :=
  let (a, b) := (s.boot.dev.getD 0, 1 - s.boot.dev.getD 0)
  let s1 := s.setFlash a f
  if (s1.flashAt b).usable then s1.setFlash b f else s1.emit 0x0607 lvThallus 0 0 0

/-- A settings block written to the copy that is not current, which then becomes current (R435, R462). -/
def Flash.putSetting (slot i : Nat) (bs : List Byte) (f : Flash) : Flash :=
  let c := 1 - b2n (bit f.curMap i)
  (f.write (setOff i c) bs).putDir (if f.dir.isSome then f.active else slot) (f.curMap ^^^ 2 ^ i)

/-- A settings block comes into force. -/
def State.inForce (s : State) (i : Nat) (bs : List Byte) : State :=
  let rest := s.sec.sets.filter (fun x => x.1 != i)
  { s with sec := { s.sec with
      sets := rest.filter (fun x => decide (x.1 < i)) ++ [(i, bs)] ++ rest.filter (fun x => decide (x.1 > i)) } }

/-- A record that the part signs with its identity key (R461, R508), written and in force. -/
def State.putOwn (s : State) (i : Nat) (body : List Byte) : State :=
  let old := match s.sec.sets.find? (fun x => x.1 == i) with | some x => fld x.2 4 4 | none => 0
  let head := toLE 2 i ++ [1, 0] ++ toLE 4 (old + 1) ++ toLE 4 body.length ++ toLE 4 0 ++ toLE 32 (Config.sm3 body)
  let (k, s1) := (s.freeN, { s with freeN := s.freeN + 1 })
  let bs := head ++ toLE 64 (Config.sm2Sign s.sec.ident (Config.sm3 head) k) ++ toLE 16 0 ++ body
  (s1.flashBoth (Flash.putSetting s.boot.slot i bs)).inForce i bs

/-- The security record's body (log entry 36): owner key, AUTH_CTR, last state wiped, whether a key is installed. -/
def State.secBody (s : State) : List Byte :=
  toLE 64 (s.sec.owner.getD 0) ++ toLE 4 s.sec.authCtr ++ toLE 1 s.sec.lastLc ++ toLE 1 (b2n s.sec.owner.isSome)

def State.putSecRecord (s : State) : State := s.putOwn 2 s.secBody

/-- The grade record's body (log entry 36): the vector-block map, and the grade-downs made in service. -/
def State.gradeBody (s : State) : List Byte := toLE 18 s.sec.vmap ++ toLE 2 s.sec.downs

/-! Start-up stages 3 to 5 (R459 to R461). -/

/-- Do the start-up stages run on this part now? -/
def State.stage (s : State) (n : Nat) : Bool := s.boot.boot == n && s.coreUp && !s.boot.halted && !s.pwr.clkOff

/-- A part that cannot go on halts; where Thallus runs from ROM it logs BOOT_HALT (R457). -/
def State.halt (s : State) (n : Nat) (rom : Bool) : State :=
  let s1 := { s with boot := { s.boot with boot := n, ready := false } }
  if rom then s1.logEvent ⟨0x0605, lvThallus, 0, n, 0, s.now⟩ else s1.summarise 1 false

/-- Why a device is passed over at discovery (R460): 1 absent or unusable, 2 shorted, 3 no valid directory (log entry 37). -/
def Flash.bad (f : Flash) : Option Nat :=
  if f.shorted then some 2 else if !f.usable then some 1 else if f.dir.isNone then some 3 else none

/-- Stage 3. -/
def State.discover (s : State) (f0 f1 : Sfdp) : State :=
  if s.stage 3 then
    let s1 := (s.setFlash 0 (fun f => { f with sfdp := some f0 })).setFlash 1 (fun f => { f with sfdp := some f1 })
    let cand := [0, 1].filter (fun d => (s1.flashAt d).bad.isNone)
    if cand.isEmpty then s1.halt 14 true
    else { s1 with boot := { s1.boot with boot := 4, cand := cand, fall := (s1.flashAt 0).bad } }
  else s

def execFlashDiscovery (f0 f1 : Sfdp) (s : State) : Res := .next (s.discover f0 f1)

/-- Stage 4: the first device whose ACTIVE slot passes. -/
def State.fwVerify (s : State) : State :=
  if s.stage 4 then
    match s.boot.cand.find? (fun d => (s.flashAt d).fwOk (s.flashAt d).active s.sec.fuses.minSec) with
    | none => s.halt 14 true
    | some d =>
      let f := s.flashAt d
      let fall := match s.boot.fall with | some c => some c | none => if d = 1 then some 4 else none
      let s1 := { s with boot := { s.boot with
        boot := 5, dev := some d, slot := f.active, hdr := f.read (slotOff f.active) 256, fall := none } }
      match fall with
      | some c => s1.emit 0x0606 lvThallus 0 c 0
      | none => s1
  else s

def execFirmwareVerify (s : State) : Res := .next s.fwVerify

/-- One settings block checked at stage 5: in force, or treated as absent and logged. -/
def State.takeSetting (s : State) (f : Flash) (i : Nat) : State :=
  match f.setting i with
  | none => s
  | some bs => if s.setOk i bs then s.inForce i bs else s.emit 0x0608 lvThallus 0 i 0

/-- What the security record, the grade record and the clock record set (R437, R461, R508). -/
def State.applySettings (s : State) : State :=
  let g := s.setBody 1
  let c := s.setBody 0x0010
  let w := if c.length ≥ 8 then fld c 0 8 else clkDefault
  let s1 := { s with
    pwr := { s.pwr with clkRec := w, sp := (bits w 16 8, bits w 12 4) }
    sec := { s.sec with vmap := s.sec.fuses.vmap ||| fld g 0 18, downs := fld g 18 2 } }
  if g.isEmpty then s1.emit 0x0109 lvThallus 0 0 0 else s1

/-- The security record read first, for the owner key that checks the others (Table 19-1). -/
def State.takeSecRecord (s : State) (f : Flash) : State :=
  let s1 := s.takeSetting f 2
  let b := s1.setBody 2
  { s1 with sec := { s1.sec with
      owner := if fld b 69 1 = 1 then some (fld b 0 64) else none, authCtr := fld b 64 4, lastLc := fld b 68 1 } }

/-- Stage 5: settings verified and applied; then training, or the warm fast path. A restart of Thallus keeps what is in force
(R435, R461, log entry 38). -/
def State.setVerify (s : State) : State :=
  if s.stage 5 then
    if s.boot.restart then { s with boot := { s.boot with boot := 8 } }
    else
      let f := s.flashAt (s.boot.dev.getD 0)
      let s1 := ({ s with sec := { s.sec with sets := [] } }).takeSecRecord f
      let s2 := (((List.range 256).filter (fun i => i != 2)).foldl (fun t i => t.takeSetting f i) s1).applySettings
      let s3 := { s2 with boot := { s2.boot with boot := if s.boot.warm then 9 else 6, stageAt := s.now, fetched := [] } }
      { s3 with fab := { s3.fab with links := s3.fab.links.map (fun (k : Link) =>
          if k.st = .up || k.st = .standby || !k.cable then k
          else { k with st := .training, goal := .up, gate := false, tries := 0, full := k.full || !s.boot.warm }) } }
  else s

def execSettingsVerify (s : State) : Res := .next s.setVerify

/-! Firmware and settings commands (R433 to R435). -/

/-- FW_STAGE (R434). -/
def State.fwStage (dma : Option (List Byte)) (s : State) (c : Cmd) : State :=
  let len := fld c.pars 0 4
  let k := 1 - s.boot.slot
  let failed (t : State) : State := { t with sec := { t.sec with staged := 2 } }
  if fld c.pars 8 8 % 64 ≠ 0 || len > 2 ^ 25 then s.answer c.m stParam []
  else
    match dma with
    | none => (failed s).dmaErr c.m
    | some got =>
      let s1 := s.flashBoth (fun f => f.write (slotOff k) (fitTo len got))
      let f := s1.flashAt (s1.boot.dev.getD 0)
      if f.fwOk k s1.sec.fuses.minSec then
        ({ s1 with sec := { s1.sec with staged := 1 } }).ok c.m (f.read (slotOff k + 4) 8)
      else (failed s1).answer c.m stParam []

def execFwStage (m : Nat) (dma : Option (List Byte)) (s : State) : Res :=
  onUnit (m < 16) (s.cmdRow m 0x0C00 (State.fwStage dma))

/-- FW_SWITCH (R396, R434): the staged slot verified again, the directories written, and Thallus restarted from ROM. -/
def State.fwSwitch (s : State) (c : Cmd) : State :=
  let k := 1 - s.boot.slot
  let f := s.flashAt (s.boot.dev.getD 0)
  if s.sec.staged ≠ 1 then s.answer c.m stState []
  else if !(f.fwOk k s.sec.fuses.minSec) then s.answer c.m stParam []
  else if fld (f.read (slotOff k) 256) 12 1 ≠ fld s.boot.hdr 12 1 && !(bit (fld c.pars 0 1) 0) then s.answer c.m stVersion []
  else
    let s1 := s.flashBoth (fun g => g.putDir k g.curMap)
    { s1 with boot := { s1.boot with boot := 2, restart := true, ready := false, switching := true, mbxAbort := 0 } }

def execFwSwitch (m : Nat) (s : State) : Res := onUnit (m < 16) (s.cmdRow m 0x0C01 State.fwSwitch)

/-- SET_READ (R435). -/
def State.setRead (dmaOk : Bool) (s : State) (c : Cmd) : State :=
  let (i, len, a) := (fld c.pars 0 2, fld c.pars 4 4, fld c.pars 8 8)
  match (if i < 256 then (s.flashAt (s.boot.dev.getD 0)).setting i else none) with
  | none => s.answer c.m stParam []
  | some bs =>
    if len > bs.length || a % 64 ≠ 0 || (a = 0 && len > 4064) then s.answer c.m stParam []
    else if a = 0 then s.ok c.m (bs.take len)
    else if !dmaOk then s.dmaErr c.m
    else ({ s with out := s.out ++ [Out.hostWrite a (bs.take len) false] }).ok c.m []

def execSetRead (m : Nat) (dmaOk : Bool) (s : State) : Res := onUnit (m < 16) (s.cmdRow m 0x0C02 (State.setRead dmaOk))

/-- Does a clock settings record lie in its ranges (R437)? -/
def clkOk (w : Nat) : Bool :=
  let n (lo k : Nat) : Nat := bits w lo k
  let okN (v : Nat) : Bool := decide (80 ≤ v) && decide (v ≤ 120)
  okN (n 48 8) && okN (n 28 8) && okN (n 16 8)
    && n 44 4 != 0 && n 40 4 != 0 && n 36 4 != 0 && n 24 4 != 0 && n 12 4 != 0 && decide (n 8 4 ≥ 4)
    && decide (50 * n 48 8 ≤ 2700 * n 44 4) && decide (50 * n 48 8 ≤ 1350 * n 40 4) && decide (50 * n 48 8 ≤ 1800 * n 36 4)
    && decide (50 * n 28 8 ≤ 1800 * n 24 4) && decide (50 * n 16 8 ≤ 1250 * n 12 4)

/-- SET_WRITE (R435, R437, R507, R508). -/
def State.setWrite (dma : Option (List Byte)) (s : State) (c : Cmd) : State :=
  let len := fld c.pars 0 4
  if fld c.pars 8 8 % 64 ≠ 0 || len < 128 || len > 32768 then s.answer c.m stParam []
  else
    match dma with
    | none => s.dmaErr c.m
    | some got =>
      let bs := fitTo len got
      let i := fld bs 0 2
      let old := match (s.flashAt (s.boot.dev.getD 0)).setting i with | some o => fld o 4 4 | none => 0
      if i > 255 || fld bs 8 4 ≠ len - 128 then s.answer c.m stParam []
      else if i = 1 || i = 2 || (i = 4 && s.sec.fuses.lc ≠ 0) then s.answer c.m stDenied []
      else if !(s.setOk i bs) || (i = 0x0010 && !(len ≥ 136 && clkOk (fld bs 128 8))) then s.answer c.m stParam []
      else if fld bs 4 4 ≤ old then s.answer c.m stDenied []
      else
        let s1 := s.flashBoth (Flash.putSetting s.boot.slot i bs)
        let live := bit (fld bs 2 1) 0
        (if live then s1.inForce i bs else s1).ok c.m (toLE 2 i ++ toLE 1 (b2n live) ++ [0])

def execSetWrite (m : Nat) (dma : Option (List Byte)) (s : State) : Res :=
  onUnit (m < 16) (s.cmdRow m 0x0C03 (State.setWrite dma))

/-! Grade (R404, R431, R501). -/

def State.arrays (s : State) : Nat := 144 - popcount 144 s.sec.vmap

/-- The grade (R404). -/
def State.grade (s : State) : Nat :=
  let n := s.arrays
  if n ≥ 144 then 144 else if n ≥ 136 then 136 else if n ≥ 128 then 128 else 0

def State.gradeRec (s : State) : List Byte :=
  toLE 2 s.arrays ++ toLE 2 s.grade ++ toLE 18 s.sec.vmap ++ toLE 2 s.sec.downs

/-- BLK_GRADE_DOWN. -/
def State.gradeDown (s : State) (c : Cmd) : State :=
  let n := fld c.pars 0 2
  if n ≥ numBlocks then s.answer c.m stParam []
  else if (s.block n).st = .running || s.vecBlock n || s.darkBlock n then s.answer c.m stState []
  else
    let s1 := { s with sec := { s.sec with vmap := s.sec.vmap ||| (1 <<< n), downs := s.sec.downs + 1 } }
    let s2 := (s1.putOwn 1 s1.gradeBody).emit 0x0108 lvBlock n s1.grade 0
    s2.ok c.m s2.gradeRec

def execBlkGradeDown (m : Nat) (s : State) : Res := onUnit (m < 16) (s.cmdRow m 0x0A03 State.gradeDown)

end Sys2Proof.Machine
end

