-- ==== Sys2Proof/Machine/FabCmd.lean ====
section
/-! DEFINITION. The device, fabric and time commands (R403 to R405, R418 to R423, R340, R341, R366, R494). -/

namespace Sys2Proof.Machine

/-! Device (Table 15-2). -/

/-- DEV_IDENTIFY. -/
def State.devIdentify (s : State) (c : Cmd) : State :=
  s.ok c.m (toLE 16 s.sec.fuses.serial ++ toLE 2 0x0302 ++ toLE 2 Config.stepping ++ toLE 2 s.fab.node
    ++ toLE 1 s.sec.fuses.lc ++ toLE 1 s.boot.slot ++ toLE 32 (Config.sm3 (Config.certDevice (s.setBody 4))) ++ toLE 8 0)

def execDevIdentify (m : Nat) (s : State) : Res := onUnit (m < 16) (s.cmdRow m 0x0100 State.devIdentify)

/-- DEV_GRADE. -/
def State.devGrade (s : State) (c : Cmd) : State := s.ok c.m s.gradeRec

def execDevGrade (m : Nat) (s : State) : Res := onUnit (m < 16) (s.cmdRow m 0x0101 State.devGrade)

/-- DEV_FW_VERSION. -/
def State.devFw (s : State) (c : Cmd) : State :=
  let f := s.flashAt (s.boot.dev.getD 0)
  s.ok c.m (toLE 4 Config.romVersion ++ f.read (slotOff 0 + 4) 8 ++ f.read (slotOff 1 + 4) 8 ++ toLE 1 s.boot.slot
    ++ toLE 1 s.sec.staged ++ toLE 1 s.linkVer.1 ++ toLE 1 s.linkVer.2 ++ toLE 2 (fld s.boot.hdr 14 2) ++ toLE 6 0)

def execDevFwVersion (m : Nat) (s : State) : Res := onUnit (m < 16) (s.cmdRow m 0x0102 State.devFw)

/-- DEV_HEARTBEAT (R405): SILENT is held against the period that will apply. -/
def State.devHeartbeat (s : State) (c : Cmd) : State :=
  let (p, q, a) := (fld c.pars 0 4, fld c.pars 4 4, fld c.pars 8 8)
  let period := if p = 0 then s.host.hbNext else p
  if p > 1000 || a % 16 ≠ 0 || (q ≠ 0 && q < period) then s.answer c.m stParam []
  else
    ({ s with host := { s.host with hbNext := period, silent := q, hbAddr := a, silentDone := false } }).ok c.m
      (toLE 4 s.host.hbNext ++ toLE 4 s.host.silent)

def execDevHeartbeat (m : Nat) (s : State) : Res := onUnit (m < 16) (s.cmdRow m 0x0103 State.devHeartbeat)

/-! Fabric (Table 15-6). -/

/-- FAB_PROFILE (R321, R420): overrides end (R494). -/
def State.fabProfile (s : State) (c : Cmd) : State :=
  let i := fld c.pars 0 1
  let rec_ := ((s.setBody 0x0011).drop (64 * i)).take 64
  if s.fab.slice ≠ 0 then s.answer c.m stState []
  else if i > 15 || rec_.length < 64 || !(profOk (ofLE rec_)) then s.answer c.m stParam []
  else
    let h := Config.sm3 rec_
    ({ s with fab := { s.fab with profile := some ⟨ofLE rec_, h⟩, overs := [], dirLost := [] } }).ok c.m (toLE 32 h)

def execFabProfile (m : Nat) (s : State) : Res := onUnit (m < 16) (s.cmdRow m 0x0600 State.fabProfile)

/-- A link record (Table 15-7). Last the FEC code words corrected in the last second, which no command brings (log entry 19). -/
def Link.record (now : Nat) (k : Link) : List Byte :=
  let (node, port, major, minor) := match k.ident with
    | some i => (i.node, i.port, i.major, i.minor)
    | none => (0xFFFF, 0, 0, 0)
  toLE 1 k.st.code ++ toLE 1 k.lanes ++ toLE 2 node ++ toLE 1 port ++ toLE 1 major ++ toLE 1 minor ++ [0] ++ toLE 4 k.delay
    ++ toLE 4 (min 0xFFFFFFFF (k.fecAt.filter (lastSecond now)).length)

/-- FAB_LINK_STATUS. -/
def State.linkStatus (s : State) (c : Cmd) : State :=
  let map := fld c.pars 0 8
  if !(mapOk numLinks 8 map) then s.answer c.m stParam []
  else
    s.ok c.m ((bitsOf numLinks map).flatMap (fun l => (s.link l).record s.now))

def execFabLinkStatus (m : Nat) (s : State) : Res := onUnit (m < 16) (s.cmdRow m 0x0601 State.linkStatus)

/-- NEXT and SEQ of every pair 0 and no LOST mark; CSEQ of every axis collective unit 0 (R340, R349). -/
def FabS.freshPairs (f : FabS) : FabS :=
  { f with
    endps := f.endps.map (fun e => { e with
      pairs := e.pairs.map (fun p => { p with seq := 0, retry := 0, lost := false, next := 0, unack := 0, since := none }) })
    acus := f.acus.map (fun a => { a with cseq := 0, past := [] }) }

/-- FAB_SLICE_SET (R340, R420). -/
def State.sliceSet (s : State) (c : Cmd) : State :=
  let boxes := (List.range 8).map (fun a => fld c.pars (4 + 2 * a) 2)
  let f := { s.fab with slice := fld c.pars 0 1, box := boxes.map (fun b => b % 2 ^ 12) }
  let p := s.fab.prof
  if s.fab.profile.isNone || s.fab.slice ≠ 0 || s.anyRunning then s.answer c.m stState []
  else if f.slice = 0
      || (List.range 8).any (fun a =>
        if profDef p a then decide (f.lo a ≥ profSize p a) || decide (f.len a > profSize p a) else boxes.getD a 0 % 2 ^ 12 != 0)
      || !(f.coordsIn f.here) then s.answer c.m stParam []
  else
    let s1 := { s with fab := { f.freshPairs with dirLost := [] }, sec := { s.sec with setAt := s.now } }
    s1.dirCheck.ok c.m []

def execFabSliceSet (m : Nat) (s : State) : Res := onUnit (m < 16) (s.cmdRow m 0x0602 State.sliceSet)

/-- FAB_SLICE_CLEAR (R340): buffered packets and held copies are discarded. -/
def State.sliceClear (s : State) (c : Cmd) : State :=
  if s.anyRunning then s.answer c.m stState []
  else
    let f := (s.freeSlots s.fab.holders).fab.freshPairs
    let f1 := { f with
      slice := 0, transit := false, box := List.replicate 8 0, dirLost := [], ctrlq := [], castq := [], acks := []
      links := f.links.map (fun k => { k with tx := [] })
      endps := f.endps.map (fun e => { e with
        outq := [], inq := [], resps := [], errs := [], reqs := []
        pairs := e.pairs.map (fun p => { p with kept := [], msg := none }) })
      acus := f.acus.map (fun a => { a with colls := [], inq := [] }) }
    ({ s with fab := f1, sec := { s.sec with clearAt := s.now, wiped := false } }).ok c.m []

def execFabSliceClear (m : Nat) (s : State) : Res := onUnit (m < 16) (s.cmdRow m 0x0603 State.sliceClear)

/-- The axis and direction that an observed neighbour implies: it is adjacent on exactly one defined axis and faces back
along it (R494). -/
def FabS.implied (f : FabS) (i : Ident) : Option (Nat × Nat) :=
  let axes := (List.range 8).filter (fun a =>
    profDef f.prof a && (f.neighbour a 0 == i.node || f.neighbour a 1 == i.node))
  match axes with
  | [a] => if i.axis = a && i.dir < 2 && f.neighbour a (1 - i.dir) = i.node then some (a, 1 - i.dir) else none
  | _ => none

/-- FAB_ACCEPT_WIRING (R421, R494). -/
def State.acceptWiring (s : State) (c : Cmd) : State :=
  let n := fld c.pars 0 1
  let held := ((List.range 4).map (fun i => s.link (4 * n + i))).filter (fun k => k.st == .miswired)
  if n > 15 then s.answer c.m stParam []
  else
    match held with
    | [] => s.answer c.m stState []
    | k :: _ =>
      match k.ident with
      | none => s.answer c.m stParam []
      | some i =>
        if i.node ≠ fld c.pars 2 2 || i.port ≠ fld c.pars 4 1 then s.answer c.m stParam []
        else
          match s.fab.implied i with
          | none => s.answer c.m stParam []
          | some (a, d) =>
            let s1 := { s with fab := { s.fab with overs := s.fab.overs.filter (fun (o : Nat × Nat × Nat) => o.1 != n) ++ [(n, a, d)] } }
            ((s1.emit 0x020D lvLink (4 * n) (n + 65536 * a + 2 ^ 32 * d) 0).dirCheck).ok c.m []

def execFabAcceptWiring (m : Nat) (s : State) : Res := onUnit (m < 16) (s.cmdRow m 0x0604 State.acceptWiring)

/-- FAB_RETRAIN_LINK begins (R421): the link leaves UP and its trainer starts. -/
def State.retrain (s : State) (c : Cmd) : State :=
  let l := fld c.pars 0 1
  let k := s.link l
  if l > 63 then s.answer c.m stParam []
  else if k.st = .off then s.answer c.m stState []
  else if k.st = .training then s.answer c.m stBusy []
  else
    ((s.updLink l (fun k => { k with
      st := .training, goal := .up, gate := false, tries := 0, full := k.stored.isNone, retrain := some c.m
      sample := none })).keep c.m [s.now, 0]).dirCheck

def execFabRetrainLink (m : Nat) (s : State) : Res := onUnit (m < 16) (s.cmdRow m 0x0605 State.retrain)

/-- Its end: the trainer's verdict (Table 15-6). -/
def State.retrainEnd (s : State) (c : Cmd) : Option (Nat × List Byte) :=
  let k := s.link (fld c.pars 0 1)
  if k.st = .training then none
  else some (stOk, toLE 1 k.st.code ++ toLE 3 0 ++ toLE 4 (cdiv (s.now - c.keep.getD 0 0) 100) ++ toLE 8 (c.keep.getD 1 0))

/-- FAB_TRANSIT_ONLY (R341, R418). -/
def State.transitOnly (s : State) (c : Cmd) : State :=
  let t := fld c.pars 0 1
  if t > 1 then s.answer c.m stParam []
  else if s.fab.slice = 0 || s.anyRunning || s.stks.any Stack.trigOut then s.answer c.m stState []
  else ({ s with fab := { s.fab with transit := t == 1 } }).ok c.m []

def execFabTransitOnly (m : Nat) (s : State) : Res := onUnit (m < 16) (s.cmdRow m 0x0606 State.transitOnly)

/-! Time (Table 15-8). -/

/-- STC_READ (R422). -/
def State.stcRead (s : State) (c : Cmd) : State :=
  s.ok c.m (toLE 8 s.now ++ toLE 4 s.time.stc ++ toLE 1 s.time.state ++ toLE 3 0 ++ toLE 8 s.time.epochHost
    ++ toLE 8 s.time.epochStc)

def execStcRead (m : Nat) (s : State) : Res := onUnit (m < 16) (s.cmdRow m 0x0700 State.stcRead)

/-- The epoch recorded (R366). -/
def State.epoch (s : State) (c : Cmd) : State :=
  { s with time := { s.time with epochHost := fld c.pars 8 8, epochStc := fld c.pars 16 8 } }

/-- STC_SET_EPOCH without SEED. -/
def execStcSetEpoch (m : Nat) (s : State) : Res :=
  onUnit (m < 16) (s.cmdRowIf m 0x0701 (fun c => !(bit (fld c.pars 0 1) 0)) (fun t c => (t.epoch c).ok c.m []))

/-- STC_SET_EPOCH with SEED (R366, R423). -/
def State.seed (s : State) (c : Cmd) : State :=
  if s.time.state ≠ 0 then s.answer c.m stState []
  else
    let s1 := s.epoch c
    ({ s1 with time := { s1.time with state := 2 } }).ok c.m []

def execStcSetEpochSeed (m : Nat) (s : State) : Res :=
  onUnit (m < 16) (s.cmdRowIf m 0x0701 (fun c => bit (fld c.pars 0 1) 0) State.seed)

/-- The armed deadlines of the kinds that `off` disables, disarmed (R423); mailbox `m` keeps its own. -/
def State.disarm (s : State) (off : Nat → Bool) (m : Nat) : State :=
  let s1 := if off 0 then { s with fab := { s.fab with acus := s.fab.acus.map (fun a => { a with
      colls := a.colls.map (fun c => { c with dl := none }) }) } } else s
  let trigs (f : Trig → Trig) (t : State) : State := { t with stks := t.stks.map (fun k => { k with
    sue := { k.sue with binds := k.sue.binds.map (fun b => { b with trig := b.trig.map f }) } }) }
  let s2 := if off 1 then trigs (fun t => { t with miss := true }) s1 else s1
  let s3 := if off 2 then trigs (fun t => if t.phase = .waiting then { t with noPin := true } else t) s2 else s2
  if off 3 then { s3 with host := { s3.host with runs := s3.host.runs.map (fun (c : Cmd) =>
    if c.m = m then c else { c with dl := 0 }) } } else s3

/-- DEADLINE_POLICY (R423). -/
def State.deadlinePolicy (s : State) (c : Cmd) : State :=
  let p := fld c.pars 0 1 % 16
  let s1 := { s with time := { s.time with policy := p } }
  (s1.disarm (fun k => bit s.time.policy k && !(bit p k)) c.m).ok c.m (toLE 4 s.time.policy)

def execDeadlinePolicy (m : Nat) (s : State) : Res := onUnit (m < 16) (s.cmdRow m 0x0702 State.deadlinePolicy)

end Sys2Proof.Machine
end

