-- ==== Sys2Proof/Machine/SueCmd.lean ====
section
/-! DEFINITION. The update commands (R277, R278, R287, R301, R310, R424, R425). -/

namespace Sys2Proof.Machine

/-! SUE_LOAD_RULE. -/

/-- The rule program of the command's parameters (Table 15-9, R287). -/
def ruleOf (p : List Byte) : Rule :=
  let bases := (List.range 4).map (fun i => fld p (200 + 8 * i) 8)
  { l := fld p 3 1
    words := (List.range 32).map (fun i => fld p (8 + 4 * i) 4)
    ks := (List.range 16).map (fun i => fld p (136 + 4 * i) 4)
    bases := bases
    tabs := bases.map powTable }

/-- An FP64 code is finite and positive. -/
def fp64Pos (c : Nat) : Bool := (fp64 c).finite && !(fp64 c).isZero && !(fp64 c).sign

/-- A rule put in its place. -/
def Sue.putRule (s : Sue) (n : Nat) (r : Rule) : Sue :=
  { s with rules := s.rules.filter (fun x => decide (x.1 < n)) ++ [(n, r)] ++ s.rules.filter (fun x => decide (x.1 > n)) }

/-- SUE_LOAD_RULE (R287, R425). -/
def State.loadRule (s : State) (c : Cmd) : State :=
  let map := fld c.pars 0 2
  let n := fld c.pars 2 1
  let l := fld c.pars 3 1
  let bases := (List.range 4).map (fun i => fld c.pars (200 + 8 * i) 8)
  if !(mapOk numStacks 2 map) || n > 15 || l = 0 || l > 32 || !(bases.all fp64Pos) then s.answer c.m stParam []
  else
    let named := bitsOf numStacks map
    let users := named.flatMap (fun k => (s.stack k).sue.binds.filter (fun b => b.ruleNo == n))
    let r := ruleOf c.pars
    if users.any (fun b => b.trig.isSome) then s.answer c.m stState []
    else if !(users.all (fun b => ruleOk r b.strs)) then s.answer c.m stParam []
    else
      (named.foldl (fun (t : State) k => t.updStack k (fun st => { st with sue := st.sue.putRule n r })) s).ok c.m []

def execSueLoadRule (m : Nat) (s : State) : Res := onUnit (m < 16) (s.cmdRow m 0x0800 State.loadRule)

/-! SUE_BIND_LAYER. -/

/-- A binding discarded from the SUE that holds it. -/
def State.dropBind (s : State) (layer : Nat) : State :=
  { s with stks := s.stks.map (fun (k : Stack) =>
      { k with sue := { k.sue with binds := k.sue.binds.filter (fun b => b.layer != layer) } }) }

/-- Does a binding hold a pin, or have a trigger that is not finished? -/
def Bind.inUse (b : Bind) : Bool := b.pin0 != 0 || b.pin1 != 0 || b.trig.isSome

/-- Room for one more binding (R278): `others` are those that the SUE would keep. -/
def bindRoom (others : List Bind) (b : Bind) : Bool :=
  decide (others.length < 1024) && (!b.rowsL || decide ((others.filter Bind.rowsL).length < 64))

/-- SUE_BIND_LAYER without UNBIND (R277, R278). -/
def State.bindLayer (s : State) (c : Cmd) : State :=
  let n := fld c.pars 0 1
  let b := Bind.ofBytes (c.pars.drop 8)
  let others := (s.stack n).sue.binds.filter (fun x => x.layer != b.layer)
  let ruleGood := match (s.stack n).sue.rule b.ruleNo with | some r => ruleOk r b.strs | none => false
  if n ≥ numStacks || bits b.hd 492 4 ≠ n || b.layer = 0xFFFF || !ruleGood || !(b.ok (others.flatMap Bind.extents)) then
    s.answer c.m stParam []
  else
    let old := (s.bindStack b.layer).bind (fun k => (s.stack k).sue.bind b.layer)
    if old.any Bind.inUse then s.answer c.m stState []
    else if !(bindRoom others b) then s.answer c.m stResource []
    else
      let k0 := s.bindStack b.layer
      let s1 := (s.dropBind b.layer).updStack n (fun k => { k with sue := { k.sue with binds := k.sue.binds ++ [b] } })
      let s2 := match k0 with | some k => s1.settle k | none => s1
      s2.ok c.m (toLE 16 b.record)

def execSueBindLayer (m : Nat) (s : State) : Res :=
  onUnit (m < 16) (s.cmdRowIf m 0x0801 (fun c => !(bit (fld c.pars 1 1) 0)) State.bindLayer)

/-- The binding that a command names by STACK and LAYER. -/
def State.named (s : State) (c : Cmd) : Option Bind :=
  if fld c.pars 0 1 < numStacks then (s.stack (fld c.pars 0 1)).sue.bind (fld c.pars 2 2) else none

/-- SUE_BIND_LAYER with UNBIND (R425). -/
def State.unbindLayer (s : State) (c : Cmd) : State :=
  match s.named c with
  | none => s.answer c.m stParam []
  | some b =>
    if b.inUse then s.answer c.m stState []
    else ((s.dropBind b.layer).settle (fld c.pars 0 1)).ok c.m (toLE 16 b.record)

def execSueUnbindLayer (m : Nat) (s : State) : Res :=
  onUnit (m < 16) (s.cmdRowIf m 0x0801 (fun c => bit (fld c.pars 1 1) 0) State.unbindLayer)

/-! SUE_VERSION_STATE and SUE_STATS_READ. -/

/-- Trigger state (Table 15-9). A trigger whose pass waits for its all-gather is still running. -/
def Bind.trigCode (b : Bind) (s : Sue) : Nat :=
  if b.faulted then 5
  else
    match b.trig with
    | none => 0
    | some t => match t.phase with
      | .queued => if s.heldT t then 2 else 1
      | .waiting => 3
      | _ => 4

/-- The deadline still armed, 0 when none. -/
def Bind.armed (b : Bind) : Nat :=
  match b.trig with
  | none => 0
  | some t => if (if t.phase = .waiting then t.noPin else t.miss) then 0 else t.dl.getD 0

/-- SUE_VERSION_STATE (R424). -/
def State.versionState (s : State) (c : Cmd) : State :=
  match s.named c with
  | none => s.answer c.m stParam []
  | some b =>
    let u := (s.stack (fld c.pars 0 1)).sue
    s.ok c.m (toLE 16 b.record ++ toLE 4 b.last ++ toLE 4 u.closed ++ toLE 1 (b.trigCode u) ++ toLE 1 (b2n b.rbOk) ++ toLE 6 0
      ++ toLE 8 b.armed)

def execSueVersionState (m : Nat) (s : State) : Res := onUnit (m < 16) (s.cmdRow m 0x0802 State.versionState)

/-- A command that needs a stack's bytes: it waits while the stack wakes, and ends FAULTED where the stack refuses (R24,
R468). -/
def State.withStack (s : State) (c : Cmd) (n : Nat) (f : State → State) : State :=
  match s.stackGate n with
  | .ok => f s
  | .wait => (s.wakeStack n).again c.m
  | .refused => s.answer c.m stFaulted []

/-- SUE_STATS_READ (R300, R425). -/
def State.statsRead (s : State) (c : Cmd) : State :=
  match s.named c with
  | none => s.answer c.m stParam []
  | some b =>
    let n := fld c.pars 0 1
    s.withStack c n (fun t =>
      (t.touchAt 0 clsBulk 4 n b.statsOff 64).ok c.m (((t.stack n).readP b.statsOff 64).map Prod.fst))

def execSueStatsRead (m : Nat) (s : State) : Res := onUnit (m < 16) (s.cmdRow m 0x0805 State.statsRead)

/-! SUE_SCALE_MODE and SUE_ROLLBACK. -/

/-- The parameters of R301 lie in their ranges (R301, R303, R425). -/
def State.scaleOk (s : State) (c : Cmd) : Bool :=
  let f (o n : Nat) : Nat := fld c.pars o n
  let offs := [f 8 8, f 16 8]
  decide (f 0 1 ≤ 1) && decide (f 2 1 ≤ f 1 1) && decide (f 1 1 ≤ f 3 1) && decide (f 3 1 ≤ 32) && decide (1 ≤ f 4 2)
    && f 24 4 != 0 && f 24 4 != 0xFFFFFFFF
    && offs.all (fun o => o % 8 == 0 && decide (o + 8 ≤ stackBytes)
        && s.stks.all (fun k => k.sue.binds.all (fun b => b.extents.all (apart (o, 8)))))
    && (f 0 1 == 0 || !s.fab.bigSlice)

/-- The parameters set on an SUE: the clean count starts again, and what was noted of steps under the old numbering goes. -/
def Sue.setScale (u : Sue) (p : List Byte) : Sue :=
  { u with
    mode := fld p 0 1, e := fld p 1 1, emin := fld p 2 1, emax := fld p 3 1, grow := fld p 4 2, clean := 0
    closed := fld p 24 4 - 1, stepOff := some (fld p 8 8), scaleOff := some (fld p 16 8), closing := none, nfSteps := [] }

/-- SUE_SCALE_MODE (R301, R303, R425). -/
def State.scaleMode (s : State) (c : Cmd) : State :=
  if !(s.scaleOk c) then s.answer c.m stParam []
  else if s.stks.any Stack.trigOut then s.answer c.m stState []
  else
    let s1 := { s with
      stks := s.stks.map (fun (k : Stack) => { k with sue := k.sue.setScale c.pars })
      fab := { s.fab with contrib := none } }
    s1.ok c.m (toLE 4 (s1.stack 0).sue.scaleCode ++ toLE 4 (fld c.pars 24 4 - 1))

def execSueScaleMode (m : Nat) (s : State) : Res := onUnit (m < 16) (s.cmdRow m 0x0803 State.scaleMode)

/-- SUE_ROLLBACK (R308, R310, R425). -/
def State.sueRollback (s : State) (c : Cmd) : State :=
  let n := fld c.pars 0 1
  let l := fld c.pars 2 2
  let all := (s.stack n).sue.binds
  let todo := if l = 0xFFFF then all.filter (fun b => b.rbOk) else all.filter (fun b => b.layer == l)
  if n ≥ numStacks || (l ≠ 0xFFFF && todo.isEmpty) then s.answer c.m stParam []
  else if todo.any (fun b => b.trig.isSome || !b.rbOk) then s.answer c.m stState []
  else
    s.withStack c n (fun t =>
      (t.putSue n (todo.foldl (fun k b => k.rollback t.now b.layer) (t.stack n))).ok c.m (toLE 4 todo.length))

def execSueRollback (m : Nat) (s : State) : Res := onUnit (m < 16) (s.cmdRow m 0x0804 State.sueRollback)

end Sys2Proof.Machine
end

