-- ==== Sys2Proof/Machine/TelFlt.lean ====
section
/-! DEFINITION. The telemetry and fault commands (R59, R426 to R430), and what a lockstep mismatch does (R485). -/

namespace Sys2Proof.Machine

/-! Telemetry. -/

/-- Units of a counter level, and bytes per unit (Table 15-11). -/
def telUnits : Nat → Nat
  | 0 => 144 | 1 => 4 | 2 => 12 | 3 => 64 | 4 => 2 | 5 => 8 | 6 => 1 | 7 => 1 | _ => 0

def telSize : Nat → Nat
  | 0 => 320 | 1 => 16 | 2 => 168 | 3 => 64 | 4 => 72 | 5 => 24 | 6 => 32 | 7 => 32 | _ => 0

/-- Counters of a unit, in order (Table 15-11). -/
def State.telCtrs (s : State) (level u : Nat) : List Nat :=
  match level with
  | 0 => (s.block u).ctr
  | 1 => (s.region u).ctr
  | 2 => (s.stack u).ctr
  | 3 => (s.link u).ctr
  | 4 => (s.endp u).noRoute :: (s.endp u).ctr
  | 5 => (s.acu u).ctr
  | _ => [s.time.outlier, s.time.dlMiss, s.host.ovf, s.host.late]

/-- Where the counts of a kind stand, 0 saturation, 1 flush, 2 non-finite: in a block, and in a stack (R55, Table 2-10). -/
def kindCtrs : Nat → List Nat
  | 0 => [2, 5, 8] | 1 => [0, 3, 6, 9] | _ => [1, 4, 7, 10]

/-- The counters that feed a chip sum (R59). -/
def State.fedBy (s : State) (kind : Nat) : List Nat :=
  s.blocks.flatMap (fun b => (kindCtrs kind).map (fun i => b.ctr.getD i 0)) ++ s.stks.map (fun k => k.ctr.getD (sNum + kind) 0)

/-- The chip sums (Table 15-11, level 7). -/
def State.chipSums (s : State) : List Byte :=
  [0, 1, 2].flatMap (fun k => toLE 8 (s.fedBy k).sum)
    ++ toLE 8 (maskOf ([0, 1, 2].filter (fun k => (s.fedBy k).any (fun c => c == cntMax))))

/-- A level, first unit and count name units of the part (R427). -/
def telOk (p : List Byte) (levels : Nat) : Bool :=
  let (l, f, n) := (fld p 0 1, fld p 2 2, fld p 4 2)
  decide (l < levels) && n != 0 && decide (f + n ≤ telUnits l)

/-- TEL_COUNTERS (R426, R427). -/
def State.telCounters (dmaOk : Bool) (s : State) (c : Cmd) : State :=
  let (l, f, n, a) := (fld c.pars 0 1, fld c.pars 2 2, fld c.pars 4 2, fld c.pars 8 8)
  if !(telOk c.pars 8) || a % 64 ≠ 0 || (a = 0 && n * telSize l > 4064) then s.answer c.m stParam []
  else
    let bs := if l = 7 then s.chipSums
      else (List.range n).flatMap (fun i => (s.telCtrs l (f + i)).flatMap (fun x => toLE 8 (ctrWord x)))
    if a = 0 then s.ok c.m bs
    else if !dmaOk then s.dmaErr c.m
    else ({ s with out := s.out ++ [Out.hostWrite a bs false] }).ok c.m []

def execTelCounters (m : Nat) (dmaOk : Bool) (s : State) : Res :=
  onUnit (m < 16) (s.cmdRow m 0x0900 (State.telCounters dmaOk))

/-- TEL_SENSORS (R428): temperatures as last sampled; voltages, current and power are what the board gives, free values. -/
def State.telSensors (s : State) (c : Cmd) : State :=
  let t16 (x : Int) : List Byte := toLE 2 (unsigned 16 x)
  let v (i : Nat) : Nat := Config.free (s.freeN + i)
  ({ s with freeN := s.freeN + 10 }).ok c.m
    (s.pwr.coreT.flatMap t16 ++ s.pwr.dieT.flatMap t16 ++ s.stks.flatMap (fun (k : Stack) => t16 k.temp) ++ toLE 2 0
      ++ (List.range 8).flatMap (fun i => toLE 2 (v i)) ++ toLE 2 (v 8) ++ toLE 2 0 ++ toLE 4 (v 9))

def execTelSensors (m : Nat) (s : State) : Res := onUnit (m < 16) (s.cmdRow m 0x0901 State.telSensors)

/-- Counters of a unit cleared (R57, R150, R314). -/
def State.telZero (s : State) (level u : Nat) : State :=
  let z (l : List Nat) : List Nat := l.map (fun _ => 0)
  match level with
  | 0 => s.updBlock u (fun b => { b with ctr := z b.ctr })
  | 1 => s.updRegion u (fun g => { g with ctr := z g.ctr })
  | 2 => s.updStack u (fun k => { k with ctr := z k.ctr })
  | 3 => s.updLink u (fun k => { k with ctr := z k.ctr })
  | 4 => s.updEndp u (fun e => { e with noRoute := 0, ctr := z e.ctr })
  | 5 => s.updAcu u (fun a => { a with ctr := z a.ctr })
  | _ => { s with
    time := { s.time with outlier := 0, dlMiss := 0 }
    host := { s.host with ovf := 0, late := 0 } }

/-- TEL_CLEAR (R427). -/
def State.telClear (s : State) (c : Cmd) : State :=
  if !(telOk c.pars 7) then s.answer c.m stParam []
  else
    ((List.range (fld c.pars 4 2)).foldl (fun t i => t.telZero (fld c.pars 0 1) (fld c.pars 2 2 + i)) s).ok c.m []

def execTelClear (m : Nat) (s : State) : Res := onUnit (m < 16) (s.cmdRow m 0x0902 State.telClear)

/-! Faults. -/

/-- The kept record of a unit's latest fault (R390, R430). -/
def State.faultRec (s : State) (level unit : Nat) : List Byte :=
  match s.latest.find? (fun x => x.1 == level && x.2.1 == unit) with
  | some x => toLE 64 (eventRec x.2.2.1 x.2.2.2)
  | none => toLE 64 0

/-- FLT_READ (R430). A block of a dark region is NOT_IN_STATE (R399). -/
def State.fltRead (s : State) (c : Cmd) : State :=
  let (l, u) := (fld c.pars 0 1, fld c.pars 2 2)
  if l = lvBlock && u < numBlocks && s.darkBlock u then s.answer c.m stState [] else s.ok c.m (s.faultRec l u)

def execFltRead (m : Nat) (s : State) : Res := onUnit (m < 16) (s.cmdRow m 0x0A00 State.fltRead)

/-- What FLT_CLEAR of a block answers: its state, once no pin request holds back its move to STOPPED (R271; log entry 131). -/
def State.clearAns (s : State) (u : Nat) : Option (List Byte) :=
  if (s.block u).clearing then none else some (toLE 4 (s.block u).st.code)

/-- FLT_CLEAR (R430). -/
def State.fltClear (s : State) (c : Cmd) : State :=
  let (l, u) := (fld c.pars 0 1, fld c.pars 2 2)
  let forget (t : State) : State := { t with latest := t.latest.filter (fun x => !(x.1 == l && x.2.1 == u)) }
  if l = lvBlock then
    if u ≥ numBlocks then s.answer c.m stParam []
    else if s.darkBlock u then s.answer c.m stState []
    else
      let s1 := forget (s.updBlock u Block.clearFault)
      match s1.clearAns u with
      | some bs => s1.ok c.m bs
      | none => s1
  else (forget s).ok c.m (toLE 4 0xFF)

def execFltClear (m : Nat) (s : State) : Res := onUnit (m < 16) (s.cmdRow m 0x0A01 State.fltClear)

/-- Units that a kind of injection can name (R430). -/
def injectUnits : Nat → Nat
  | 1 => 144 | 2 => 144 | 3 => 12 | 4 => 144 | 5 => 65536 | 6 => 64 | _ => 0

/-- One or two symbols of a word hit by errors: which symbols and bits is open, `v` chooses them. -/
def Mem.hit (m : Mem) (w : Nat) (two : Bool) (v : Nat) : Mem :=
  let k := v % 36
  let m1 := m.flip w k (1 + v / 36 % 255)
  if two then m1.flip w ((k + 1 + v / 9180 % 35) % 36) (1 + v / 321300 % 255) else m1

/-- One parity bit of an instruction word turned. -/
def hitWord (l : List IWord) (i : Nat) : List IWord :=
  updAt (l ++ List.replicate (i + 1 - l.length) ⟨0, 0⟩) i (fun x => { x with par := x.par ^^^ 1 })

/-- A fault of kinds 1 to 4 and 6 put into the part (R430); kind 5 follows the command's end. -/
def State.injectFault (s : State) (kind u arg : Nat) : State :=
  let (v, s1) := s.draw
  match kind with
  | 1 => s1.updBlock u (fun b => { b with arrInj := some (arg, v) })
  | 2 => s1.updBlock u (fun b => { b with spad := b.spad.hit (bits arg 0 21 / 32) (bit arg 32) v })
  | 3 => s1.updStack u (fun k => { k with mem := k.mem.hit (bits arg 0 63 / 32) (bit arg 63) v })
  | 4 => s.updBlock u (fun b =>
      if bit arg 12 then { b with imX := hitWord b.imX (bits arg 0 12) } else { b with imA := hitWord b.imA (bits arg 0 12) })
  | 6 => s.updLink u (fun k => { k with silent := some (s.now + 100 * arg) })
  | _ => s

/-- FLT_INJECT (R430, R504). -/
def State.fltInject (s : State) (c : Cmd) : State :=
  let (l, u, kind, arg) := (fld c.pars 0 1, fld c.pars 2 2, fld c.pars 4 2, fld c.pars 8 8)
  if u ≥ injectUnits kind || (kind = 3 && bits arg 0 63 ≥ stackBytes) then s.answer c.m stParam []
  else if (kind = 1 || kind = 2 || kind = 4) && s.darkBlock u then s.answer c.m stState []
  else
    let s1 := s.logEvent ⟨0x0609, lvThallus, 0, kind + 65536 * l + 2 ^ 32 * u, 0, s.now⟩
    (s1.injectFault kind u arg).ok c.m (toLE 8 s1.host.evseq)

def execFltInject (m : Nat) (s : State) : Res := onUnit (m < 16) (s.cmdRow m 0x0A02 State.fltInject)

/-! Lockstep (R485). -/

/-- A lockstep mismatch: Thallus restarts from ROM, the mailboxes found device-owned to be completed by R383. A second one
during such a restart or within 1 s of its end leaves it halted; one during start-up starts the stages over. -/
def State.lockstep (s : State) : State :=
  if !s.coreUp || s.boot.halted || s.pwr.clkOff || s.pwr.chip = 0 || s.boot.boot < 2 || s.boot.boot ≥ 14 then s
  else
    let again := (s.boot.restart && !s.boot.switching)
      || (match s.boot.lockEnd with | some t => decide (s.now < t + 100000000) | none => false)
    if again then { s with boot := { s.boot with ready := false, halted := true } }
    else if s.boot.boot = 8 || s.boot.restart then
      { s with boot := { s.boot with
        ready := false, boot := 2, restart := true, switching := false, mbxAbort := s.host.mbxOwned } }
    else ({ s with boot := { s.boot with boot := 2 } }).emit 0x0601 lvThallus 0 0 0

def execThallusLockstep (s : State) : Res := .next s.lockstep

end Sys2Proof.Machine
end

