-- ==== Sys2Proof/Machine/Sporecast.lean ====
section
/-! DEFINITION. Sporecast: sessions, CAST messages and their relay, and the three PRG_CAST commands (R414, R472 to R477). -/

namespace Sys2Proof.Machine

/-! Messages (R473, Table 17-12). -/

/-- The payload of a first packet. -/
def castHead (kind a d left id seg segs len origin sm : Nat) : List Byte :=
  toLE 1 kind ++ toLE 1 a ++ toLE 1 d ++ toLE 1 left ++ toLE 2 id ++ toLE 2 seg ++ toLE 2 segs ++ toLE 2 0 ++ toLE 4 len
    ++ toLE 2 origin ++ List.replicate 14 0 ++ toLE 32 sm

/-- Fields of a first packet's payload. -/
structure CastHd where
  kind : Nat
  axis : Nat
  dir  : Nat
  left : Nat
  id   : Nat
  seg  : Nat
  segs : Nat
  len  : Nat
  origin : Nat
  sm   : Nat
  deriving DecidableEq, Repr

def castHdOf (p : List Byte) : CastHd :=
  ⟨fld p 0 1, fld p 1 1, fld p 2 1, fld p 3 1, fld p 4 2, fld p 6 2, fld p 8 2, fld p 12 4, fld p 16 2, fld p 32 32⟩

/-- A CAST message given to the endpoint: the header, then its bytes 64 to a packet. -/
def State.sendCast (s : State) (node : Nat) (o : Orig) (head data : List Byte) : State :=
  s.send node o (s.fab.msg node tCAST 0 none (head ++ data))

/-- One hop of a broadcast segment (R370, R474). -/
def State.castHop (s : State) (o : Orig) (h : CastHd) (data : List Byte) (a d left : Nat) : State :=
  if left = 0 then s
  else s.sendCast (s.fab.neighbour a d) o (castHead 1 a d left h.id h.seg h.segs h.len h.origin h.sm) data

def State.castAxes (s : State) (o : Orig) (h : CastHd) (data : List Byte) (axes : List Nat) : State :=
  (axes.filter (fun a => decide (s.fab.len a > 1))).foldl (fun t a =>
    (t.castHop o h data a 0 (t.fab.upHops a)).castHop o h data a 1 (t.fab.downHops a)) s

/-- A received broadcast segment relayed on (R474). -/
def State.castRelay (s : State) (h : CastHd) (data : List Byte) : State :=
  if s.fab.slice = 0 then s
  else (s.castHop .resp h data h.axis h.dir (h.left - 1)).castAxes .resp h data
    ((List.range 8).filter (fun b => decide (b > h.axis)))

/-- The packets of a source up to the end of its message, and what stays. -/
def takeMsg (src : Nat) : List (Packet × Bool) → Option (List (Packet × Bool) × List (Packet × Bool))
  | [] => none
  | p :: rest =>
    if p.1.src = src then
      if p.1.last then some ([p], rest) else (takeMsg src rest).map (fun x => (p :: x.1, x.2))
    else (takeMsg src rest).map (fun x => (x.1, p :: x.2))

/-- The first message of some kinds that has come whole, and what stays. -/
def castMsg (kinds : Nat → Bool) :
    List (Packet × Bool) → List (Packet × Bool) → Option (List (Packet × Bool) × List (Packet × Bool))
  | _, [] => none
  | seen, p :: rest =>
    match (if p.1.first && kinds (fld p.1.payload 0 1) then takeMsg p.1.src (p :: rest) else none) with
    | some (m, r) => some (m, seen ++ r)
    | none => castMsg kinds (seen ++ [p]) rest

/-- Does this part's Thallus serve the session now? A transit-only part and one whose core die is in reset only relay. -/
def State.castOn (s : State) : Bool := s.thallusUp && !s.fab.transit

/-- A CAST message of some kinds is taken: its header, bytes, source, and whether this part takes it for itself, every packet
of it having been committed so. A restarting Thallus takes it afterwards. -/
def State.castTake (s : State) (kinds : Nat → Bool) (f : State → CastHd → List Byte → Nat → Bool → State) : State :=
  if s.coreUp && !s.thallusUp then s
  else
    match castMsg kinds [] s.fab.castq with
    | none => s
    | some (m, rest) =>
      match m with
      | [] => s
      | hd :: tl =>
        f { s with fab := { s.fab with castq := rest } } (castHdOf (fitTo 64 hd.1.payload)) (tl.flatMap (fun x => pktData x.1))
          hd.1.src (s.castOn && m.all Prod.snd)

def State.setCast (s : State) (f : Cast → Cast) : State := { s with fab := { s.fab with cast := s.fab.cast.map f } }

/-! Sessions. -/

/-- Bytes of segment `i` of an image. -/
def Cast.segLen (c : Cast) (i : Nat) : Nat := min 4096 (c.len - 4096 * i)

/-- Segments still missing. -/
def Cast.missing (c : Cast) : List Nat := (List.range c.segs).filter (fun i => !(c.have_.contains i) && !(c.fetched.contains i))

/-- PRG_CAST_OPEN (R414, R472). -/
def State.castOpen (s : State) (c : Cmd) : State :=
  let (role, segs, len, map) := (fld c.pars 0 1, fld c.pars 6 2, fld c.pars 8 4, fld c.pars 12 18)
  if role > 1 || len > 84224 || segs ≠ cdiv len 4096 || !(mapOk numBlocks 18 map) then s.answer c.m stParam []
  else if s.fab.slice = 0 || s.fab.cast.isSome || !((bitsOf numBlocks map).all (fun n => s.blockFree n true)) then
    s.answer c.m stState []
  else
    let k : Cast := {
      source := role == 0, id := fld c.pars 2 2, origin := if role = 0 then s.fab.node else fld c.pars 4 2
      segs := segs, len := len, blocks := map, digest := fld c.pars 32 32, image := Mem.empty
      have_ := [], fetched := [], asked := [], retried := [], closing := false }
    ({ s with fab := { s.fab with cast := some k } }).ok c.m []

def execPrgCastOpen (m : Nat) (s : State) : Res := onUnit (m < 16) (s.cmdRow m 0x0401 State.castOpen)

/-- PRG_CAST_SEGMENT begins (R414, R474): the segment is staged and leaves by every first hop. -/
def State.castSegment (dma : Option (List Byte)) (s : State) (c : Cmd) : State :=
  let (id, seg, len, a, sm) := (fld c.pars 0 2, fld c.pars 2 2, fld c.pars 4 4, fld c.pars 8 8, fld c.pars 16 32)
  match s.fab.cast with
  | none => s.answer c.m stState []
  | some k =>
    if !k.source then s.answer c.m stState []
    else if k.id ≠ id || seg ≥ k.segs || len ≠ k.segLen seg || a % 64 ≠ 0 then s.answer c.m stParam []
    else
      match dma with
      | none => s.dmaErr c.m
      | some got =>
        let bs := fitTo len got
        if Config.sm3 bs ≠ sm then s.answer c.m stParam []
        else
          let s1 := s.setCast (fun k => { k with
            image := k.image.put (4096 * seg) bs, have_ := k.have_.filter (fun x => x != seg) ++ [seg] })
          s1.castAxes .cast ⟨1, 0, 0, 0, id, seg, k.segs, len, k.origin, sm⟩ bs (List.range 8)

def execPrgCastSegment (m : Nat) (dma : Option (List Byte)) (s : State) : Res :=
  onUnit (m < 16) (s.cmdRow m 0x0402 (State.castSegment dma))

/-- Is a packet of the session still to be sent or acknowledged? -/
def State.castPending (s : State) : Bool :=
  !s.fab.acks.isEmpty || s.fab.endps.any (fun e => e.outq.any (fun x => x.2 == .cast))

/-- Adjacent parts that the source sends first hops to. -/
def FabS.firstHops (f : FabS) : List Nat :=
  ((List.range 8).filter (fun a => decide (f.len a > 1))).flatMap (fun a =>
    (if f.upHops a = 0 then [] else [f.neighbour a 0]) ++ (if f.downHops a = 0 then [] else [f.neighbour a 1]))

/-- Its end: every first hop acknowledged; FAULTED where one was lost with its path (log entry 40). -/
def State.segEnd (s : State) : Option (Nat × List Byte) :=
  if s.castPending then none
  else if s.fab.firstHops.any (fun n => ((s.endp (n % 2)).pair n).lost) then some (stFaulted, [])
  else some (stOk, [])

/-- FETCH for the missing segments in order, four outstanding (R476). -/
def State.castAsk (s : State) : State :=
  match s.fab.cast with
  | none => s
  | some k =>
    if k.source || !k.closing then s
    else
      let next := (k.missing.filter (fun i => !(k.asked.contains i))).take (4 - k.asked.length)
      next.foldl (fun (t : State) i =>
        (t.sendCast k.origin .cast (castHead 3 0 0 0 k.id i k.segs 0 k.origin 0) []).setCast (fun k => { k with
          asked := k.asked ++ [i] })) s

/-- PRG_CAST_CLOSE begins (R414, R476, R477). -/
def State.castClose (s : State) (c : Cmd) : State :=
  match s.fab.cast with
  | none => s.answer c.m stState []
  | some k =>
    if k.id ≠ fld c.pars 0 2 then s.answer c.m stParam []
    else (s.setCast (fun k => { k with closing := true, asked := [], retried := [] })).castAsk

def execPrgCastClose (m : Nat) (s : State) : Res := onUnit (m < 16) (s.cmdRow m 0x0403 State.castClose)

/-- Results of PRG_CAST_CLOSE: a source's own segments came by no broadcast. -/
def Cast.result (k : Cast) (loaded : Nat) : List Byte :=
  toLE 18 loaded ++ toLE 2 (if k.source then 0 else k.have_.length) ++ toLE 2 k.fetched.length ++ toLE 2 k.missing.length

/-- The session ends. -/
def State.dropCast (s : State) : State := { s with fab := { s.fab with cast := none } }

/-- The end of PRG_CAST_CLOSE where it has come (R476): the state, status and results. -/
def State.castEnd (s : State) : Option (State × Nat × List Byte) :=
  match s.fab.cast with
  | none => some (s, stFaulted, [])
  | some k =>
    if !k.source && ((s.endp (k.origin % 2)).pair k.origin).lost && !k.missing.isEmpty then some (s.dropCast, stFaulted, [])
    else if !k.source && !k.missing.isEmpty then none
    else
      let bs := k.image.raw 0 k.len
      let bl := bitsOf numBlocks k.blocks
      if Config.sm3 bs ≠ k.digest then some (s.dropCast, stParam, [])
      else if imageStatus bs ≠ stOk then some (s.dropCast, imageStatus bs, [])
      else if bl.any s.darkBlock then some (s.dropCast, stState, [])
      else some ((s.dropCast).loadBlocks bl bs k.digest, stOk, k.result k.blocks)

/-- The CLOSE that runs. -/
def State.closeCmd (s : State) : Option Cmd := s.host.runs.find? (fun c => c.op == 0x0403 && c.begun && c.ans.isNone)

/-- The CLOSE under way ends FAULTED, and its session with it. -/
def State.closeFails (s : State) : State :=
  match s.closeCmd with
  | some c => (s.dropCast).answer c.m stFaulted []
  | none => s

/-- A deadline has come with segments missing (R414): PARTIAL, and the session stays open. -/
def State.closeLate (s : State) : List Byte × State :=
  match s.fab.cast with
  | some k => (k.result 0, s.setCast (fun k => { k with closing := false, asked := [], retried := [] }))
  | none => ([], s)

/-! Messages received. -/

/-- A segment is accepted, ignored or discarded (R475, R476). -/
def State.castAccept (s : State) (h : CastHd) (data : List Byte) : State :=
  match s.fab.cast with
  | none => s
  | some k =>
    let ours := !(s.host.runs.any (fun c => c.op == 0x0401)) && !k.source && h.id == k.id && h.origin == k.origin
      && decide (h.seg < k.segs) && h.len == k.segLen h.seg && (h.kind == 1 || k.asked.contains h.seg)
    let bs := fitTo h.len data
    if !ours then s
    else
      let s1 := if h.kind = 2 then s.setCast (fun k => { k with asked := k.asked.filter (fun x => x != h.seg) }) else s
      if !(k.missing.contains h.seg) then s1.castAsk
      else if Config.sm3 bs ≠ h.sm then
        let s2 := s1.emit 0x0210 lvChip 0 (k.id + 65536 * h.seg) 0
        if h.kind = 1 then s2
        else if k.retried.contains h.seg then s2.closeFails
        else (s2.setCast (fun k => { k with retried := k.retried ++ [h.seg] })).castAsk
      else
        (s1.setCast (fun k => { k with
          image := k.image.put (4096 * h.seg) bs
          have_ := if h.kind = 1 then k.have_ ++ [h.seg] else k.have_
          fetched := if h.kind = 2 then k.fetched ++ [h.seg] else k.fetched })).castAsk

/-- A CAST segment arrives: a broadcast one is relayed first (R474, R475). -/
def execCastSegmentReceive (s : State) : Res :=
  onPart s true (s.castTake (fun k => k == 1 || k == 2) (fun t h data _ on =>
    let t1 := if h.kind = 1 then t.castRelay h data else t
    if on then t1.castAccept h data else t1))

/-- A FETCH reaches the source (R476, R477): the segment, or REFUSE where this part serves no such session, holds no such
segment, or has begun to close. -/
def State.castFetch (s : State) (h : CastHd) (src : Nat) : State :=
  let refuse := s.sendCast src .resp (castHead 4 0 0 0 h.id h.seg h.segs 0 h.origin 0) []
  match s.fab.cast with
  | none => refuse
  | some k =>
    if k.source && k.id = h.id && h.origin = k.origin && k.have_.contains h.seg && !k.closing then
      let bs := k.image.raw (4096 * h.seg) (k.segLen h.seg)
      s.sendCast src .resp (castHead 2 0 0 0 k.id h.seg k.segs bs.length k.origin (Config.sm3 bs)) bs
    else refuse

def execCastFetchReceive (s : State) : Res :=
  onPart s true (s.castTake (fun k => k == 3) (fun t h _ src on => if on then t.castFetch h src else t))

/-- A REFUSE reaches a receiver (R476): its CLOSE ends FAULTED. -/
def State.castRefused (s : State) (h : CastHd) : State :=
  match s.fab.cast with
  | none => s
  | some k =>
    if !k.source && k.closing && h.id = k.id && h.origin = k.origin then
      (s.emit 0x0211 lvChip 0 (k.id + 65536 * h.seg) 0).closeFails
    else s

def execCastRefuseReceive (s : State) : Res :=
  onPart s true (s.castTake (fun k => k == 4) (fun t h _ _ on => if on then t.castRefused h else t))

end Sys2Proof.Machine
end

