-- ==== Sys2Proof/Machine/Security.lean ====
section
/-! DEFINITION. Life cycle, owner key, attestation, tamper, debug access (R505 to R524, R538). -/

namespace Sys2Proof.Machine

/-! Attestation (R521). -/

/-- FAB_SLICE_TBL (Table 12-9). -/
def FabS.sliceTable (f : FabS) : Nat :=
  f.slice % 256 * 2 ^ 120 + b2n f.transit * 2 ^ 119
    + ((List.range 8).zip f.box).foldl (fun a x => a + x.2 % 4096 * 2 ^ (12 * x.1)) 0

/-- JTAG and host debug are locked (Table 19-4). -/
def State.locked (s : State) : Bool := s.sec.fuses.lc == 2

/-- Loaded blocks, those whose image is secure, and those modified (R519). -/
def State.loadedMap (s : State) : List Nat := allBlocks.filter s.loaded
def State.secureMap (s : State) : List Nat := s.loadedMap.filter (fun n => (s.block n).keptSecure)
def State.modifMap (s : State) : List Nat := s.loadedMap.filter (fun n => s.sec.modif.contains n)

/-- The measurement of a block. -/
def State.measure (s : State) (n : Nat) : Nat :=
  match s.sec.meas.find? (fun x => x.1 == n) with
  | some x => x.2
  | none => 0

/-- Section SELECT[0] (Table 19-7). -/
def State.imageSection (s : State) : List Byte :=
  let recs := s.loadedMap.flatMap (fun n =>
    toLE 2 n ++ toLE 1 (b2n (s.block n).keptSecure + 2 * b2n (s.sec.modif.contains n)) ++ [0] ++ toLE 32 (s.measure n))
  toLE 18 (maskOf s.loadedMap) ++ toLE 18 (maskOf s.secureMap) ++ toLE 18 (maskOf s.modifMap) ++ toLE 2 0
    ++ toLE 32 (Config.sm3 recs)

/-- The report but for its signature (Table 19-7). -/
def State.report (s : State) (c : Cmd) : List Byte :=
  let sel := fld c.pars 32 4
  let len := 336 + (if bit sel 1 then 16 else 0) + (if bit sel 0 then 88 else 0)
  toLE 4 0x5441544B ++ toLE 2 1 ++ toLE 2 len ++ toLE 16 s.sec.fuses.serial ++ toLE 1 s.sec.fuses.lc ++ toLE 1 sel
    ++ toLE 2 s.fab.node ++ toLE 1 s.fab.slice
    ++ toLE 1 (b2n s.fab.transit + 2 * b2n (!s.locked) + 4 * b2n (!s.locked) + 8 * b2n s.injectOn) ++ toLE 2 0
    ++ toLE 8 s.now ++ toLE 8 s.sec.clearAt ++ toLE 8 s.sec.wipeAt ++ toLE 8 s.sec.setAt
    ++ toLE 8 (fld s.boot.hdr 4 8) ++ toLE 4 (fld s.boot.hdr 20 4) ++ toLE 4 s.sec.fuses.minSec
    ++ fitTo 32 (c.pars.take 32) ++ toLE 32 Config.romDigest ++ toLE 32 (Config.sm3 (s.boot.hdr.take 64))
    ++ toLE 32 (Config.sm3 (s.sec.sets.flatMap (fun x => fitTo 128 (x.2.take 128))))
    ++ toLE 32 s.ownerDigest ++ toLE 32 (match s.fab.profile with | some p => p.hash | none => 0)
    ++ (if bit sel 1 then toLE 16 s.fab.sliceTable else []) ++ (if bit sel 0 then s.imageSection else [])

/-- SEC_ATTEST (R521): the key store signs the report. -/
def State.attest (s : State) (c : Cmd) : State :=
  let r := s.report c
  let k := s.freeN
  ({ s with freeN := k + 1 }).ok c.m (r ++ toLE 64 (Config.sm2Sign s.sec.ident (Config.sm3 r) k))

def execSecAttest (m : Nat) (s : State) : Res := onUnit (m < 16) (s.cmdRow m 0x0B00 State.attest)

/-! SEC_LIFECYCLE (R511, R512). -/

/-- Stacks that a wipe reaches. -/
def State.wipable (s : State) : Nat :=
  maskOf ((List.range numStacks).filter (fun n => (s.stack n).st != .failed && (s.stack n).st != .untrained))

/-- Steps 3 to 5 of R512: every scope wiped, the key store cleared and loaded again, the record written. A key store that a
tamper event emptied stays empty (R518). -/
def State.lcWipe (s : State) : State :=
  let s1 := (s.wipe 15 s.wipable).fullWipe
  let s2 := { s1 with sec := { s1.sec with
    lastLc := s1.sec.fuses.lc, ident := if s1.sec.keys then Config.identityOf s1.sec.fuses.secret else s1.sec.ident } }
  if s2.sec.keys then s2.putSecRecord else s2

/-- Every secure partition that has power begins to be wiped (R155). -/
def State.lcWipes (s : State) : State :=
  { s with blocks := mapNum (fun n b => if (s.region (n / 36)).st = .off then b else b.startWipe false) 0 s.blocks }

/-- SEC_LIFECYCLE begins: the authorisation stands (R381, check 4), the fuses of the new state are blown, and the wipes begin. -/
def State.lifecycle (s : State) (c : Cmd) : State :=
  if s.anyRunning || s.fab.slice ≠ 0 then s.answer c.m stState []
  else
    let target := fld c.pars 0 1
    let us := (if s.stks.any Stack.hot then 32970 else 31520) + 8000
    let s1 := { s with
      sec := { s.sec with fuses := { s.sec.fuses with lc := target }, authCtr := fld c.pars 4 4 }
      stks := s.stks.map (fun (k : Stack) =>
        if k.st = StkSt.selfRefresh then { k with st := StkSt.waking, wake := s.now + 400, byReq := false } else k) }
    s1.lcWipes.keep c.m [s.now + 100 * us, s.sec.fuses.lc]

def execSecLifecycle (m : Nat) (s : State) : Res := onUnit (m < 16) (s.cmdRow m 0x0B01 State.lifecycle)

/-- Its end. -/
def State.lcDone (s : State) (c : Cmd) : State :=
  (s.lcWipe.emit 0x0B03 lvChip 0 (c.keep.getD 1 0 + 65536 * s.sec.fuses.lc) 0).ok c.m []

/-! SEC_OWNER_KEY (R514). -/

def State.ownerKey (s : State) (c : Cmd) : State :=
  if s.anyRunning || s.fab.slice ≠ 0 then s.answer c.m stState []
  else
    let k := fld c.pars 0 64
    let d := keyDigest k
    let s1 := { s with sec := { s.sec with owner := some k, authCtr := fld c.pars 64 4 } }
    (s1.putSecRecord.emit 0x0B04 lvChip 0 (d % 2 ^ 64) 0).ok c.m (toLE 32 d)

def execSecOwnerKey (m : Nat) (s : State) : Res := onUnit (m < 16) (s.cmdRow m 0x0B02 State.ownerKey)

/-! Tamper (R517, R518). -/

/-- A tamper sensor trips: 0 supply, 1 temperature, 2 mesh, 3 and 4 TAMPER0_N and TAMPER1_N where enabled. Crust clears the
key store; Thallus acts at once where it serves, else when it takes the event. -/
def State.tamper (s : State) (sensor : Nat) : State :=
  if !s.crustUp || (sensor ≥ 3 && !(s.secBit (sensor + 3))) then s
  else
    let s1 := { s with sec := { s.sec with keys := false, ident := 0, tamperDue := true, tampered := true } }
    let s2 := if s1.thallusUp then s1.tamperAct else s1
    s2.emit 0x0B01 lvChip 0 sensor 0

def execTamperEvent (sensor : Nat) (s : State) : Res := onUnit (sensor < 5) (s.tamper sensor)

/-! Debug access (R513, R538). -/

/-- A refused debug access logged, once per second at most: port 0 JTAG, 1 host debug. -/
def State.debugDenied (s : State) (port : Nat) : State :=
  if s.sec.dbgAt.any (fun x => decide (s.now < x.2 + 100000000)) then s
  else ({ s with sec := { s.sec with dbgAt := [(port, s.now)] } }).emit 0x0B07 lvChip 0 port 0

def State.debugOut (s : State) (bs : List Byte) : State := { s with out := s.out ++ [.debug bs] }

/-- A pin record as its register shows it (Table 10-5); a handle without one reads 0. -/
def Block.pinWord (b : Block) (h : Nat) : Nat :=
  match b.pins.find? (fun p => p.h == h) with
  | some p => b2n p.pinned * 2 ^ 63 + b2n p.pending * 2 ^ 62 + p.slot % 2 * 2 ^ 61 + p.layer % 65536 * 2 ^ 32 + p.ver % 2 ^ 32
  | none => 0

/-- QCFG_n (Table 7-8). -/
def Queue.cfgWord (q : Queue) : Nat :=
  b2n q.cfg.ctxB * 2 ^ 49 + b2n q.cfg.en * 2 ^ 48 + q.cfg.size % 65536 * 2 ^ 32 + q.cfg.base % 2 ^ 21

/-- The 8 bytes at a multiple of 8 of the block control registers: Tables 3-7, 5-7, 6-2, 6-3, 7-4, 7-5, 7-8, 7-10, 7-11, 8-4,
8-5 and 10-5. A place that no table names reads 0 (log entry 113). -/
def Block.ctlWord (b : Block) (o : Nat) : Nat :=
  let pair (lo hi : Nat) : Nat := lo % 2 ^ 32 + hi % 2 ^ 32 * 2 ^ 32
  let two (xs : List Nat) (base : Nat) : Nat := pair (xs.getD ((o - base) / 4) 0) (xs.getD ((o - base) / 4 + 1) 0)
  if o = 0 then b.statusWord
  else if o = 0x20 then b.markWord
  else if o = 0x40 then b.arrCtl &&& 0xFFC1
  else if o = 0x50 then b.rowMiss
  else if o = 0x60 then b2n b.wiping * 2 + b2n b.sec
  else if 0x80 ≤ o && o < 0xA0 then two (b.ctr.drop cConf) 0x80
  else if 0x100 ≤ o && o < 0x140 then (b.qs.getD ((o - 0x100) / 8) Queue.zero).cfgWord
  else if 0x140 ≤ o && o < 0x180 then (b.qs.getD ((o - 0x140) / 8) Queue.zero).statWord
  else if 0x200 ≤ o && o < 0x300 then two b.toks 0x200
  else if 0x300 ≤ o && o < 0x320 then two b.lcr 0x300
  else if 0x340 ≤ o && o < 0x380 then two b.vimm 0x340
  else if 0x800 ≤ o && o < 0x1000 then b.pinWord ((o - 0x800) / 8)
  else 0

/-- Bytes of the block control registers. -/
def Block.ctlBytes (b : Block) (o n : Nat) : List Byte :=
  (List.range n).map (fun i => BitVec.ofNat 8 (b.ctlWord ((o + i) / 8 * 8) / 2 ^ (8 * ((o + i) % 8))))

/-- A write to the block control registers that reaches ARR_CTL, the one with writable bits (Table 3-7): the packer first
issues the rows it holds (R82). -/
def Block.ctlWrite (b : Block) (o : Nat) (data : List Byte) : Block :=
  let bs := (List.range 4).map (fun i =>
    if o ≤ 0x40 + i && 0x40 + i < o + data.length then data.getD (0x40 + i - o) 0
    else BitVec.ofNat 8 (b.arrCtl / 2 ^ (8 * i)))
  { b.flushPack with arrCtl := ofLE bs &&& 0xFFC1 }

/-- Where the block control registers begin as host debug sees a block, and their extent (log entry 113). -/
def debugRegs : Nat := 2 ^ 21
def debugRegBytes : Nat := 0x1000

/-- Host debug of a block (R513): its scratchpad, through NOCIN (R154), and above it its control registers; an access that
must wait is served when it comes again. -/
def State.hostDebug (s : State) (b : Nat) (wr : Bool) (off len : Nat) (data : List Byte) : State :=
  let n := if wr then data.length else len
  let a := b * 2 ^ 21 + off
  let answer (t : State) (bs : List Byte) : State := if wr then t else t.debugOut bs
  let zeros := List.replicate n (0 : Byte)
  let gate := if off < debugRegs then s.gateAt 1 0 a n else s.regionGate (b / 36)
  if !s.coreUp || s.pwr.clkOff then s
  else if off < debugRegs && s.deniedAt 1 a n then
    answer ((if s.locked then s.debugDenied 1 else s).emit 0x17 lvHost 0 a 0) zeros
  else if s.locked then answer (s.debugDenied 1) zeros
  else if gate == .wait then s
  else if gate == .refused then answer s zeros
  else if debugRegs ≤ off then
    if wr then
      if off + n ≤ debugRegs + 0x40 || debugRegs + 0x44 ≤ off then s
      else s.putBlock b ((s.block b).ctlWrite (off - debugRegs) data)
    else s.debugOut ((s.block b).ctlBytes (off - debugRegs) n)
  else if wr then s.writeAt 0 1 0 a (cleanBytes data)
  else (s.touchAt 0 clsBulk 1 0 a n).debugOut ((s.readAt 0 1 0 a n).map Prod.fst)

def execHostDebugAccess (b : Nat) (wr : Bool) (off len : Nat) (data : List Byte) (s : State) : Res :=
  let n := if wr then data.length else len
  onUnit (b < 144 && (off + n ≤ debugRegs || debugRegs ≤ off && off + n ≤ debugRegs + debugRegBytes))
    (s.hostDebug b wr off len data)

/-- A JTAG scan (R538): instruction 0 IDCODE, 1 BYPASS, others the boundary scan and what else the port offers, whose data
the spec does not give (log entry 41). BYPASS puts one bit of 0 ahead of what is shifted in. -/
def State.jtag (s : State) (ir v : Nat) : State :=
  let answer (t : State) (x : Nat) : State := { t with out := t.out ++ [.jtag x] }
  if !s.pwr.good then s
  else if ir = 0 then answer s 0x10641A6F
  else if ir = 1 then answer s (2 * v)
  else if s.locked then answer (s.debugDenied 0) 0
  else let (x, s1) := s.draw; answer s1 x

def execJtagAccess (ir v : Nat) (s : State) : Res := .next (s.jtag ir v)

end Sys2Proof.Machine
end

