-- ==== Sys2Proof/Machine/Reset.lean ====
section
/-! DEFINITION. Resets, supplies, temperature and the loss of a clock (R439 to R441, R449 to R455, R533). -/

namespace Sys2Proof.Machine

/-! Core-die and warm resets (R449, Table 16-9, and the rules of each chapter that name them). -/

/-- Damage that a fallen supply leaves in a store of `size` bytes: errors in symbols of its words, each shown by the code. -/
def Mem.damage (m : Mem) (k size : Nat) : Mem :=
  (Config.lostErrs k).foldl (fun m e => m.flip (e.1 % (size / 32)) (e.2 % 36) (1 + e.2 / 36 % 255)) m

/-- Damage in an instruction memory, shown by parity (R199). -/
def damageWords (l : List IWord) (k : Nat) : List IWord :=
  (Config.lostErrs k).foldl (fun l e => updAt l (e.1 % 4096) (fun x => { x with par := x.par ^^^ (1 + e.2 % 3) })) l

/-- A block after a core-die or warm reset: SRAM is kept, the secure partition is wiped (R155), registers take their reset
values (R44, R73, R107, R152, Tables 7-3 to 7-12). With `k`, VDD_CORE or VDD_SRAM had fallen: stores may be damaged,
accumulator entries are undefined, and side-memory valid bits are cleared (R129). -/
def Block.coreReset (b : Block) (k : Option Nat) : Block :=
  let b0 : Block := { Block.reset with
    imA := b.imA, imX := b.imX, descs := b.descs, spad := b.spad, acc := b.acc, sideV := b.sideV, sideT := b.sideT
    nextJob := b.nextJob, nextReq := b.nextReq }
  let b1 : Block := match k with
    | none => b0
    | some k => { b0 with
        imA := damageWords b.imA (4 * k), imX := damageWords b.imX (4 * k + 1), spad := b.spad.damage (4 * k + 2) (2 ^ 21)
        acc := lostMem (4 * k + 3) (2 ^ 17), sideT := Mem.empty }
  { b1 with spad := b1.spad.zero secBase (2 ^ 18) }

/-- A region after such a reset: RETAIN if above OFF before (Table 16-9); its counters are on the core die (R56). -/
def Region.coreReset (g : Region) (k : Option Nat) : Region :=
  let st : RegSt := if g.st = .off then .off else .retain
  { Region.reset with
    st := st, goal := st
    store := match k with | none => g.store | some k => g.store.damage (4 * k) (2 ^ 24) }

/-- A stack after such a reset: its port on the core die loses what it holds; the base die with its controller runs on (R239, R252,
R262, R286, Table 1-2). -/
def State.stackCoreReset (s : State) (n : Nat) : State :=
  let k := (s.stack n).sueCoreReset s.now
  s.putStack n { k with scas := [], edge := [] }

/-- The part as the core die enters reset: Crust, link dies and base dies keep what they hold (Table 16-9, R286, R342, R383,
R472). `cause`: 0 VDD_CORE, 1 VDD_SRAM, 2 RESET_N. -/
def State.coreReset (s : State) (cause : Nat) : State :=
  let hurt := decide (cause < 2)
  let k := s.freeN
  let key (i : Nat) : Option Nat := if hurt then some (k + i) else none
  let s1 := (List.range numStacks).foldl State.stackCoreReset (s.abandonAll 4)
  { s1 with
    freeN := if hurt then k + 148 else k
    blocks := mapNum (fun n b => b.coreReset (key n)) 0 s1.blocks
    regions := mapNum (fun n g => g.coreReset (key (144 + n))) 0 s1.regions
    tokMsgs := [], noc := [], nocFail := [], starts := []
    out := s1.out ++ s1.host.bar2q.map (fun _ => Out.abort)
    host := { s1.host with hand := [], runs := [], bar2q := [] }
    pwr := { s1.pwr with
      core := some (s1.pwr.core.getD cause), chip := 1, chipMove := none, chipGoal := 1
      rails := if hurt then [] else s1.pwr.rails
      pause := if hurt && s1.pwr.trip.isNone then none else s1.pwr.pause }
    boot := { s1.boot with
      ready := false, restart := false, switching := false, heldEv := [], fetched := []
      resetOf := some (s1.boot.resetOf.getD cause)
      mbxAbort := s1.boot.mbxAbort ||| s1.host.mbxOwned }
    events := s1.events ++ s1.boot.heldEv
    sec := { s1.sec with meas := [], modif := [], staged := 0, tamper := [], tamperRet := [], tamperDue := false }
    fab := { s1.fab with
      cast := none, acks := [], stopQ := [], stopOn := false
      endps := s1.fab.endps.map (fun e => { e with resps := [], errs := [], reqs := [] }) } }

/-- The core die leaves reset: stages 2 to 5 follow (R469). A part still in stage 1 goes on with its cold start, and one that
halted stays halted (Table 17-1, R485). -/
def State.coreRelease (s : State) : State :=
  let b := s.boot.boot
  let s1 := { s with pwr := { s.pwr with core := none } }
  if b < 2 then { s1 with boot := { s1.boot with resetOf := none, mbxAbort := 0 } }
  else if b ≥ 14 then s1
  else { s1 with boot := { s1.boot with boot := 2, warm := true } }

/-- Rails: 0 VDD_CORE, 1 VDD_SRAM, then the others in the order of Table 20-6. -/
def numRails : Nat := 8

/-- VDD_CORE or VDD_SRAM at its reset level (R449). -/
def State.coreDieReset (s : State) (rail : Nat) : State :=
  if s.crustUp && rail < 2 then
    let s1 := s.coreReset rail
    { s1 with pwr := { s1.pwr with held := s1.pwr.held.filter (fun r => r != rail) ++ [rail] } }
  else s

def execCoreDieReset (rail : Nat) (s : State) : Res := onUnit (rail < numRails) (s.coreDieReset rail)

/-- Both core rails have stayed above their warning levels for 100 µs (R450). -/
def State.coreRailsBack (s : State) : State :=
  if s.crustUp && s.pwr.core.isSome && !s.pwr.held.isEmpty then
    let s1 := { s with pwr := { s.pwr with held := [] } }
    if s.pwr.lowAt.isSome || !s.pwr.resetN then s1 else s1.coreRelease
  else s

def execCoreDieResetRelease (s : State) : Res := .next s.coreRailsBack

/-- RESET_N has been low for 1 µs: Crust holds the core die in reset (R450). -/
def State.resetLow (s : State) : State :=
  if s.crustUp && s.pwr.good && s.pwr.resetN then
    let s1 := s.coreReset 2
    { s1 with pwr := { s1.pwr with resetN := false, lowAt := some (s.now - 100) } }
  else s

def execResetNLow (s : State) : Res := .next s.resetLow

/-- RESET_N rises: a warm reset, unless it had been low so long that a package reset has begun; the core die then only
leaves reset (R449, R450). A rail at its reset level holds it on. -/
def State.resetRises (s : State) : State :=
  if s.crustUp && !s.pwr.resetN then
    let s1 := { s with pwr := { s.pwr with resetN := true, lowAt := none } }
    if s.pwr.held.isEmpty && s.pwr.core.isSome then s1.coreRelease else s1
  else s

def execWarmReset (s : State) : Res := .next s.resetRises

/-! Package reset (R343, R439, R449, R533). -/

/-- Everything at its reset value but what is no state of the logic: fuses, flash contents, the levels of pins, clocks and
cables. -/
def State.cleared (s : State) : State :=
  { State.reset with
    pwr := { PwrS.reset with
      good := s.pwr.good, resetN := s.pwr.resetN, oscWait := s.pwr.oscWait, smbAddr := s.pwr.smbAddr
      stopped := s.pwr.stopped, dieOn := s.pwr.dieOn, coreT := s.pwr.coreT, dieT := s.pwr.dieT }
    sec := { SecS.reset with fuses := s.sec.fuses, flash := s.sec.flash.map (fun f => { f with sfdp := none }) }
    fab := { FabS.reset with links := s.fab.links.map (fun k => { Link.reset with cable := k.cable, sbBad := k.sbBad }) }
    out := s.out
    freeN := s.freeN
    pending := s.pending }

/-- Crust starts: stage 1 (Table 17-1). -/
def State.crustStarts (s : State) : State :=
  { s with pwr := { s.pwr with crust := true, osc := false, held := [] }, boot := { s.boot with boot := 1 } }

/-- A package reset: cause 0 PWR_GOOD falls, 1 RESET_N low for 10 ms, 2 and on the rail `cause − 2` at its reset level. -/
def State.packageReset (s : State) (cause : Nat) : State :=
  let c := s.cleared
  if cause = 0 then { c with pwr := { c.pwr with good := false } }
  else if cause = 1 then
    match s.pwr.lowAt with
    | some t =>
      if s.crustUp && decide (s.now ≥ t + 1000000) then
        ({ c with pwr := { c.pwr with core := some 2 } }).crustStarts
      else s
    | none => s
  else if cause ≥ 4 && s.crustUp then { c with pwr := { c.pwr with held := [cause - 2] } }
  else s

def execPackageReset (cause : Nat) (s : State) : Res := onUnit (cause < numRails + 2) (s.packageReset cause)

/-- PWR_GOOD rises (R439, R529): straps are sampled and the delay begins. Clock inputs lost before count as running again
(log entry 42). -/
def State.goodRises (s : State) (oscWait smbAddr : Nat) : State :=
  if s.pwr.good then s
  else
    { s with pwr := { s.pwr with
        good := true, osc := true, oscWait := oscWait % 8, smbAddr := smbAddr % 8, stopped := false, dieOn := [true, true] } }

def execPwrGoodRise (oscWait smbAddr : Nat) (s : State) : Res := .next (s.goodRises oscWait smbAddr)

/-- The delay ends (R439): Crust starts, unless a rail stands at its reset level (R533). -/
def State.oscEnds (s : State) (low : List Nat) : State :=
  if s.pwr.good && s.pwr.osc then
    if low.isEmpty then s.crustStarts else { s with pwr := { s.pwr with osc := false, held := low } }
  else s

def execOscWaitExpiry (low : List Nat) (s : State) : Res := onUnit (low.all (fun r => r < numRails)) (s.oscEnds low)

/-- The rails that held the part have stayed above their reset level for 100 µs (R533). -/
def State.railsBack (s : State) : State :=
  if s.pwr.good && !s.pwr.crust && !s.pwr.osc && !s.pwr.held.isEmpty then s.crustStarts else s

def execResetLevelRelease (s : State) : Res := .next s.railsBack

/-! Supplies (R451 to R453). -/

/-- A rail crosses its warning level: issue pauses. -/
def State.supplyWarn (s : State) (rail : Nat) : State :=
  if s.crustUp then
    let s1 := { s with pwr := { s.pwr with
      rails := s.pwr.rails.filter (fun r => r != rail) ++ [rail]
      pause := match s.pwr.pause with | some t => some t | none => some s.now } }
    s1.emit 0x0501 lvChip 0 rail 0
  else s

def execSupplyWarn (rail : Nat) (s : State) : Res := onUnit (rail < numRails) (s.supplyWarn rail)

/-- Every crossed rail has stayed above its warning level for 10 µs: issue resumes, but after a trip (R455). -/
def State.supplyResume (s : State) : State :=
  if !s.crustUp || s.pwr.rails.isEmpty then s
  else
    let s1 := { s with pwr := { s.pwr with rails := [] } }
    match s.pwr.pause with
    | some t =>
      if s.pwr.trip.isSome then s1
      else ({ s1 with pwr := { s1.pwr with pause := none } }).emit 0x0502 lvChip 0 (10 * (s.now - t)) 0
    | none => s1

def execSupplyResume (s : State) : Res := .next s.supplyResume

def State.supplyHigh (s : State) (rail : Nat) : State := if s.crustUp then s.emit 0x0503 lvChip 0 rail 0 else s

def execSupplyHigh (rail : Nat) (s : State) : Res := onUnit (rail < numRails) (s.supplyHigh rail)

/-! Temperature (R454, R455). -/

/-- The hottest of a list of readings, and its place. -/
def hottest (l : List Int) : Nat × Int :=
  ((List.range l.length).zip l).foldl (fun a x => if x.2 > a.2 then x else a) (0, l.headD 0)

/-- THERM_WARN, and its end (Table 16-11). Readings are in 1/16 °C. -/
def State.thermWarn (s : State) (i : Nat) (t : Int) : State :=
  if t ≥ 1600 && !s.pwr.therm then
    ({ s with pwr := { s.pwr with therm := true } }).emit 0x0504 lvChip 0 (i + 65536 * unsigned 16 t) 0
  else if t ≤ 1552 then { s with pwr := { s.pwr with therm := false } }
  else s

/-- The trip: issue pauses, THERM_TRIP is logged (R455, steps 1 and 2). -/
def State.thermTrip (s : State) (i : Nat) (t : Int) : State :=
  if t ≥ 1840 && s.pwr.trip.isNone then
    let s1 := { s with pwr := { s.pwr with
      trip := some s.now, pause := match s.pwr.pause with | some p => some p | none => some s.now } }
    s1.emit 0x0505 lvChip 0 (i + 65536 * unsigned 16 t) 0
  else s

/-- The sensors are sampled: the core die's points, hottest first, then link dies W and E (R454, R428). -/
def State.thermal (s : State) (core dies : List Int) : State :=
  if s.crustUp then
    let x := hottest (core ++ dies)
    (({ s with pwr := { s.pwr with coreT := core, dieT := dies } }).thermWarn x.1 x.2).thermTrip x.1 x.2
  else s

def execThermalSample (core dies : List Int) (s : State) : Res :=
  onUnit (core.length == 5 && dies.length == 2) (s.thermal core dies)

/-- 5 µs after the trip every fast clock but SP_CLK stops, and link transmitters are idle (R455, steps 3 and 5). -/
def State.tripClocks (s : State) : State :=
  match s.pwr.trip with
  | some t =>
    if s.crustUp && decide (s.now ≥ t + 500) then
      { s with pwr := { s.pwr with clkOff := true, dieIdle := [true, true] } }
    else s
  | none => s

def execTripClockStop (s : State) : Res := .next s.tripClocks

/-- A base die has emptied its buffer and write queues and put its stack in self refresh: its SP_CLK stops (R455, step 4). -/
def State.tripStack (s : State) (n : Nat) : State :=
  if s.crustUp && s.pwr.clkOff && !(s.pwr.spOff.contains n) then
    let k := s.stack n
    let live := k.st != .untrained && k.st != .failed
    let k1 : Stack := if live then k.emptied s.now else k
    let s1 := s.putStack n k1
    { s1 with pwr := { s1.pwr with spOff := s1.pwr.spOff ++ [n] } }
  else s

def execTripStackStop (n : Nat) (s : State) : Res := onUnit (n < 12) (s.tripStack n)

/-! Clocks (R441, R484). -/

/-- The oscillator input stops: Crust stops and the part with it. -/
def State.oscStops (s : State) : State := if s.pwr.crust then { s with pwr := { s.pwr with stopped := true } } else s

def execOscillatorStop (s : State) : Res := .next s.oscStops

/-- A link die that sees no keep-alive idles its transmitters. -/
def State.keepAlive (s : State) (d : Nat) : State :=
  if s.pwr.stopped then { s with pwr := { s.pwr with dieIdle := s.pwr.dieIdle.set d true } } else s

def execKeepAliveLoss (d : Nat) (s : State) : Res := onUnit (d < 2) (s.keepAlive d)

/-- A link reference input stops: the link die stops. -/
def State.linkRef (s : State) (d : Nat) : State :=
  if s.pwr.dieOn.getD d false then
    { s with pwr := { s.pwr with dieOn := s.pwr.dieOn.set d false, dieAt := s.pwr.dieAt ++ [(d, s.now)] } }
  else s

def execLinkReferenceStop (d : Nat) (s : State) : Res := onUnit (d < 2) (s.linkRef d)

/-- Its bridge has been silent for 1 µs: LINK_DIE_LOST. -/
def State.dieLost (s : State) (d : Nat) : State :=
  if s.crustUp && s.pwr.dieAt.any (fun x => x.1 == d && decide (s.now ≥ x.2 + 100)) then
    ({ s with pwr := { s.pwr with dieAt := s.pwr.dieAt.filter (fun x => x.1 != d) } }).emit 0x0207 lvChip 0 d 0
  else s

def execLinkDieLost (d : Nat) (s : State) : Res := onUnit (d < 2) (s.dieLost d)

end Sys2Proof.Machine
end

