-- ==== Sys2Proof/Machine/Boot.lean ====
section
/-! DEFINITION. Start-up stages 1, 2 and 6 to 9, the trainers, READY, and the end of a Thallus restart (R396, R456 to R458,
R463 to R469, R485, R516). -/

namespace Sys2Proof.Machine

/-! Stages 1 and 2 (Table 17-1). -/

/-- Crust has read the fuses: CHIP reads C1 from stage 2 on (R457); a parity error halts the part. -/
def State.fuseRead (s : State) (ok : Bool) : State :=
  if s.crustUp && s.boot.boot = 1 then
    if ok then
      { s with
        boot := { s.boot with boot := 2 }
        pwr := { s.pwr with chip := 1, chipGoal := 1 }
        sec := { s.sec with vmap := s.sec.fuses.vmap } }
    else s.halt 15 false
  else s

def execFuseReadComplete (ok : Bool) (s : State) : Res := .next (s.fuseRead ok)

/-- ROM boot ends: the key store is loaded from the fuses (Table 19-1), unless a tamper event has emptied it (R518). -/
def State.romBoot (s : State) (ok : Bool) : State :=
  if s.stage 2 then
    if ok then
      { s with
        boot := { s.boot with boot := 3 }
        sec := { s.sec with
          keys := !s.sec.tampered, ident := if s.sec.tampered then 0 else Config.identityOf s.sec.fuses.secret } }
    else s.halt 15 false
  else s

def execRomBootComplete (ok : Bool) (s : State) : Res := .next (s.romBoot ok)

/-! Training (R456, R463 to R468). -/

/-- BOOT shows 6 while a trainer is in its training steps, and 7 once each that remains is in its gate (R456). -/
def State.bootStage (s : State) : State :=
  if s.boot.boot = 6 || s.boot.boot = 7 then
    let steps := s.stks.any (fun k => k.st == .untrained) || s.fab.links.any (fun k => k.st == .training && !k.gate)
    { s with boot := { s.boot with boot := if steps then 6 else 7 } }
  else s

/-- One attempt of a link trainer fails (R467): the first is repeated on the full path, a second holds the link down. -/
def State.trainFail (s : State) (l corrected uncorr : Nat) : State :=
  let s1 := s.emit 0x0203 lvLink l corrected uncorr
  s1.updLink l (fun k =>
    if k.tries = 0 then { k with st := .training, gate := false, tries := 1, full := true }
    else { k with st := .down, gate := false, tries := 2, retrain := none })

/-- Did FAB_RETRAIN_LINK ask for the full gate (R464, Table 15-6)? -/
def State.fullGate (s : State) (k : Link) : Bool :=
  match k.retrain with
  | some m => (match s.cmd m with | some c => bit (fld c.pars 1 1) 0 | none => false)
  | none => false

/-- Does a trainer start now: at stage 5, on a link down, or by command (R463, R467)? -/
def State.trains (s : State) (l : Nat) : Bool :=
  let k := s.link l
  s.dieUp (l / 32) && k.goal != .off && ((k.st == .training && !k.gate) || (k.st == .down && decide (k.tries < 2)))

/-- Is a slot received a good training slot of a step (Table 17-8)? -/
def trainOk (bs : List Byte) (step : Nat) : Bool := sealOk bs && fld bs 0 1 == step

/-- Steps 1 to 5 (Tables 17-7, 18-5), with what they find: a lane fault holds the link, a full equaliser step at its limit
fails the attempt, a failed identity check holds the link by R493; else the link is in its gate, the short one where both
ends set FAST (R464). A training slot is sent in step 4 and one in step 5 (R465); without a good one from the neighbour step 5
does not end (log entry 134). -/
def State.trainer (s : State) (l : Nat) (t : Train) : State :=
  if !(s.trains l) then s
  else
    let k := s.link l
    match t.fault with
    | some (lane, kind) =>
      ((s.updLink l (fun k => { k with st := .laneHeld, gate := false, retrain := none })).emit 0x020A lvLink l
        (l + 65536 * lane + 2 ^ 32 * kind) 0).bootStage
    | none =>
      let s1 := if t.lanes = 0 then s else s.emit 0x020B lvLink l (l + 65536 * t.lanes) 0
      if t.eqFail then (s1.trainFail l 0 0).bootStage
      else if !(trainOk t.slot 5) then s
      else
        let i := identAt t.slot 4
        let own := (match k.stored with | some x => x.2.2 == i | none => false) && !(s.fullGate k)
        let s2 := (s1.wire l (.train l (s1.trainBytes l 4 0))).updLink l (fun k => { k with
          st := .training, lanes := t.lanes, delay := t.delay, ident := some i, gate := true, txPos := 0
          fast := own, short := own && bit (fld t.slot 1 1) 0, echo := fld t.slot 28 8 })
        let s3 := s2.wire l (.train l (s2.trainBytes l 5 (b2n own)))
        if s3.identBad l i = 0 then s3.bootStage
        else
          (((s3.updLink l (fun k => { k with
            st := .standby, goal := .up, gate := false, retrain := none, lastGood := s.now })).recount l).wiring l i).bootStage

def execLinkTrainerStart (l : Nat) (t : Train) (s : State) : Res := onPart s (l < 64) (s.trainer l t)

/-- Bits that a gate counts (Table 17-7, step 6). -/
def gateBits (fast : Bool) : Nat := if fast then 10 ^ 10 else 2 ^ 40

/-- The gate ends (R466, R467): this end's counts, reported in its training slot, and the neighbour's slot with the verdict on
its own direction; a slot without one does not end it. -/
def State.gateEnd (s : State) (l corrected uncorr : Nat) (slot : List Byte) : State :=
  let k := s.link l
  let (won, lost) := (bit (fld slot 1 1) 1, bit (fld slot 1 1) 2)
  if !(s.dieUp (l / 32)) || k.st ≠ .training || !k.gate || k.goal = .off || !(trainOk slot 6) || !(won || lost) then s
  else
    let mine := decide (corrected ≤ 10000) && uncorr == 0
    let sw := s.wire l (.train l (s.trainBytes l 6 (b2n k.fast + (if mine then 2 else 4))))
    let s0 := match k.retrain with
      | some m => sw.updCmd m (fun c => { c with keep := [c.keep.getD 0 0, gateBits k.short] })
      | none => sw
    if mine && won && !lost then
      let s1 := ((s0.updLink l (fun k => { k with
        gate := false, tries := 0, full := false, retrain := none
        stored := k.ident.map (fun i => (k.lanes, k.delay, i)) })).recount l).linkUp l
      (if k.goal = .standby then s1.updLink l (fun k => { k with st := .standby, goal := .standby }) else s1).bootStage
    else (s0.trainFail l corrected uncorr).bootStage

def execLinkGateVerdict (l corrected uncorr : Nat) (slot : List Byte) (s : State) : Res :=
  onPart s (l < 64) (s.gateEnd l corrected uncorr slot)

/-- A memory trainer ends (R468): at the step that failed, or with the lane repairs that it made, which the base die keeps.
At stage 9 it is the stack port that trains again, from the results held (R469). -/
def State.memTrained (s : State) (n : Nat) (v : MemVerdict) : State :=
  let fresh := (s.stack n).st == .untrained
  if !s.crustUp || s.boot.boot < 6 || s.boot.boot ≥ 14 || s.boot.boot = 8 || (!fresh && s.boot.boot ≠ 9) || (s.stack n).st = .failed
  then s
  else
    match v with
    | .failed k => ((s.updStack n (fun x => { x with st := .failed })).emit 0x0104 lvStack n k 0).bootStage
    | .trained repairs =>
      let s1 := if fresh then s.updStack n (fun k => { k.wipe with st := .active, scrubAt := 0, repairs := repairs }) else s
      let s2 := { s1 with boot := { s1.boot with
        fetched := if s.boot.boot = 9 then s1.boot.fetched.filter (fun x => x != 200 + n) ++ [200 + n] else s1.boot.fetched } }
      s2.bootStage

def execMemoryTrainingComplete (n : Nat) (v : MemVerdict) (s : State) : Res :=
  onUnit (n < 12 && (match v with | .failed k => decide (1 ≤ k) && decide (k ≤ 6) | .trained _ => true)) (s.memTrained n v)

/-! READY (R458, R469). -/

/-- A link has a verdict: it neither trains nor is about to. -/
def Link.verdict (k : Link) : Bool := !(k.st == .training || (k.st == .down && decide (k.tries < 2)))

/-- May READY be set? 3.5 s after stage 6 began, or 100 ms after stage 9 did, links are awaited no longer. -/
def State.mayReady (s : State) : Bool :=
  let links := s.fab.links.all Link.verdict
  let past (t : Nat) : Bool := decide (s.now ≥ s.boot.stageAt + t)
  if s.boot.boot = 6 || s.boot.boot = 7 then
    s.stks.all (fun k => k.st != .untrained) && (links || past 350000000)
      && (!s.testSet || s.boot.fetched.contains numBlocks)
  else if s.boot.boot = 9 then
    (List.range numStacks).all (fun n => (s.stack n).st == .failed || s.boot.fetched.contains (200 + n))
      && allBlocks.all (fun n => !(s.fetches n) || s.boot.fetched.contains n) && (links || past 10000000)
  else false

/-- A mailbox found device-owned at a reset or restart completed FAULTED (R383). -/
def State.abortMbx (s : State) (m : Nat) : State :=
  let h := s.host
  if !(h.owned m) then s
  else
    let h1 := (((h.putMbx m 32 (freeBytes s.freeN 4064)).putMbx m 12 (toLE 4 0)).putMbx m 24 (toLE 2 stFaulted)).putMbx m 0 (toLE 4 (256 * h.mbxField m 1 1))
    let s1 := { s with freeN := s.freeN + 1, host := { h1 with
      runs := h1.runs.filter (fun r => r.m != m), hand := h1.hand.filter (fun x => x != m) } }
    if bit (h.mbxField m 6 2) 0 then s1.msix m else s1

/-- All of them, and MBX_RESET_ABORT where there is one (R383). -/
def State.abortMbxs (s : State) (map : Nat) : State :=
  let s1 := (bitsOf 16 map).foldl State.abortMbx s
  if map = 0 then s1 else s1.logEvent ⟨0x0602, lvHost, 0, map, 0, s.now⟩

/-- CORE_DIE_RESET, and the slice stop that goes with it (R487). -/
def State.resetLogged (s : State) (cause : Nat) : State :=
  let s1 := s.logEvent ⟨0x0506, lvChip, 0, cause, 0, s.now⟩
  let r := stopRec s.now s.fab.node 0x0506 0 lvChip s1.host.evseq
  ({ s1 with fab := { s1.fab with stopQ := (0, r) :: s1.fab.stopQ } }).sliceStop

/-- Thallus sets READY. A life-cycle wipe that a loss of power had cut short is done first (R512), and after a reset the
mailboxes are completed and the slice stop started (R383, R487). -/
def State.setReady (s : State) : State :=
  if s.coreUp && !s.boot.halted && !s.pwr.clkOff && s.mayReady then
    let s1 := if s.sec.lastLc = s.sec.fuses.lc then s else s.lcWipe
    let s2 := match s1.boot.resetOf with
      | some c => (s1.abortMbxs s1.boot.mbxAbort).resetLogged c
      | none => s1
    { s2 with boot := { s2.boot with boot := 8, ready := true, warm := false, resetOf := none, mbxAbort := 0 } }
  else s

def execReady (s : State) : Res := .next s.setReady

/-! The end of a Thallus restart (R396, R485). -/

/-- FW_SWITCH completes under the new firmware; with RAISE_SEC the fused minimum rises (R434, R516). -/
def State.switched (s : State) : State :=
  let v := min 64 (fld s.boot.hdr 20 4)
  let s1 := { s with sec := { s.sec with staged := 0 } }
  let s2 := if s.secBit 1 && v > s.sec.fuses.minSec then
      ({ s1 with sec := { s1.sec with fuses := { s1.sec.fuses with minSec := v } } }).emit 0x0B06 lvChip 0 v 0
    else s1
  match s2.host.runs.find? (fun c => c.op == 0x0C01) with
  | some c => s2.finish c stOk ((s.boot.hdr.drop 4).take 8)
  | none => s2

/-- A restart ends: READY returns, mailboxes are completed, and the events held are entered after those of the restart. -/
def State.restarted (s : State) : State :=
  if s.boot.boot = 8 && s.boot.restart && s.coreUp && !s.boot.halted && !s.pwr.clkOff then
    let held := s.boot.heldEv
    let s1 := { s with boot := { s.boot with restart := false, ready := true, switching := false, heldEv := [], mbxAbort := 0 } }
    let s2 := if s.boot.switching then s1.switched
      else
        let s3 := { s1 with boot := { s1.boot with lockEnd := some s.now } }
        (s3.logEvent ⟨0x0601, lvThallus, 0, 0, 0, s.now⟩).abortMbxs s.boot.mbxAbort
    { s2 with events := s2.events ++ held }
  else s

def execThallusRestartComplete (s : State) : Res := .next s.restarted

end Sys2Proof.Machine
end

