-- ==== Sys2Proof/Machine/Pins.lean ====
section
/-! DEFINITION. Cable sideband pins and the SMBus port (R495, R536, R537, R539). -/

namespace Sys2Proof.Machine

/-! Sideband (R495, R539). -/

/-- A change of one port's four links. -/
def State.updPort (s : State) (p : Nat) (f : Link → Link) : State :=
  [0, 1, 2, 3].foldl (fun (t : State) i => t.updLink (4 * p + i) f) s

/-- PORTpp_SB0 counts as its last good level while it is shorted (R539). -/
def State.sb0Bad (s : State) (p : Nat) : Bool := (s.link (4 * p)).sbBad.contains 0

/-- A link whose cable has come: it leaves OFF and trains on the full path, from stage 6 on (R463, R539). -/
def Link.plug (k : Link) (now : Bool) : Link :=
  if k.st = .off && now then
    { k with cable := true, st := .training, goal := if k.goal = .standby then .standby else .up, full := true, gate := false, tries := 0 }
  else { k with cable := true }

/-- SB0 goes low. -/
def State.plugged (s : State) (p : Nat) : State :=
  if s.sb0Bad p then s
  else s.updPort p (fun k => k.plug (decide (s.boot.boot ≥ 6) && decide (s.boot.boot < 14) && s.dieUp (4 * p / 32)))

def execCablePresent (p : Nat) (s : State) : Res := onUnit (p < 16) (s.plugged p)

/-- SB0 goes high: the port holds its links in OFF, and what they held is dropped. -/
def State.unplugged (s : State) (p : Nat) : State :=
  if s.sb0Bad p then s
  else
    ((s.freeSlots ([0, 1, 2, 3].flatMap (fun i => (s.link (4 * p + i)).tx.map TxP.p))).updPort p (fun k => { k with
      cable := false, st := .off, goal := .up, tx := [], sample := none, gate := false, tries := 0, retrain := none })).dirCheck

def execCableRemoved (p : Nat) (s : State) : Res := onUnit (p < 16) (s.unplugged p)

/-- A sideband pin has been shorted for 1 ms (R495). -/
def State.sideShort (s : State) (p pin : Nat) : State :=
  if !s.crustUp || (s.link (4 * p)).sbBad.contains pin then s
  else (s.updPort p (fun k => { k with sbBad := k.sbBad ++ [pin] })).emit 0x020C lvLink (4 * p) (p + 65536 * pin) 0

def execSidebandShort (p pin : Nat) (s : State) : Res := onUnit (p < 16 && pin < 4) (s.sideShort p pin)

/-! SMBus (R536, R537, Table 20-9). -/

/-- The part's own address. -/
def State.smbAddr (s : State) : Nat := 0x58 + s.pwr.smbAddr

/-- The register that a command code names, and the state after reading it: the package power is a sensor's, a free value. -/
def State.smbReg (s : State) (code : Nat) : Option (List Byte × State) :=
  match code with
  | 1 => some (toLE 4 s.crustStatus, s)
  | 2 => some (toLE 8 s.host.summary, s)
  | 3 => some (toLE 2 (unsigned 16 (hottest (s.pwr.coreT ++ s.pwr.dieT)).2), s)
  | 4 => some (toLE 4 s.host.hbCount, s)
  | 5 => some (toLE 4 s.draw.1, s.draw.2)
  | 6 => some (toLE 16 s.sec.fuses.serial, s)
  | _ => none

def State.smbNack (s : State) : State := { s with smb := none, out := s.out ++ [Out.smbus none] }

/-- The PEC byte of a block read (R536): the CRC-8 of System Management Bus 3.1 over the address byte of the write, the command code,
the address byte of the read, the byte count and the data (log entry 135). -/
def State.smbPec (s : State) (code : Nat) (bs : List Byte) : Byte :=
  BitVec.ofNat 8 (crc8 (toLE 1 (2 * s.smbAddr) ++ toLE 1 code ++ toLE 1 (2 * s.smbAddr + 1) ++ toLE 1 bs.length ++ bs))

/-- A transaction to the part's address: a block read, its register latched whole, with the PEC byte for a host that reads on, or a
NACK of a write or of a code not listed. -/
def State.smbus (s : State) (code : Nat) (wr : Bool) : State :=
  if !s.crustUp then s
  else if wr then s.smbNack
  else
    match s.smbReg code with
    | none => s.smbNack
    | some (bs, t) => { t with smb := some bs, out := t.out ++ [Out.smbus (some (toLE 1 bs.length ++ bs ++ [s.smbPec code bs]))] }

def execSmbusCommand (code : Nat) (wr : Bool) (s : State) : Res := .next (s.smbus code wr)

/-- A read of the alert response address 0x0C. -/
def State.smbArp (s : State) : State :=
  if !s.crustUp then s
  else if s.smbAlert then { s with smb := none, out := s.out ++ [Out.smbus (some (toLE 1 s.smbAddr))] }
  else s.smbNack

def execSmbusAlertResponse (s : State) : Res := .next s.smbArp

/-- The transaction under way is abandoned. -/
def State.smbDrop (s : State) : State := if s.crustUp then { s with smb := none } else s

def execSmbusTimeout (s : State) : Res := .next s.smbDrop

end Sys2Proof.Machine
end

