-- ==== Sys2Proof/Machine/CmdEnd.lean ====
section
/-! DEFINITION. How a mailbox command ends, and its deadline (R380, R387, R401, R414, R434). -/

namespace Sys2Proof.Machine

/-- The answer that an ending put into the command. -/
def State.answered (s : State) (m : Nat) : Option (State × Nat × List Byte) :=
  match s.cmd m with
  | some c => c.ans.map (fun a => (s, a.1, a.2))
  | none => none

/-- What a command that has not answered yet ends with, once it can: the state, its status and results. -/
def State.ending (s : State) (c : Cmd) : Option (State × Nat × List Byte) :=
  let plain (a : Option (Nat × List Byte)) : Option (State × Nat × List Byte) := a.map (fun x => (s, x.1, x.2))
  match c.op with
  | 0x0200 | 0x0201 | 0x0202 | 0x0203 => plain (s.pwrEnd c)
  | 0x0301 => if s.wipeEnds c then (s.wipeDone c).answered c.m else none
  | 0x0402 => plain s.segEnd
  | 0x0403 => s.castEnd
  | 0x0404 => plain (s.startEnd c)
  | 0x0405 => plain (s.stopEnd c)
  | 0x0605 => plain (s.retrainEnd c)
  | 0x0A01 => plain ((s.clearAns (fld c.pars 2 2)).map (fun bs => (stOk, bs)))
  | 0x0B01 => if decide (s.now ≥ c.keep.getD 0 0) then (s.lcDone c).answered c.m else none
  | _ => none

/-- Does FLT_INJECT of kind 5 follow (R430)? -/
def Cmd.injects5 (c : Cmd) (st : Nat) : Bool := c.op == 0x0A02 && fld c.pars 4 2 == 5 && st == stOk

/-- A command that has its answer, or whose work has come to its end, completes. -/
def State.cmdDone (s : State) (m : Nat) : State :=
  match s.cmd m with
  | none => s
  | some c =>
    if !s.thallusUp then s
    else
      match (match c.ans with | some a => some (s, a.1, a.2) | none => if c.begun then s.ending c else none) with
      | none => s
      | some (t, st, res) =>
        let t1 := t.finish c st res
        if c.injects5 st then t1.lockstep else t1

def execCommandCompletion (m : Nat) (s : State) : Res := onUnit (m < 16) (s.cmdDone m)

/-- An interruptible command stopped at its deadline: its results so far (Table of R401; R409, R414, R416, R434). -/
def State.stopLate (s : State) (c : Cmd) : State :=
  match c.op with
  | 0x0302 | 0x0303 => s.answer c.m stLate (toLE 4 0)
  | 0x0305 => s.answer c.m stLate (toLE 32 0)
  | 0x0403 =>
    if c.begun && s.fab.cast.any (fun k => !k.source && !k.missing.isEmpty) then
      let r := s.closeLate
      r.2.answer c.m stPartial r.1
    else s.answer c.m stLate []
  | 0x0405 => s.answer c.m stLate (s.stopMaps c)
  | 0x0C00 => ({ s with sec := { s.sec with staged := 2 } }).answer c.m stLate []
  | _ => s.answer c.m stLate []

/-- STC reaches DEADLINE before the command completes (R387): a non-interruptible one runs on, any other stops; the miss is
reported (R369). A command that a check has already ended keeps its status (R381; log entry 43). -/
def State.mbxDeadline (s : State) (m : Nat) : State :=
  match s.cmd m with
  | none => s
  | some c =>
    if c.dl = 0 || c.late || s.now < c.dl || !s.thallusUp || c.ans.any (fun x => x.1 != stOk) then s
    else
      let s1 := s.updCmd m (fun c => { c with late := true })
      let s2 := if uninterrupted.contains c.op || c.ans.isSome then s1 else s1.stopLate c
      s2.miss lvHost m 0 (s.dlRec c.dl 3 0 [s.fab.node] (m * 4096 + c.seq))

def execMailboxDeadline (m : Nat) (s : State) : Res := onUnit (m < 16) (s.mbxDeadline m)

end Sys2Proof.Machine
end

