-- ==== Sys2Proof/Machine/Clock.lean ====
section
/-! DEFINITION. One CRUST_CLK cycle: what counts and drains without a command (R194, R240 to R243, R276, R362, R395, R446).
It is what a step does on an empty queue (log entry 1). -/

namespace Sys2Proof.Machine

/-- HEARTBEAT_AGE counts milliseconds of CRUST_CLK, 50,000 cycles each (Table 14-2). -/
def HostS.ageTick (h : HostS) : HostS :=
  if h.hbPart + 1 ≥ 50000 then { h with hbPart := 0, hbAge := min 0xFFFFFFFF (h.hbAge + 1) } else { h with hbPart := h.hbPart + 1 }

/-- SUE_CLK cycles in one CRUST_CLK cycle (Tables 16-1, 16-2). -/
def PwrS.sueCycles (p : PwrS) : Nat := p.sp.1 / p.sp.2

/-- A block's counts: its watchdog (R194), and how long an ended block has had its clock for nothing (R446). -/
def State.blockTick (s : State) (c n : Nat) : State :=
  let b := s.block n
  if !(s.clockOn n) || !s.coreUp || s.pwr.clkOff then s
  else if b.st = .running && b.run.wdog ≠ 0 && !(s.wdHeld n) then s.updBlock n (fun b => { b with wd := b.wd + c })
  else if (b.st == .done || b.st == .stopped || b.st == .faulted) && b.jobs.isEmpty then
    s.updBlock n (fun b => { b with idle := b.idle + c })
  else s

/-- Bursts that a pseudo-channel carries in one CRUST_CLK cycle: 2.56 TB/s over 64 of them is 0.8 ns a burst (R227). -/
def slotsPerTick : Nat := 25

/-- Slots in which a pseudo-channel does nothing. -/
def idleHist (n h : Nat) : Nat := h * 2 ^ min 64 n % 2 ^ 64

/-- The controllers of an ACTIVE stack serve their queues for `n` slots (R240 to R243); then whole lines that waited for room
leave the buffer (R238). -/
def Stack.slots (n : Nat) (k : Stack) (now : Nat) : Stack :=
  let busy := (List.range 64).filter (fun pc => k.reqs.any (fun r => (place r.off).pc == pc))
  let k1 : Stack := { k with
    hist := (k.hist.zip (List.range 64)).map (fun x => if busy.contains x.2 then x.1 else idleHist n x.1) }
  let k2 := (List.range n).foldl (fun kk _ =>
    let k3 := busy.foldl (fun k4 pc => k4.serveSlot now pc) kk
    { k3 with slotN := k3.slotN + 1 }) k1
  k2.refill now

/-- A stack's counts: its queues, and the pass of its engine while issue is not paused (R452). The base die runs on through a
core-die reset (R239). -/
def State.stackTick (s : State) (n : Nat) : State :=
  let k := s.stack n
  if k.st ≠ .active || s.pwr.clkOff then s
  else
    let idle := k.reqs.isEmpty && k.wcb.isEmpty
    let k1 : Stack := if idle then { k with slotN := k.slotN + slotsPerTick, hist := k.hist.map (idleHist slotsPerTick) }
      else k.slots slotsPerTick s.now
    let k2 := if s.issueOn then k1.passTick s.now s.pwr.sueCycles else k1
    s.putSue n k2

/-- One CRUST_CLK cycle; nothing counts while Crust does not run. -/
def State.tick (s : State) : State :=
  if !s.crustUp then s
  else
    let s1 := { s with
      time := { s.time with stc := (s.time.stc + s.time.inc).toNat }
      host := { s.host.ageTick with sumNow := 0, handNow := 0 } }
    let s2 := (List.range numBlocks).foldl (fun t n => t.blockTick s.pwr.blockCycles n) s1
    (List.range numStacks).foldl State.stackTick s2

end Sys2Proof.Machine
end

