-- ==== Sys2Proof/Machine/Dispatch.lean ====
section
/-! DEFINITION. Which meaning each command has. -/

namespace Sys2Proof.Machine

def exec (i : Instr) (s : State) : Host.Outcome State Fault Refusal :=
  match i with
  | .instructionDecode b q => Sys2Proof.Machine.execInstructionDecode b q s
  | .loop b q => Sys2Proof.Machine.execLoop b q s
  | .tokWait b q => Sys2Proof.Machine.execTokWait b q s
  | .tokSig b q => Sys2Proof.Machine.execTokSig b q s
  | .tokenMessage src dst => Sys2Proof.Machine.execTokenMessage src dst s
  | .ctxMark b c => Sys2Proof.Machine.execCtxMark b c s
  | .descSet b => Sys2Proof.Machine.execDescSet b s
  | .descSetAdd b => Sys2Proof.Machine.execDescSetAdd b s
  | .descSetLcr b => Sys2Proof.Machine.execDescSetLcr b s
  | .descSetVimm b => Sys2Proof.Machine.execDescSetVimm b s
  | .ld b => Sys2Proof.Machine.execLd b s
  | .st b => Sys2Proof.Machine.execSt b s
  | .gth b => Sys2Proof.Machine.execGth b s
  | .sca b => Sys2Proof.Machine.execSca b s
  | .collRs b transit => Sys2Proof.Machine.execCollRs b transit s
  | .collAg b transit => Sys2Proof.Machine.execCollAg b transit s
  | .collAr b transit => Sys2Proof.Machine.execCollAr b transit s
  | .collBc b transit => Sys2Proof.Machine.execCollBc b transit s
  | .collA2a b transit => Sys2Proof.Machine.execCollA2a b transit s
  | .collShift b transit => Sys2Proof.Machine.execCollShift b transit s
  | .mmMul b c => Sys2Proof.Machine.execMmMul b c s
  | .mmL1 b c => Sys2Proof.Machine.execMmL1 b c s
  | .mmL2sq b c => Sys2Proof.Machine.execMmL2sq b c s
  | .mmMaxp b c => Sys2Proof.Machine.execMmMaxp b c s
  | .mmMinp b c => Sys2Proof.Machine.execMmMinp b c s
  | .bld b c => Sys2Proof.Machine.execBld b c s
  | .shadowLoadComplete b => Sys2Proof.Machine.execShadowLoadComplete b s
  | .swp b c => Sys2Proof.Machine.execSwp b c s
  | .strmPassStart b => Sys2Proof.Machine.execStrmPassStart b s
  | .packHoldExpiry b => Sys2Proof.Machine.execPackHoldExpiry b s
  | .slabVerdict b => Sys2Proof.Machine.execSlabVerdict b s
  | .drainComplete b => Sys2Proof.Machine.execDrainComplete b s
  | .spl b c => Sys2Proof.Machine.execSpl b c s
  | .spillComplete b => Sys2Proof.Machine.execSpillComplete b s
  | .rsm b c => Sys2Proof.Machine.execRsm b c s
  | .cvt b c => Sys2Proof.Machine.execCvt b c s
  | .qPush b c => Sys2Proof.Machine.execQPush b c s
  | .qPop b c => Sys2Proof.Machine.execQPop b c s
  | .queueEntryCommit b qn ent => Sys2Proof.Machine.execQueueEntryCommit b qn ent s
  | .vopAdd b c => Sys2Proof.Machine.execVopAdd b c s
  | .vopSub b c => Sys2Proof.Machine.execVopSub b c s
  | .vopMul b c => Sys2Proof.Machine.execVopMul b c s
  | .vopFma b c => Sys2Proof.Machine.execVopFma b c s
  | .vopMax b c => Sys2Proof.Machine.execVopMax b c s
  | .vopMin b c => Sys2Proof.Machine.execVopMin b c s
  | .vopAbs b c => Sys2Proof.Machine.execVopAbs b c s
  | .vopNeg b c => Sys2Proof.Machine.execVopNeg b c s
  | .vopDiv b c => Sys2Proof.Machine.execVopDiv b c s
  | .vopSqrt b c => Sys2Proof.Machine.execVopSqrt b c s
  | .vopRcp b c => Sys2Proof.Machine.execVopRcp b c s
  | .vopRsqrt b c => Sys2Proof.Machine.execVopRsqrt b c s
  | .vopExp b c => Sys2Proof.Machine.execVopExp b c s
  | .vopExp2 b c => Sys2Proof.Machine.execVopExp2 b c s
  | .vopLog b c => Sys2Proof.Machine.execVopLog b c s
  | .vopLog2 b c => Sys2Proof.Machine.execVopLog2 b c s
  | .vopTanh b c => Sys2Proof.Machine.execVopTanh b c s
  | .vopSigm b c => Sys2Proof.Machine.execVopSigm b c s
  | .vopCmpEq b c => Sys2Proof.Machine.execVopCmpEq b c s
  | .vopCmpNe b c => Sys2Proof.Machine.execVopCmpNe b c s
  | .vopCmpLt b c => Sys2Proof.Machine.execVopCmpLt b c s
  | .vopCmpLe b c => Sys2Proof.Machine.execVopCmpLe b c s
  | .vopSel b c => Sys2Proof.Machine.execVopSel b c s
  | .vopRsum b c => Sys2Proof.Machine.execVopRsum b c s
  | .vopRmax b c => Sys2Proof.Machine.execVopRmax b c s
  | .vopRmin b c => Sys2Proof.Machine.execVopRmin b c s
  | .vopRssq b c => Sys2Proof.Machine.execVopRssq b c s
  | .vopAcc b c => Sys2Proof.Machine.execVopAcc b c s
  | .vopMset b c => Sys2Proof.Machine.execVopMset b c s
  | .rowLnF b c => Sys2Proof.Machine.execRowLnF b c s
  | .rowLnB b c => Sys2Proof.Machine.execRowLnB b c s
  | .rowRmsF b c => Sys2Proof.Machine.execRowRmsF b c s
  | .rowRmsB b c => Sys2Proof.Machine.execRowRmsB b c s
  | .rowSmF b c => Sys2Proof.Machine.execRowSmF b c s
  | .rowSmB b c => Sys2Proof.Machine.execRowSmB b c s
  | .rowSmCh b c => Sys2Proof.Machine.execRowSmCh b c s
  | .rowSmMrg b c => Sys2Proof.Machine.execRowSmMrg b c s
  | .rowGet b c => Sys2Proof.Machine.execRowGet b c s
  | .rowSt b c => Sys2Proof.Machine.execRowSt b c s
  | .rowLd b c => Sys2Proof.Machine.execRowLd b c s
  | .completionEvent b job => Sys2Proof.Machine.execCompletionEvent b job s
  | .errorCompletion b job => Sys2Proof.Machine.execErrorCompletion b job s
  | .streamHang b => Sys2Proof.Machine.execStreamHang b s
  | .nocTransferDelivery src dst bad => Sys2Proof.Machine.execNocTransferDelivery src dst bad s
  | .nocE2e b => Sys2Proof.Machine.execNocE2e b s
  | .regionStoreAccess r wr off len data => Sys2Proof.Machine.execRegionStoreAccess r wr off len data s
  | .scratchpadScrubTick b => Sys2Proof.Machine.execScratchpadScrubTick b s
  | .secureWipeComplete b => Sys2Proof.Machine.execSecureWipeComplete b s
  | .blockStartMessage b => Sys2Proof.Machine.execBlockStartMessage b s
  | .blockClockRampComplete b => Sys2Proof.Machine.execBlockClockRampComplete b s
  | .blockClockGate b => Sys2Proof.Machine.execBlockClockGate b s
  | .pinRequest b h => Sys2Proof.Machine.execPinRequest b h s
  | .pinGrant b h => Sys2Proof.Machine.execPinGrant b h s
  | .pinRefused b h => Sys2Proof.Machine.execPinRefused b h s
  | .pinRelease b h => Sys2Proof.Machine.execPinRelease b h s
  | .triggerWrite n layer w => Sys2Proof.Machine.execTriggerWrite n layer w s
  | .suePassStart n => Sys2Proof.Machine.execSuePassStart n s
  | .suePassEnd n => Sys2Proof.Machine.execSuePassEnd n s
  | .stepWordWrite n w => Sys2Proof.Machine.execStepWordWrite n w s
  | .stepClose n => Sys2Proof.Machine.execStepClose n s
  | .rollbackComplete n layer => Sys2Proof.Machine.execRollbackComplete n layer s
  | .layerUpdateDeadline n layer => Sys2Proof.Machine.execLayerUpdateDeadline n layer s
  | .pinDeadline n layer => Sys2Proof.Machine.execPinDeadline n layer s
  | .scaRowApply n => Sys2Proof.Machine.execScaRowApply n s
  | .stackRequest n cls wr off len => Sys2Proof.Machine.execStackRequest n cls wr off len s
  | .stackWriteAccept n off data => Sys2Proof.Machine.execStackWriteAccept n off data s
  | .wcbLineTimeout n line => Sys2Proof.Machine.execWcbLineTimeout n line s
  | .writePromotion n ch => Sys2Proof.Machine.execWritePromotion n ch s
  | .channelDirectionSwitch n ch => Sys2Proof.Machine.execChannelDirectionSwitch n ch s
  | .stackRefresh n => Sys2Proof.Machine.execStackRefresh n s
  | .stackTemperatureSample n t => Sys2Proof.Machine.execStackTemperatureSample n t s
  | .patrolScrub n => Sys2Proof.Machine.execPatrolScrub n s
  | .selfRefreshEntry n => Sys2Proof.Machine.execSelfRefreshEntry n s
  | .stackWake n => Sys2Proof.Machine.execStackWake n s
  | .linkSlotTransmit l => Sys2Proof.Machine.execLinkSlotTransmit l s
  | .packetIngress l p rx => Sys2Proof.Machine.execPacketIngress l p rx s
  | .controlSlotReceive l bs rx => Sys2Proof.Machine.execControlSlotReceive l bs rx s
  | .linkDown l => Sys2Proof.Machine.execLinkDown l s
  | .packetInjection d => Sys2Proof.Machine.execPacketInjection d s
  | .endpointReceive d => Sys2Proof.Machine.execEndpointReceive d s
  | .ackTimer d node => Sys2Proof.Machine.execAckTimer d node s
  | .ackReceive d => Sys2Proof.Machine.execAckReceive d s
  | .resendTimeout d node => Sys2Proof.Machine.execResendTimeout d node s
  | .errReceive d => Sys2Proof.Machine.execErrReceive d s
  | .respReceive d => Sys2Proof.Machine.execRespReceive d s
  | .collHeadReceive a => Sys2Proof.Machine.execCollHeadReceive a s
  | .collDataReceive a => Sys2Proof.Machine.execCollDataReceive a s
  | .collFlagReceive a => Sys2Proof.Machine.execCollFlagReceive a s
  | .collCloseReceive a => Sys2Proof.Machine.execCollCloseReceive a s
  | .collAbortReceive a => Sys2Proof.Machine.execCollAbortReceive a s
  | .collCompletion a cseq => Sys2Proof.Machine.execCollCompletion a cseq s
  | .closingCollective => Sys2Proof.Machine.execClosingCollective s
  | .collDeadline a cseq => Sys2Proof.Machine.execCollDeadline a cseq s
  | .stcSyncRound => Sys2Proof.Machine.execStcSyncRound s
  | .stcSeedTimeout => Sys2Proof.Machine.execStcSeedTimeout s
  | .deadlineRecordReceive => Sys2Proof.Machine.execDeadlineRecordReceive s
  | .sliceStopRecordReceive => Sys2Proof.Machine.execSliceStopRecordReceive s
  | .sliceStop => Sys2Proof.Machine.execSliceStop s
  | .eventLogEntry => Sys2Proof.Machine.execEventLogEntry s
  | .evtIrqGapExpiry => Sys2Proof.Machine.execEvtIrqGapExpiry s
  | .correctedSummary level unit kind => Sys2Proof.Machine.execCorrectedSummary level unit kind s
  | .mbxHandoff m off data => Sys2Proof.Machine.execMbxHandoff m off data s
  | .thallusWake => Sys2Proof.Machine.execThallusWake s
  | .commandCompletion m => Sys2Proof.Machine.execCommandCompletion m s
  | .mailboxDeadline m => Sys2Proof.Machine.execMailboxDeadline m s
  | .mailboxWrite m off data => Sys2Proof.Machine.execMailboxWrite m off data s
  | .faultSummaryWrite v => Sys2Proof.Machine.execFaultSummaryWrite v s
  | .hostHbWrite v => Sys2Proof.Machine.execHostHbWrite v s
  | .evtTailWrite v => Sys2Proof.Machine.execEvtTailWrite v s
  | .stcNowRead off size => Sys2Proof.Machine.execStcNowRead off size s
  | .registerWrite off size v => Sys2Proof.Machine.execRegisterWrite off size v s
  | .bar2Access wr off len data => Sys2Proof.Machine.execBar2Access wr off len data s
  | .functionLevelReset => Sys2Proof.Machine.execFunctionLevelReset s
  | .heartbeat => Sys2Proof.Machine.execHeartbeat s
  | .hostSilent => Sys2Proof.Machine.execHostSilent s
  | .devIdentify m => Sys2Proof.Machine.execDevIdentify m s
  | .devGrade m => Sys2Proof.Machine.execDevGrade m s
  | .devFwVersion m => Sys2Proof.Machine.execDevFwVersion m s
  | .devHeartbeat m => Sys2Proof.Machine.execDevHeartbeat m s
  | .pwrChipState m => Sys2Proof.Machine.execPwrChipState m s
  | .pwrRegionState m => Sys2Proof.Machine.execPwrRegionState m s
  | .pwrStackState m => Sys2Proof.Machine.execPwrStackState m s
  | .pwrLinkState m => Sys2Proof.Machine.execPwrLinkState m s
  | .pwrQuery m => Sys2Proof.Machine.execPwrQuery m s
  | .memMapWindow m => Sys2Proof.Machine.execMemMapWindow m s
  | .memWipe m => Sys2Proof.Machine.execMemWipe m s
  | .memFill m => Sys2Proof.Machine.execMemFill m s
  | .memCopy m dma => Sys2Proof.Machine.execMemCopy m dma s
  | .memScrubSet m => Sys2Proof.Machine.execMemScrubSet m s
  | .memReadBack m => Sys2Proof.Machine.execMemReadBack m s
  | .prgLoad m dma => Sys2Proof.Machine.execPrgLoad m dma s
  | .prgCastOpen m => Sys2Proof.Machine.execPrgCastOpen m s
  | .prgCastSegment m dma => Sys2Proof.Machine.execPrgCastSegment m dma s
  | .prgCastClose m => Sys2Proof.Machine.execPrgCastClose m s
  | .prgStart m => Sys2Proof.Machine.execPrgStart m s
  | .prgStop m => Sys2Proof.Machine.execPrgStop m s
  | .prgStatus m => Sys2Proof.Machine.execPrgStatus m s
  | .descWrite m => Sys2Proof.Machine.execDescWrite m s
  | .fabProfile m => Sys2Proof.Machine.execFabProfile m s
  | .fabLinkStatus m => Sys2Proof.Machine.execFabLinkStatus m s
  | .fabSliceSet m => Sys2Proof.Machine.execFabSliceSet m s
  | .fabSliceClear m => Sys2Proof.Machine.execFabSliceClear m s
  | .fabAcceptWiring m => Sys2Proof.Machine.execFabAcceptWiring m s
  | .fabRetrainLink m => Sys2Proof.Machine.execFabRetrainLink m s
  | .fabTransitOnly m => Sys2Proof.Machine.execFabTransitOnly m s
  | .stcRead m => Sys2Proof.Machine.execStcRead m s
  | .stcSetEpoch m => Sys2Proof.Machine.execStcSetEpoch m s
  | .stcSetEpochSeed m => Sys2Proof.Machine.execStcSetEpochSeed m s
  | .deadlinePolicy m => Sys2Proof.Machine.execDeadlinePolicy m s
  | .sueLoadRule m => Sys2Proof.Machine.execSueLoadRule m s
  | .sueBindLayer m => Sys2Proof.Machine.execSueBindLayer m s
  | .sueUnbindLayer m => Sys2Proof.Machine.execSueUnbindLayer m s
  | .sueVersionState m => Sys2Proof.Machine.execSueVersionState m s
  | .sueScaleMode m => Sys2Proof.Machine.execSueScaleMode m s
  | .sueRollback m => Sys2Proof.Machine.execSueRollback m s
  | .sueStatsRead m => Sys2Proof.Machine.execSueStatsRead m s
  | .telCounters m dmaOk => Sys2Proof.Machine.execTelCounters m dmaOk s
  | .telSensors m => Sys2Proof.Machine.execTelSensors m s
  | .telClear m => Sys2Proof.Machine.execTelClear m s
  | .fltRead m => Sys2Proof.Machine.execFltRead m s
  | .fltClear m => Sys2Proof.Machine.execFltClear m s
  | .fltInject m => Sys2Proof.Machine.execFltInject m s
  | .blkGradeDown m => Sys2Proof.Machine.execBlkGradeDown m s
  | .secAttest m => Sys2Proof.Machine.execSecAttest m s
  | .secLifecycle m => Sys2Proof.Machine.execSecLifecycle m s
  | .secOwnerKey m => Sys2Proof.Machine.execSecOwnerKey m s
  | .fwStage m dma => Sys2Proof.Machine.execFwStage m dma s
  | .fwSwitch m => Sys2Proof.Machine.execFwSwitch m s
  | .setRead m dmaOk => Sys2Proof.Machine.execSetRead m dmaOk s
  | .setWrite m dma => Sys2Proof.Machine.execSetWrite m dma s
  | .thallusLockstep => Sys2Proof.Machine.execThallusLockstep s
  | .thallusRestartComplete => Sys2Proof.Machine.execThallusRestartComplete s
  | .pwrGoodRise oscWait smbAddr => Sys2Proof.Machine.execPwrGoodRise oscWait smbAddr s
  | .oscWaitExpiry low => Sys2Proof.Machine.execOscWaitExpiry low s
  | .resetNLow => Sys2Proof.Machine.execResetNLow s
  | .warmReset => Sys2Proof.Machine.execWarmReset s
  | .packageReset cause => Sys2Proof.Machine.execPackageReset cause s
  | .coreDieReset rail => Sys2Proof.Machine.execCoreDieReset rail s
  | .supplyWarn rail => Sys2Proof.Machine.execSupplyWarn rail s
  | .supplyResume => Sys2Proof.Machine.execSupplyResume s
  | .supplyHigh rail => Sys2Proof.Machine.execSupplyHigh rail s
  | .thermalSample core dies => Sys2Proof.Machine.execThermalSample core dies s
  | .tripClockStop => Sys2Proof.Machine.execTripClockStop s
  | .tripStackStop n => Sys2Proof.Machine.execTripStackStop n s
  | .oscillatorStop => Sys2Proof.Machine.execOscillatorStop s
  | .keepAliveLoss d => Sys2Proof.Machine.execKeepAliveLoss d s
  | .linkReferenceStop d => Sys2Proof.Machine.execLinkReferenceStop d s
  | .linkDieLost d => Sys2Proof.Machine.execLinkDieLost d s
  | .chipTransitionComplete => Sys2Proof.Machine.execChipTransitionComplete s
  | .regionTransitionComplete r => Sys2Proof.Machine.execRegionTransitionComplete r s
  | .linkTransitionComplete l => Sys2Proof.Machine.execLinkTransitionComplete l s
  | .fuseReadComplete ok => Sys2Proof.Machine.execFuseReadComplete ok s
  | .romBootComplete ok => Sys2Proof.Machine.execRomBootComplete ok s
  | .flashDiscovery f0 f1 => Sys2Proof.Machine.execFlashDiscovery f0 f1 s
  | .firmwareVerify => Sys2Proof.Machine.execFirmwareVerify s
  | .settingsVerify => Sys2Proof.Machine.execSettingsVerify s
  | .linkTrainerStart l t => Sys2Proof.Machine.execLinkTrainerStart l t s
  | .linkGateVerdict l corrected uncorr slot => Sys2Proof.Machine.execLinkGateVerdict l corrected uncorr slot s
  | .memoryTrainingComplete n fail => Sys2Proof.Machine.execMemoryTrainingComplete n fail s
  | .ready => Sys2Proof.Machine.execReady s
  | .blockFetch b => Sys2Proof.Machine.execBlockFetch b s
  | .blockTest fails => Sys2Proof.Machine.execBlockTest fails s
  | .castSegmentReceive => Sys2Proof.Machine.execCastSegmentReceive s
  | .castFetchReceive => Sys2Proof.Machine.execCastFetchReceive s
  | .castRefuseReceive => Sys2Proof.Machine.execCastRefuseReceive s
  | .tamperEvent sensor => Sys2Proof.Machine.execTamperEvent sensor s
  | .hostDebugAccess b wr off len data => Sys2Proof.Machine.execHostDebugAccess b wr off len data s
  | .jtagAccess ir v => Sys2Proof.Machine.execJtagAccess ir v s
  | .cablePresent p => Sys2Proof.Machine.execCablePresent p s
  | .sidebandShort p pin => Sys2Proof.Machine.execSidebandShort p pin s
  | .smbusCommand code wr => Sys2Proof.Machine.execSmbusCommand code wr s
  | .smbusAlertResponse => Sys2Proof.Machine.execSmbusAlertResponse s
  | .smbusTimeout => Sys2Proof.Machine.execSmbusTimeout s
  | .coreDieResetRelease => Sys2Proof.Machine.execCoreDieResetRelease s
  | .resetLevelRelease => Sys2Proof.Machine.execResetLevelRelease s
  | .cableRemoved p => Sys2Proof.Machine.execCableRemoved p s

end Sys2Proof.Machine
end

