-- ==== Sys2Proof/Safety.lean ====
section
/-! DEFINITION. What claims about runs are stated in: the shape of a state, its canonical stores, and states that steps
reach. -/

namespace Sys2Proof.Machine

/-- A state holds every unit that the part has (R9, R12, R227, R315). -/
def State.shape (s : State) : Bool :=
  s.blocks.length == numBlocks && s.regions.length == 4 && s.stks.length == numStacks && s.fab.links.length == numLinks
    && s.fab.endps.length == 2 && s.fab.acus.length == 8 && s.fab.box.length == 8

/-- Every store of a block is in its canonical form. -/
def Block.storesWf (b : Block) : Bool := b.spad.wf && b.acc.wf && b.sideV.wf && b.sideT.wf

/-- Every store of the part is in its canonical form. -/
def State.storesWf (s : State) : Bool :=
  s.blocks.all Block.storesWf && s.regions.all (fun r => r.store.wf) && s.stks.all (fun k => k.mem.wf) && s.host.mbx.wf
    && s.host.ring.wf && s.host.msixT.wf && s.sec.flash.all (fun f => f.mem.wf) && s.fab.cast.all (fun c => c.image.wf)

/-- `t` is reached from `s` by steps that answer a next state. -/
inductive Reaches : State → State → Prop
  | refl (s : State) : Reaches s s
  | step {s t u : State} : Reaches s t → step t = .next u → Reaches s u

/-- Word `w` waits in sequence `q` of block `n`, and the block may issue it (R19, R155, R169, R170). -/
abbrev State.ready (s : State) (n : Nat) (q : Seq) (w : Nat) : Prop :=
  n < 144 ∧ s.mayIssue n q = true ∧ ((s.block n).seqr q).word = some w ∧ (s.block n).waitsWipe q w = false

/-- Block `n` put back as `b` by an issue: its watchdog restarts (R194) and the end of its run is taken (R166). -/
def State.issued (s : State) (n : Nat) (b : Block) : State := (s.putBlock n { b with wd := 0 }).checkDone n

/-- Command `c` of mailbox `m` waits for its row, and Thallus serves (R379, R385). -/
abbrev State.waitsRow (s : State) (m op : Nat) (c : Cmd) : Prop :=
  m < 16 ∧ s.cmd m = some c ∧ c.m = m ∧ c.op = op ∧ c.begun = false ∧ c.ans = none ∧ s.thallusUp = true

/-- The command of mailbox `m` has begun. -/
def State.began (s : State) (m : Nat) : State := s.updCmd m (fun c => { c with begun := true })

end Sys2Proof.Machine
end

