-- ==== Sys2Proof/Certificates/Slice0/Obligations.lean ====
section
/-! DEFINITION. The statements for the provers: what each command does, what each leaves, and what every step keeps. -/

open Sys2Proof Sys2Proof.Machine

/-! The queue of commands. -/

/-- A step takes the command at the front of the queue and runs it on the state with the rest of the queue. -/
def Obligations.StepRunsFrontCommand : Prop :=
  ∀ (s : State) (c : Instr) (rest : List Instr), s.pending = c :: rest → step s = exec c { s with pending := rest }

/-! Streams of a block (chapters 7 and 8). -/

/-- INSTRUCTION_DECODE (R198 to R200): a word that breaks a rule stops the block with that rule's fault, an ENDL folds into
its loops, and any other word is held for issue. -/
def Obligations.DecodeHoldsFoldsOrFaults : Prop :=
  ∀ (s : State) (n : Nat) (q : Seq),
    n < 144 → s.canIssue n = true → (s.block n).ended q = false → ((s.block n).seqr q).word = none →
    let b := s.block n
    let iw := b.iword q (b.seqr q).pc
    (∀ e, decodeFault (s.vecBlock n) b q iw = some e →
      exec (.instructionDecode n q) s = .next (s.blockFault n (srcOf q) (b.seqr q).pc e)) ∧
    (decodeFault (s.vecBlock n) b q iw = none → opOf q iw.w = .endl →
      exec (.instructionDecode n q) s = .next ((s.updBlock n (fun b => foldEndl 5 b q)).checkDone n)) ∧
    (decodeFault (s.vecBlock n) b q iw = none → opOf q iw.w ≠ .endl →
      exec (.instructionDecode n q) s = .next (s.updBlock n (fun b => b.setSeqr q { b.seqr q with word := some iw.w })))

/-- LOOP (R222 to R224): a count of 0 skips the body and its ENDL; a fifth level stops the block; otherwise the body's first
and last words and the count go on the loop stack. -/
def claimLoopEntersSkipsOrFaults : Prop :=
  ∀ (s : State) (n : Nat) (q : Seq) (w : Nat), s.ready n q w → opOf q w = .loop →
    let b := s.block n
    let r := b.seqr q
    let last := r.pc + bits w 12 12 + 1
    let cnt := if bit w 48 then b.lcr.getD (bits w 24 3) 0 else bits w 24 24
    (cnt = 0 → exec (.loop n q) s =
      .next (s.issued n (foldEndl 5 (b.setSeqr q { r with pc := last + 1, word := none }) q))) ∧
    (cnt ≠ 0 → r.loops.length < 4 → exec (.loop n q) s =
      .next (s.issued n (foldEndl 5 (b.setSeqr q ⟨r.pc + 1, ⟨r.pc + 1, last, cnt⟩ :: r.loops, none⟩) q))) ∧
    (cnt ≠ 0 → 4 ≤ r.loops.length → exec (.loop n q) s = .next (s.blockFault n (srcOf q) r.pc (ErrI.of 0x0A)))

/-- TOK.WAIT (R179, R180): it takes its count from the token once the token holds it and what the waits served before it take,
and waits until then; nothing is served before the A-stream's. -/
def claimTokWaitTakesOrWaits : Prop :=
  ∀ (s : State) (n : Nat) (q : Seq) (w : Nat), s.ready n q w → opOf q w = .tokWait →
    let b := s.block n
    let v := b.toks.getD (bits w 43 6) 0
    let left := b.leftFor (bits w 43 6) q
    (bits w 35 8 ≤ left → exec (.tokWait n q) s =
      .next (s.issued n ({ b with toks := b.toks.set (bits w 43 6) (v - bits w 35 8) }.adv q))) ∧
    (left < bits w 35 8 → exec (.tokWait n q) s = .next s) ∧ (q = .a → left = v) ∧ left ≤ v

/-- TOK.SIG (R179, R181, R182): an unfenced signal adds to its own block's token at once, or stops the block where the token
would pass 65,535; a fenced or remote one stands outstanding with the earlier instructions of its sequence before it. -/
def claimTokSigAddsOrStandsFenced : Prop :=
  ∀ (s : State) (n : Nat) (q : Seq) (w : Nat), s.ready n q w → opOf q w = .tokSig →
    let b := s.block n
    let t := bits w 43 6
    let k := bits w 35 8
    let v := b.toks.getD t 0
    (bit w 34 = false → bit w 33 = false → v + k ≤ 65535 → exec (.tokSig n q) s =
      .next ((s.issued n ({ b with toks := b.toks.set t (v + k) }.adv q)).signals n)) ∧
    (bit w 34 = false → bit w 33 = false → 65535 < v + k → exec (.tokSig n q) s =
      .next ((s.blockFault n (srcOf q) (b.seqr q).pc { ErrI.of 8 with handle := t }).signals n)) ∧
    (bit w 34 = true ∨ bit w 33 = true →
      let j : Job := { b.freshJob q w .sig with rem := 1, remote := bit w 33 }
      let f : Fence := ⟨j.id, t, k, if bit w 33 then bits w 25 8 else n, (b.jobs.filter (fun x => x.seq == q)).map Job.id, q,
        (b.seqr q).pc, false⟩
      exec (.tokSig n q) s = .next ((s.issued n ({ b.addJob j with fences := b.fences ++ [f] }.adv q)).signals n))

/-- TOKEN_MESSAGE (R181, R182, R445): the oldest message from one block to another adds to the token it names, or stops that block
where the token would pass 65,535, whatever state the block is in; the signal that sent it ends, and the signals behind it go. A
region that moves between RETAIN and ARMED holds the message; a block in a region that is OFF or in RETAIN refuses it. -/
def claimTokenMessageArrives : Prop :=
  ∀ (s : State) (src dst : Nat) (m : TokMsg), src < 144 → dst < 144 → s.pwr.stopped = false →
    s.tokMsgs.find? (fun x => x.src == src && x.dst == dst) = some m →
    let s1 := { s with tokMsgs := s.tokMsgs.erase m }
    let s2 := s1.updBlock src (fun b => b.endFence m.job)
    (s.regionGate (dst / 36) = .ok → (s2.block dst).toks.getD m.tok 0 + m.n ≤ 65535 →
      exec (.tokenMessage src dst) s = .next ((s2.putBlock dst { s2.block dst with
        toks := (s2.block dst).toks.set m.tok ((s2.block dst).toks.getD m.tok 0 + m.n) }).signals src)) ∧
    (s.regionGate (dst / 36) = .ok → 65535 < (s2.block dst).toks.getD m.tok 0 + m.n →
      exec (.tokenMessage src dst) s =
        .next ((s2.stopFault dst 3 0 { ErrI.of 8 with handle := m.tok, arg := src }).signals src)) ∧
    (s.regionGate (dst / 36) = .wait → exec (.tokenMessage src dst) s = .next s) ∧
    (s.regionGate (dst / 36) = .refused → exec (.tokenMessage src dst) s =
      .next (s1.jobErr src m.job { ErrI.of 0x18 with handle := m.tok }))

/-- CTX.MARK (R168) and DESC.SET in its four forms (R187, R219, R263): the marker, one field of a descriptor with its
checksum made anew, an address moved by a signed immediate, a loop count, an immediate; and every other field stays. -/
def claimMarksAndDescSetWriteOneRegister : Prop :=
  (∀ (s : State) (n : Nat) (c : Ctx) (w : Nat), s.ready n (seqOf c) w → opOf (seqOf c) w = .ctxMark →
    exec (.ctxMark n c) s = .next (s.issued n ((match c with
      | .f => { s.block n with markF := bits w 33 16 }
      | .b => { s.block n with markB := bits w 33 16 }).adv (seqOf c)))) ∧
  (∀ (s : State) (n w : Nat) (f : Fd), s.ready n .a w → opOf .a w = .descSet → bits w 47 2 = 0 → bits w 42 5 ≠ 12 →
    setField (bits w 42 5) = some f →
    exec (.descSet n) s = .next (s.issued n (((s.block n).setDesc (bits w 34 8)
      (descFix (f.set ((s.block n).desc (bits w 34 8)) (bits w 0 32)))).adv .a))) ∧
  (∀ (s : State) (n w : Nat), s.ready n .a w → opOf .a w = .descSet → bits w 47 2 = 1 →
    let d := (s.block n).desc (bits w 34 8)
    let f := if bits w 42 5 = 0 then fAddr else fScale
    exec (.descSetAdd n) s = .next (s.issued n (((s.block n).setDesc (bits w 34 8)
      (descFix (f.set d (unsigned 48 ((f.get d : Int) + signed 32 (bits w 0 32)))))).adv .a))) ∧
  (∀ (s : State) (n w : Nat), s.ready n .a w → opOf .a w = .descSet → bits w 47 2 = 2 →
    let l := (s.block n).lcr
    let v := if bit w 42 then unsigned 24 ((l.getD (bits w 34 3) 0 : Int) + signed 32 (bits w 0 32)) else bits w 0 24
    exec (.descSetLcr n) s = .next (s.issued n ({ s.block n with lcr := l.set (bits w 34 3) v }.adv .a))) ∧
  (∀ (s : State) (n w : Nat), s.ready n .a w → opOf .a w = .descSet → bits w 47 2 = 3 →
    exec (.descSetVimm n) s = .next (s.issued n ({ s.block n with
      vimm := (s.block n).vimm.set (bits w 34 4) (bits w 0 32) }.adv .a)))

/-- DESC.SET of field VER (R263): while 16 superseded requests await their answers it waits; otherwise the pin that the handle
holds is released, its pending request is superseded, and VER = 1 sends a request of its own. -/
def claimDescSetVersionRequestsAPin : Prop :=
  ∀ (s : State) (n w : Nat), s.ready n .a w → opOf .a w = .descSet → bits w 47 2 = 0 → bits w 42 5 = 12 →
    let b := s.block n
    let h := bits w 34 8
    let v := bits w 0 32
    let p := b.pin h
    ((p.pending = true ∧ 16 ≤ b.superseded) → exec (.descSet n) s = .next s) ∧
    (¬ (p.pending = true ∧ 16 ≤ b.superseded) →
      ∃ b1, exec (.descSet n) s = .next (s.issued n b1) ∧
        b1.descs = b.descs.set h (descFix (fVer.set (b.desc h) v)) ∧
        b1.rels = (if p.pinned then b.rels ++ [⟨h, p.layer, p.slot, b.namers h⟩] else b.rels) ∧
        b1.nextReq = (if v = 1 then b.nextReq + 1 else b.nextReq) ∧
        (v = 1 → ∃ r ∈ b1.pinq, r.req = b.nextReq ∧ r.h = h ∧ r.ans = .waiting ∧ r.sup = false) ∧
        b1 = { b.adv .a with descs := b1.descs, pins := b1.pins, pinq := b1.pinq, rels := b1.rels, nextReq := b1.nextReq })

/-! The vector engine (chapter 5). -/

/-- The elementwise VOPs with their numbers (Table 8-2). -/
def elementwiseVops : List ((Nat → Ctx → Instr) × Nat) :=
  [(.vopAdd, 0), (.vopSub, 1), (.vopMul, 2), (.vopFma, 3), (.vopMax, 4), (.vopMin, 5), (.vopAbs, 6), (.vopNeg, 7),
   (.vopDiv, 8), (.vopSqrt, 9), (.vopRcp, 10), (.vopRsqrt, 11), (.vopExp, 12), (.vopExp2, 13), (.vopLog, 14),
   (.vopLog2, 15), (.vopTanh, 16), (.vopSigm, 17), (.vopCmpEq, 18), (.vopCmpNe, 19), (.vopCmpLt, 20), (.vopCmpLe, 21),
   (.vopSel, 22)]

/-- The row reductions with their numbers (Table 8-2). -/
def reductionVops : List ((Nat → Ctx → Instr) × Nat) :=
  [(.vopRsum, 23), (.vopRmax, 24), (.vopRmin, 25), (.vopRssq, 26)]

/-- Source and destination formats that a VOP takes (R123, R202). -/
def vopSrcFmts (bf : Bool) : List Fmt := if bf then [.bf16] else [.fp32, .bf16]
def vopDstFmts (bf : Bool) : List Fmt := if bf then [.bf16] else fromLane

/-- An elementwise VOP with no mask (R120 to R124): where its sources and its destination resolve and have one shape, element
i of row r of the result is the operation on elements i of rows r, rounded once to the lane format and poisoned where a source
element is, and a job delivers the rows. -/
def claimElementwiseVopResult : Prop :=
  ∀ ik ∈ elementwiseVops, ∀ (s : State) (n : Nat) (c : Ctx) (w : Nat) (bf : Bool) (x y z : Option VSrc) (dst : VDst)
    (sh : Shape),
    let q := seqOf c
    let b := s.block n
    s.ready n q w → opOf q w = .vop ik.2 bf → bit w 4 = false →
    b.vsrc (vopSrcFmts bf) (bits w 27 11) = .go x → b.vsrc (vopSrcFmts bf) (bits w 16 11) = .go y →
    b.vsrc (vopSrcFmts bf) (bits w 5 11) = .go z →
    b.vdst (vopDstFmts bf) (laneFmt bf) (bits w 38 11) = .go dst →
    let srcs := [x, y, z].filterMap id
    let shapes := srcs.filterMap VSrc.shape
    let dsh := match dst with | .desc _ d => some (descShape d) | _ => none
    (shapes ++ dsh.toList).head? = some sh → (∀ t ∈ shapes ++ dsh.toList, t.same sh = true) →
    (∀ o ∈ srcs, o.fits sh = true) → b.room dst sh.n0 sh.rows = .go () →
    let val (o : Option VSrc) (r i : Nat) : Val × Bool := at2 ((o.map (fun o => o.get b sh)).getD []) r i
    let elem (r i : Nat) : RElem :=
      let v := laneRes bf dst.sat (vopVal ik.2 (val x r i).1 (val y r i).1 (val z r i).1)
      { v := v.1, bad := (val x r i).2 || (val y r i).2 || (val z r i).2, cnt := v.2 }
    let rows := (List.range sh.rows).map (fun r => (List.range sh.n0).map (elem r))
    let j : Job := { b.freshJob q w .vec with handles := specHandles [bits w 27 11, bits w 16 11, bits w 5 11] }
    exec (ik.1 n c) s = .next (s.issued n ((((srcs.foldl Block.consume b).deliver j dst cVec rows).count cGroups
      (cdiv (sh.rows * sh.n0) (if bf then 128 else 64))).adv q))

/-- The same under a mask (R121, R211): a lane whose mask bit is 0 gives +0 where the word says so and otherwise leaves the
destination's element as it was. -/
def claimMaskedVopKeepsOrZeroes : Prop :=
  ∀ ik ∈ elementwiseVops, ∀ (s : State) (n : Nat) (c : Ctx) (w : Nat) (bf : Bool) (x y z : Option VSrc) (h d : Nat)
    (sh : Shape),
    let q := seqOf c
    let b := s.block n
    s.ready n q w → opOf q w = .vop ik.2 bf → bit w 4 = true →
    b.vsrc (vopSrcFmts bf) (bits w 27 11) = .go x → b.vsrc (vopSrcFmts bf) (bits w 16 11) = .go y →
    b.vsrc (vopSrcFmts bf) (bits w 5 11) = .go z →
    b.vdst (vopDstFmts bf) (laneFmt bf) (bits w 38 11) = .go (.desc h d) →
    let srcs := [x, y, z].filterMap id
    let shapes := srcs.filterMap VSrc.shape
    (shapes ++ [descShape d]).head? = some sh → (∀ t ∈ shapes ++ [descShape d], t.same sh = true) →
    (∀ o ∈ srcs, o.fits sh = true) →
    let lanes := if bf then 128 else 64
    let val (o : Option VSrc) (r i : Nat) : Val × Bool := at2 ((o.map (fun o => o.get b sh)).getD []) r i
    let elem (r i : Nat) : RElem :=
      if bit (b.mask q (bits w 1 3)) ((r * sh.n0 + i) % lanes) then
        let v := laneRes bf (dSatB d) (vopVal ik.2 (val x r i).1 (val y r i).1 (val z r i).1)
        { v := v.1, bad := (val x r i).2 || (val y r i).2 || (val z r i).2, cnt := v.2 }
      else if bit w 0 then { v := .zero false, quiet := true }
      else { v := .zero false, keep := true, quiet := true, fill := true }
    let rows := (List.range sh.rows).map (fun r => (List.range sh.n0).map (elem r))
    let j : Job := { b.freshJob q w .vec with handles := specHandles [bits w 27 11, bits w 16 11, bits w 5 11] }
    exec (ik.1 n c) s = .next (s.issued n ((((srcs.foldl Block.consume b).deliver j (.desc h d) cVec rows).count cGroups
      (cdiv (sh.rows * sh.n0) lanes)).adv q))

/-- A row reduction (R125): row r of the result is one value, the reduction of row r of the source in lane groups, rounded once
to the lane format, counted as a flush where a sum of squares that is not zero came out zero (R55), and poisoned where an element of
a lane that takes part is. -/
def claimRowReductionResult : Prop :=
  ∀ ik ∈ reductionVops, ∀ (s : State) (n : Nat) (c : Ctx) (w : Nat) (bf : Bool) (x : VSrc) (dst : VDst) (sh : Shape),
    let q := seqOf c
    let b := s.block n
    s.ready n q w → opOf q w = .vop ik.2 bf → spKind (bits w 16 11) = 0 → spKind (bits w 5 11) = 0 →
    b.vsrc (vopSrcFmts bf) (bits w 27 11) = .go (some x) → x.shape = some sh →
    b.vdst (vopDstFmts bf) (laneFmt bf) (bits w 38 11) = .go dst →
    sh.same sh = true → x.fits sh = true →
    (match dst with | .desc _ d => (descShape d).same ⟨1, sh.outer, sh.queue⟩ | _ => true) = true → b.room dst 1 sh.rows = .go () →
    let lanes := if bf then 128 else 64
    let mask := if bit w 4 then some (b.mask q (bits w 1 3)) else none
    let row (r : Nat) : List (Val × Bool) := (x.get b sh).getD r []
    let elem (r : Nat) : RElem :=
      let res := reduceRow ik.2 lanes mask ((row r).map Prod.fst)
      let v := laneRes bf dst.sat res
      { v := v.1, cnt := if redFlushed ik.2 lanes mask ((row r).map Prod.fst) res then { flu := 1 } else v.2
        bad := ((List.range (row r).length).zip (row r)).any (fun iv => laneOn mask (iv.1 % lanes) && iv.2.2) }
    let j : Job := { b.freshJob q w .vec with handles := specHandles [bits w 27 11, bits w 16 11, bits w 5 11] }
    exec (ik.1 n c) s = .next (s.issued n ((((b.consume x).deliver j dst cVec ((List.range sh.rows).map (fun r => [elem r]))).count
      cGroups (sh.rows * cdiv sh.n0 lanes)).adv q))

/-- What delivery does (R55, R123, R145, R147, R176): rows for a descriptor are encoded in its format, written to its elements,
counted, and the job is complete with its status flags; rows for a queue are encoded in the queue's format and fill an entry
reserved for the job, which is still to be committed. A word that the write covers in part is read first, and its errors are
counted and reported: with no word in error nothing else changes. -/
def Obligations.DeliveryWritesOrFillsAnEntry : Prop :=
  (∀ (b : Block) (j : Job) (h d : Nat) (rows : List (List RElem)), (∀ r ∈ rows, ∀ e ∈ r, e.keep = false) →
    let rc := encodeRows (dF d) (dSatB d) rows []
    let runs := tensWrites d { fmt := dF d, n0 := dN0 d, rows := rc.1 }
    let b0 := b.note b.spad (partWords b.spad runs) 27 0 0
    let b1 := b.deliver j (.desc h d) cVec rows
    b1.spad = b.spad.writeRuns runs ∧
    b1.ctr = ctrAdd (ctrAdd (ctrAdd b0.ctr 5 rc.2.sat) 6 rc.2.flu) 7 rc.2.nf ∧
    b1.jobs = b.jobs ++ [{ j with
      dst := some h, handles := h :: j.handles, done := true
      flags := cntFlags rc.2 + 32 * b2n (rc.1.any (fun r => r.elems.any Prod.snd)) }] ∧
    b1 = { b with
      spad := b1.spad, ctr := b1.ctr, jobs := b1.jobs, nextJob := b.nextJob + 1, evs := b0.evs, corrNow := b0.corrNow } ∧
    (b.spad.errs = [] → b0 = b)) ∧
  (∀ (b : Block) (j : Job) (q : Nat) (f : Fmt) (rows : List (List RElem)) (b2 : Block), q < b.qs.length →
    (∀ e ∈ (b.q q).ents, e.job ≠ some j.id) →
    let n0 := (rows.head?.map List.length).getD 0
    b.reserve q (entWords f n0 rows.length) (some j.id) = some b2 →
    let b1 := b.deliver j (.queue q f) cVec rows
    b1.qs = b2.qs ∧ b1.jobs = b.jobs ++ [{ j with rem := 1 }] ∧
    b1.spad = b.spad.writeRuns (entRuns (b.q q).cfg (b.q q).next
      (entBytes { fmt := f, n0 := n0, rows := (encodeRows f false rows []).1 })) ∧
    b1 = { b2 with
      spad := b1.spad, ctr := b1.ctr, jobs := b1.jobs, nextJob := b.nextJob + 1, evs := b1.evs, corrNow := b1.corrNow })

/-- VOP.MSET (Table 8-11): the mask register of the context takes the 16 bytes at the source's address. -/
def claimMaskSetReadsSixteenBytes : Prop :=
  ∀ (s : State) (n : Nat) (c : Ctx) (w d : Nat) (bf : Bool),
    let q := seqOf c
    let b := s.block n
    let h := spVal (bits w 27 11)
    s.ready n q w → opOf q w = .vop 28 bf → b.operandNow (localSrc allFmts) h = .go d →
    128 ≤ (dMaxOff d + 1) * (dF d).width →
    ∃ b1, exec (.vopMset n c) s = .next (s.issued n b1) ∧
      (c = .f → b1.maskF = b.maskF.set (bits w 1 3) (ofLE (b.spad.read (dAddr d) 16)) ∧ b1.maskB = b.maskB) ∧
      (c = .b → b1.maskB = b.maskB.set (bits w 1 3) (ofLE (b.spad.read (dAddr d) 16)) ∧ b1.maskF = b.maskF) ∧
      b1 = { b.adv q with
        maskF := b1.maskF, maskB := b1.maskB, ctr := b1.ctr, evs := b1.evs, corrNow := b1.corrNow
        jobs := b.jobs ++ [{ b.freshJob q w .vec with done := true, handles := [h] }], nextJob := b.nextJob + 1 }

/-- VOP.ACC (R114, R126, R212): where no partial of an MM is still to reach its tile, the source is 32 values wide with a row for each row of the tile, and the tile is there or is
opened, each row is added to the tile's row in its family; with LAST the tile closes for its drain. -/
def claimVopAccAddsRowsToTheTile : Prop :=
  ∀ (s : State) (n : Nat) (c : Ctx) (w : Nat) (bf : Bool) (o : VSrc) (sh : Shape) (ds : List (Nat × Nat)) (b1 : Block),
    let q := seqOf c
    let b := s.block n
    let f := accF w
    let fam := if f.fam = 0 then Fam.sum else if f.fam = 1 then Fam.ssq else Fam.wel
    let af := if f.fam = 2 then AccF.wel else afOf f.ext
    s.ready n q w → opOf q w = .vop 27 bf → b.spilling f.base = false → b.partialsDue f.base = false →
    b.vsrc [.fp32, .bf16] f.a = .go (some o) → o.shape = some sh → sh.n0 = 32 → sh.rows = f.m →
    b.drainDescs f.last f.chn f.out f.m (f.fam == 2) = .go ds → b.takeTile f.init f.base f.m af fam c = .go b1 →
    let rows := o.get b sh
    let b2 := ((List.range rows.length).zip rows).foldl (fun bb ir =>
      match bb.tileAt f.base with
      | some t => bb.addRow t ir.1 (ir.2.map (fun v => some (rn32 v.1)))
      | none => bb) (b1.consume o)
    let b3 := (b2.updTile f.base (fun t => { t.addSteps 1 1 with poison := t.poison || rows.any (fun r => r.any Prod.snd) })).count
      cGroups (cdiv f.m 2)
    let j : Job := { b.freshJob q w .acc with
      dst := if f.last then some f.out else none, drain := if f.last then some (f.out, f.chn) else none
      descs := ds, done := !f.last, handles := specHandles [f.a] ++ ds.map Prod.fst }
    exec (.vopAcc n c) s = .next (s.issued n ((if f.last then (b3.addJob j).toDrain j.id f.base else b3.addJob j).adv q))

/-- CVT (R120, R127, R213): the seeding form fills the lanes' generators from an immediate; the converting form takes any operand
of Table 8-3 and rounds each element to the destination's format, nearest or with the lanes' draws, leaving the generators where
the draws left them. An element that a mask turns off keeps its place in the destination, and converts, draws and counts as the
others do. -/
def claimCvtSeedsOrConverts : Prop :=
  (∀ (s : State) (n : Nat) (c : Ctx) (w : Nat), s.ready n (seqOf c) w → opOf (seqOf c) w = .cvt → spKind (bits w 27 11) = 0 →
    exec (.cvt n c) s = .next (s.issued n (({ s.block n with
      lanes := if bit w 25 then seedLanes 64 ((s.block n).vimm.getD (bits w 21 4) 0) else (s.block n).lanes }.addJob
        { (s.block n).freshJob (seqOf c) w .vec with done := true }).adv (seqOf c)))) ∧
  (∀ (s : State) (n : Nat) (c : Ctx) (w : Nat) (o : VSrc) (dst : VDst) (sh : Shape),
    let q := seqOf c
    let b := s.block n
    let sv := bits w 27 11
    let dsh := match dst with | .desc h d => some (h, descShape d) | _ => none
    let sf := match o with
      | .tens d _ _ | .rowB d | .colB d => dF d
      | .queue qn _ => (match b.headFields qn with | some (some (f, _, _, _)) => f | _ => .fp32)
      | .imm _ => .fp32
    s.ready n q w → opOf q w = .cvt → b.vsrc allFmts sv = .go (some o) →
    b.vdst allFmts ((Fmt.ofCode (bits w 13 4)).getD .fp32) (bits w 38 11) = .go dst →
    vecShape [(spVal sv, o)] dsh false = some sh → cvtPath sf dst.fmt = true → vecFault [(spVal sv, o)] dsh false sh = none →
    b.room dst sh.n0 sh.rows = .go () →
    let seeded := if bit w 25 then seedLanes 64 (b.vimm.getD (bits w 21 4) 0) else b.lanes
    let drawn := if bit w 26 then drawMany (sh.rows * sh.n0) 0 64 seeded else ([], seeded)
    let mask := if bit w 20 then some (b.mask q (bits w 17 3)) else none
    let elem (r i : Nat) (v : Val × Bool) : RElem :=
      { v := v.1, bad := v.2, keep := !(laneOn mask ((r * sh.n0 + i) % 64))
        rnd := if bit w 26 && cvtStoch sf dst.fmt then .draw (drawn.1.getD (r * sh.n0 + i) 0) else .nearest }
    let rows := ((List.range sh.rows).zip (o.get b sh)).map (fun rr =>
      ((List.range sh.n0).zip rr.2).map (fun iv => elem rr.1 iv.1 iv.2))
    let j : Job := { b.freshJob q w .vec with handles := specHandles [sv] }
    exec (.cvt n c) s = .next (s.issued n ((({ b.consume o with lanes := drawn.2 }.deliver j dst cCvt
      rows).count cGroups (cdiv (sh.rows * sh.n0) 64)).adv q)))

/-! The row engine (chapter 5). -/

/-- The ROW operations on a tensor X with their numbers (Table 8-14). -/
def tensorRows : List ((Nat → Ctx → Instr) × Nat) :=
  [(.rowLnF, 0), (.rowLnB, 1), (.rowRmsF, 2), (.rowRmsB, 3), (.rowSmF, 4), (.rowSmB, 5), (.rowSmCh, 6)]

/-- ROW.LN.F to ROW.SM.CH (R131 to R137, R214). Where the operands resolve and no row's lookup misses, the operation issues: its
rows are delivered, its statistics are kept, and its job holds the handle of Y and its token; nothing but the scratchpad, the side
memory, a consumed queue entry, the counters and the record of errors changes. Where Y is a descriptor the job is complete, and
where the operation has no second output the scratchpad takes exactly the rows of Y in its format, each element the work of R133
to R137 on its row rounded once to FP32 and encoded. -/
def claimRowOperationsIssue : Prop :=
  ∀ ik ∈ tensorRows, ∀ (s : State) (n : Nat) (c : Ctx) (w : Nat) (o : RowOps),
    let q := seqOf c
    let b := s.block n
    s.ready n q w → opOf q w = .row ik.2 → b.rowOps w ik.2 = .go o →
    b.rowMissK ik.2 0 (bits w 11 4) o.s.rows (bit w 4) (q == .b) = none →
    let rows := (b.rowResults w ik.2 o).map (fun rb => rb.1.y.map (fun v =>
      ({ v := (laneRes false o.dst.sat v).1, bad := rb.2, cnt := (laneRes false o.dst.sat v).2 } : RElem)))
    ∃ (b1 : Block) (j : Job), exec (ik.1 n c) s = .next (s.issued n b1) ∧
      b1 = { b.adv q with
        spad := b1.spad, sideV := b1.sideV, sideT := b1.sideT, qs := b1.qs, ctr := b1.ctr, jobs := b1.jobs
        nextJob := b.nextJob + 1, evs := b1.evs, corrNow := b1.corrNow } ∧
      b1.jobs.getLast? = some j ∧ ((∀ x ∈ b.jobs, x.id ≠ b.nextJob) → b1.jobs = b.jobs ++ [j]) ∧ j.id = b.nextJob ∧ j.tok = tokOf q w ∧ j.kind = .vec ∧
      (∀ h d, o.dst = .desc h d → j.done = true ∧ j.dst = some h ∧
        (ik.2 ≠ 6 → bit w 6 = false → b1.spad = b.spad.writeRuns (tensWrites d
          { fmt := dF d, n0 := dN0 d, rows := (encodeRows (dF d) (dSatB d) rows []).1 }))) ∧
      (∀ qn f, o.dst = .queue qn f → j.done = false ∧ j.rem = 1)

/-- A lookup of a ROW operation that misses (R131, R141): the first row whose slot is not valid, has another key or has another
kind stops the block with code 0x15 and its record, before any other effect, the reads of the slots up to it recorded. A slot whose
tag word cannot be trusted is no miss. -/
def claimRowLookupMisses : Prop :=
  (∀ ik ∈ tensorRows, ∀ (s : State) (n : Nat) (c : Ctx) (w : Nat) (o : RowOps) (e : ErrI),
    let q := seqOf c
    let b := s.block n
    s.ready n q w → opOf q w = .row ik.2 → b.rowOps w ik.2 = .go o →
    b.rowMissK ik.2 0 (bits w 11 4) o.s.rows (bit w 4) (q == .b) = some e →
    e.code = 0x15 ∧
    exec (ik.1 n c) s = .next ((s.putBlock n (b.touchSlots e.reads)).blockFault n (srcOf q) (b.seqr q).pc e)) ∧
  (∀ (sl : Slot) (key kind : Nat), sl.tagBad = true → lookup sl key kind = none)

def Obligations.RowOperationsIssueOrMiss : Prop := claimRowOperationsIssue ∧ claimRowLookupMisses

/-- R133: the rows of ROW.LN.F and ROW.RMS.F. The mean, the variance or the mean square are R125 sums divided by N; each
element is normalised, scaled and, in LN, shifted, exactly here: its lane rounds it once (R123); the statistics are kept. -/
def claimNormalisedRows : Prop :=
  (∀ (x g be : List Val) (eps : Val),
    let mu := meanOf (rowSum x) x.length
    let d := x.map (fun v => rn (v.add mu.neg))
    let rho := rsqrtR (rn ((meanOf (rowSum (d.map (fun e => rn (e.mul e)))) x.length).add eps))
    (rowLnF x g be eps).y = (d.zip (g.zip be)).map (fun t => ((rn (t.1.mul rho)).mul t.2.1).add t.2.2) ∧
    (rowLnF x g be eps).stat = some (0, rn32 mu, rn32 rho)) ∧
  (∀ (x g : List Val) (eps : Val),
    let rho := rsqrtR (rn ((meanOf (rowSum (x.map (fun v => rn (v.mul v)))) x.length).add eps))
    (rowRmsF x g eps).y = (x.zip g).map (fun t => (rn (t.1.mul rho)).mul t.2) ∧
    (rowRmsF x g eps).stat = some (1, 0, rn32 rho))

/-- R134: in a row of the soft maximum whose elements are all excluded, every result is +0 and the statistics are both
minus infinity. -/
def claimSoftMaxOfExcludedRowIsZero : Prop :=
  ∀ n, (rowSmF (List.replicate n (.inf true))).y = List.replicate n (.zero false) ∧
    (rowSmF (List.replicate n (.inf true))).stat = some (2, 0xFF800000, 0xFF800000)

/-- Statistics put in a slot are what a lookup of the same key and kind then reads (R130, R131), where the side memory holds
no error. -/
def claimSlotReadsWhatWasPut : Prop :=
  ∀ (b : Block) (i key kind v0 v1 : Nat), b.sideT.errs = [] → b.sideV.errs = [] → key < 2 ^ 32 → kind < 4 → v0 < 2 ^ 32 →
    v1 < 2 ^ 32 →
    (b.putSlot i key kind v0 v1).slot i = ⟨key, kind, true, v0, v1, false, false⟩ ∧
    lookup ((b.putSlot i key kind v0 v1).slot i) key kind = none ∧
    (∀ k, k ≠ i → (b.putSlot i key kind v0 v1).slot k = b.slot k)

/-- ROW.SM.MRG (R138): where the operands resolve and no lookup misses, each row's statistics are merged with the incoming
pair and kept, the two weights are written through Y and P3, and the job is complete. -/
def claimMergeKeepsStatisticsAndWritesWeights : Prop :=
  ∀ (s : State) (n : Nat) (c : Ctx) (w d ad bd : Nat),
    let q := seqOf c
    let b := s.block n
    s.ready n q w → opOf q w = .row 7 → b.operandNow (localSrc [.fp32]) (bits w 31 8) = .go d → dN0 d = 2 →
    b.rowVec (bits w 40 8) (dOuter d) = .go ad → b.rowVec (bits w 15 8) (dOuter d) = .go bd →
    b.rowMissK 7 0 (bits w 11 4) (dOuter d) false (q == .b) = none →
    ∃ b1, exec (.rowSmMrg n c) s = .next (s.issued n b1) ∧
      b1 = { b.adv q with
        spad := b1.spad, sideV := b1.sideV, sideT := b1.sideT, ctr := b1.ctr, jobs := b1.jobs, nextJob := b.nextJob + 1
        evs := b1.evs, corrNow := b1.corrNow } ∧
      ∃ j, b1.jobs = b.jobs ++ [j] ∧ j.id = b.nextJob ∧ j.done = true ∧ j.dst = some (bits w 40 8) ∧ j.tok = tokOf q w

/-- ROW.GET (R138): each row's V0, V1 or EXP(−V1) is written through Y as a row vector, and the job is complete; ROW.ST and
ROW.LD (R132) copy slots out as records and in from them, whatever their keys. -/
def claimSlotCopiesIssue : Prop :=
  (∀ (s : State) (n : Nat) (c : Ctx) (w d : Nat),
    let q := seqOf c
    let b := s.block n
    let kr := bits w 11 4
    s.ready n q w → opOf q w = .row 8 → b.operandNow (localDst fromLane) (bits w 40 8) = .go d → dN0 d = 1 →
    b.rowMissK 8 (bits w 2 2) kr (dOuter d) false (q == .b) = none →
    let is := (List.range (dOuter d)).map (fun i => (b.rowKey kr i).2)
    let vs := is.map (fun i =>
      (if bits w 2 2 = 0 then fp32 (b.slot i).v0 else if bits w 2 2 = 1 then fp32 (b.slot i).v1
       else fnVal .exp (fp32 (b.slot i).v1).neg, (b.slot i).bad))
    let r := (b.touchSlots is).putVec d vs
    exec (.rowGet n c) s = .next (s.issued n (((((r.1.dropBad is).count3 cVec r.2).count cRows (dOuter d)).addJob
      { b.freshJob q w .vec with
        done := true, dst := some (bits w 40 8), handles := [bits w 40 8]
        flags := cntFlags r.2 + 32 * b2n (vs.any Prod.snd) }).adv q))) ∧
  (∀ (s : State) (n : Nat) (c : Ctx) (w d : Nat),
    let q := seqOf c
    let b := s.block n
    s.ready n q w → opOf q w = .row 9 → b.operandNow (localDst allFmts) (bits w 40 8) = .go d → recordRow d = true →
    ∃ b1, exec (.rowSt n c) s = .next (s.issued n b1) ∧
      b1.spad = b.spad.writeRuns (coalesce (((dRowOffs d).zip ((List.range (dOuter d)).map (fun i =>
        let k := b.slot (b.rowKey (bits w 11 4) i).2
        (toLE 16 (k.key + k.kind * 2 ^ 32 + b2n k.valid * 2 ^ 34 + k.v0 * 2 ^ 64 + k.v1 * 2 ^ 96)).map (fun x => (x, k.bad))))).flatMap
          (fun r => rowWrites d r.1 (unpack (dF d) (dN0 d) r.2)))) ∧
      b1 = { b.adv q with
        spad := b1.spad, sideT := b1.sideT, ctr := b1.ctr, nextJob := b.nextJob + 1, evs := b1.evs, corrNow := b1.corrNow
        jobs := b.jobs ++ [{ b.freshJob q w .vec with
          done := true, dst := some (bits w 40 8), handles := [bits w 40 8]
          flags := 32 * b2n ((List.range (dOuter d)).any (fun i => (b.slot (b.rowKey (bits w 11 4) i).2).bad)) }] }) ∧
  (∀ (s : State) (n : Nat) (c : Ctx) (w d : Nat),
    let q := seqOf c
    let b := s.block n
    s.ready n q w → opOf q w = .row 10 → b.operandNow (localSrc allFmts) (bits w 31 8) = .go d → recordRow d = true →
    ∃ b1, exec (.rowLd n c) s = .next (s.issued n b1) ∧
      b1 = { b.adv q with
        sideV := b1.sideV, sideT := b1.sideT, ctr := b1.ctr, nextJob := b.nextJob + 1, evs := b1.evs, corrNow := b1.corrNow
        jobs := b.jobs ++ [{ b.freshJob q w .vec with done := true, handles := [bits w 31 8] }] })

/-! The matrix array and the accumulators (chapters 3 and 4). -/

/-- The five array modes with their numbers (Table 8-6). -/
def arrayModes : List ((Nat → Ctx → Instr) × Nat) := [(.mmMul, 0), (.mmL1, 1), (.mmL2sq, 2), (.mmMaxp, 3), (.mmMinp, 4)]

/-- MM on the active set (R76, R78, R208): where the set matches the word, the head entry of AQ matches and the tile is open or
opens, the entry is consumed and its rows enter the array in slabs of eight, or the packer; the job waits for their verdicts. -/
def claimStationaryMatrixMultiplyIssues : Prop :=
  ∀ ik ∈ arrayModes, ∀ (s : State) (n : Nat) (c : Ctx) (w : Nat) (ds : List (Nat × Nat)) (b1 b2 : Block) (t : Tens),
    let q := seqOf c
    let b := s.block n
    let f := mmF w
    let mode := modeOf ik.2
    let bf := (Fmt.ofCode f.bfmt).getD .lg8f
    let key : PackKey := ⟨mode, f.afmt, bf, f.ext⟩
    s.ready n q w → opOf q w = .mm ik.2 → f.strm = false → b.streaming = false → b.spilling f.base = false →
    b.drainDescs f.last f.chn f.out f.m false = .go ds →
    b.active.valid = true → b.active.pa = f.afmt → b.active.pb = bf → b.active.mirror = (mode != .mul) →
    b.headIs f.aq f.afmt f.k f.m = .go () → b.takeTile f.init f.base f.m (afOf f.ext) mode.fam c = .go b1 →
    b1.popEntry f.aq = some (t, b2) →
    let j : Job := { b.freshJob q w .mm with
      rem := f.m, dst := if f.last then some f.out else none, drain := if f.last then some (f.out, f.chn) else none
      descs := ds, handles := ds.map Prod.fst, packed := f.m ≤ 7 && b.arrCtl % 2 == 1 }
    let b3 := (b2.addJob j).updTile f.base (fun t => t.addSteps 1 f.k)
    let rows := aRows j.id f.base t
    ((f.m ≤ 7 ∧ b.arrCtl % 2 = 1) → exec (ik.1 n c) s = .next (s.issued n
      (((if b3.packKey = key then b3 else { b3.flushPack with packKey := key }).packIn s.now rows).adv q))) ∧
    (¬ (f.m ≤ 7 ∧ b.arrCtl % 2 = 1) → exec (ik.1 n c) s = .next (s.issued n ((b3.flushPack.runPass key 0 rows).adv q)))

/-- MM on a streamed operand (R74, R208): where B's descriptor fits the mode and the pair, the head entry of AQ matches and the
tile is open or opens, the packer is emptied and the job's passes follow, K at a time. -/
def claimStreamedMatrixMultiplyIssues : Prop :=
  ∀ ik ∈ arrayModes, ∀ (s : State) (n : Nat) (c : Ctx) (w d : Nat) (r : Option Nat) (ds : List (Nat × Nat)) (b1 : Block),
    let q := seqOf c
    let b := s.block n
    let f := mmF w
    let mode := modeOf ik.2
    let mirror := mode != .mul
    let ks := if mirror then kStepD f.afmt else kStep f.afmt (dF d)
    s.ready n q w → opOf q w = .mm ik.2 → f.strm = true → b.streaming = false → b.spilling f.base = false →
    b.operand (localSrc [.bf16, .e4m3, .e5m2, .mx4, .mx5, .lg4, .lg8f, .lg8b]) f.bh = .go (d, r) →
    (if mirror then dF d == f.afmt else pairOk f.afmt (dF d)) = true → dN0 d ≤ 2 ^ 20 → dOuter d ≤ 32 →
    b.drainDescs f.last f.chn f.out f.m false = .go ds → entWords f.afmt ks f.m ≤ ringWords (b.q f.aq).cfg →
    b.headIs f.aq f.afmt ks f.m = .go () → b.takeTile f.init f.base f.m (afOf f.ext) mode.fam c = .go b1 →
    let passes := cdiv (dN0 d) ks
    exec (ik.1 n c) s = .next (s.issued n ((b1.flushPack.addJob { b.freshJob q w .mm with
      rem := f.m * passes, dst := if f.last then some f.out else none, drain := if f.last then some (f.out, f.chn) else none
      descs := ds ++ [(f.bh, d)], handles := f.bh :: ds.map Prod.fst, started := r.isNone
      awaits := match r with | some r => [(f.bh, r)] | none => []
      strm := some ⟨d, ⟨mode, f.afmt, dF d, f.ext⟩, ks, dOuter d, 0, passes, f.m, f.base, f.aq⟩ }).adv q))

/-- BLD (R68, R72, R209) starts a load of the stationary set; SWP (R71) exchanges the two sets in one step; and while a streamed
MM runs its passes or a load is under way both wait. -/
def claimBuildAndSwapStationarySets : Prop :=
  (∀ (s : State) (n : Nat) (c : Ctx) (w d : Nat) (r : Option Nat),
    let q := seqOf c
    let b := s.block n
    let bh := bits w 41 8
    let pa := arrFmt (bits w 37 3)
    s.ready n q w → opOf q w = .bld → b.streaming = false → b.loading = none →
    b.operand (localSrc [.bf16, .e4m3, .e5m2, .mx4, .mx5, .lg4, .lg8f, .lg8b]) bh = .go (d, r) →
    (if bit w 40 then pa == dF d && pa != .lg4 else pairOk pa (dF d)) = true → dRank d = 2 →
    dN0 d ≤ (if bit w 40 then kStepD (dF d) else kStep pa (dF d)) → dSize d 1 ≤ 32 →
    ∃ b1, exec (.bld n c) s = .next (s.issued n b1) ∧ b1.gen = (b.gen + 1) % 16 ∧ b1.active = b.flushPack.active ∧
      b1.shadow = b.flushPack.shadow ∧
      (r = none → b1.loading = some (b.nextJob, b.flushPack.tileOf d pa (bit w 40) 0 (dN0 d) ((b.gen + 1) % 16))) ∧
      (r ≠ none → b1.loading = some (b.nextJob, TSet.invalid))) ∧
  (∀ (s : State) (n : Nat) (c : Ctx) (w : Nat),
    let q := seqOf c
    let b := s.block n
    s.ready n q w → opOf q w = .swp → b.streaming = false → b.loading = none →
    ∃ b1, exec (.swp n c) s = .next (s.issued n b1) ∧ b1.active = b.shadow ∧ b1.shadow = b.active ∧
      b1.ctr = ctrAdd b.flushPack.ctr 13 1) ∧
  (∀ (s : State) (n : Nat) (c : Ctx) (w : Nat), s.ready n (seqOf c) w →
    (s.block n).streaming = true ∨ (s.block n).loading.isSome = true →
    (opOf (seqOf c) w = .bld → exec (.bld n c) s = .next s) ∧ (opOf (seqOf c) w = .swp → exec (.swp n c) s = .next s))

/-- SPL (R103, R210) and RSM (R103, R104, R210): a spill names one open tile and a wide buffer that fits it, and waits for the
tile's slabs; a resume opens a tile of the header's family, linked to the buffer; both wait while a spill of their base runs. -/
def claimSpillAndResumeIssue : Prop :=
  (∀ (s : State) (n : Nat) (c : Ctx) (w d : Nat) (t : Tile),
    let q := seqOf c
    let b := s.block n
    let h := bits w 17 8
    s.ready n q w → opOf q w = .spl → b.spilling (bits w 39 10) = false →
    b.openTile (bits w 39 10) (bits w 29 10 + 1) (afOf (bit w 28)) (splFam (bits w 26 2)) c = .go t →
    b.wideDesc h (some (bits w 29 10 + 1)) true = .go d →
    exec (.spl n c) s = .next (s.issued n ((b.addJob { b.freshJob q w .spl with
      dst := some h, handles := [h], descs := [(h, d)], rem := 1 }).adv q))) ∧
  (∀ (s : State) (n : Nat) (c : Ctx) (w d : Nat) (fam : Fam),
    let q := seqOf c
    let b := s.block n
    let h := bits w 30 8
    let base := bits w 39 10
    let af := afOf (bit w 38)
    let hd := b.wideHdr (dAddr d)
    s.ready n q w → opOf q w = .rsm → b.spilling base = false → b.wideDesc h none false = .go d → base + accRows af (dSize d 1) ≤ 1024 →
    hd.valid = true → famOf hd.fam = some fam → b.canOpen base (accRows af (dSize d 1)) = .go () →
    exec (.rsm n c) s = .next (s.issued n ((((b.touch [(dAddr d, 8)]).openNew { Tile.fresh base (dSize d 1) af fam c with
      link := some (dAddr d), terms := hd.terms }).addJob
        { b.freshJob q w .rsm with done := true, handles := [h] }).adv q))) ∧
  (∀ (s : State) (n : Nat) (c : Ctx) (w : Nat), s.ready n (seqOf c) w → (s.block n).spilling (bits w 39 10) = true →
    (opOf (seqOf c) w = .spl → exec (.spl n c) s = .next s) ∧ (opOf (seqOf c) w = .rsm → exec (.rsm n c) s = .next s))

/-- Q.PUSH and Q.POP (R173, R176, R215): a push reserves an entry for a LOCAL tensor and fills it; a pop discards the head
entry or copies it into a LOCAL descriptor of the same format and sizes; both wait where there is no room or no entry. -/
def claimQueuePushAndPop : Prop :=
  (∀ (s : State) (n : Nat) (c : Ctx) (w d : Nat) (b1 : Block),
    let q := seqOf c
    let b := s.block n
    let qn := bits w 46 3
    let h := bits w 38 8
    s.ready n q w → opOf q w = .qPush → b.operandNow (localSrc allFmts) h = .go d →
    b.room (.queue qn (dF d)) (dN0 d) (dOuter d) = .go () →
    (b.touch (dRuns d)).reserve qn (entWords (dF d) (dN0 d) (dOuter d)) (some b.nextJob) = some b1 →
    exec (.qPush n c) s = .next (s.issued n (((b1.addJob { b.freshJob q w .copy with handles := [h], rem := 1 }).fillEntry qn
      b.nextJob (b.readT d)).adv q))) ∧
  (∀ (s : State) (n : Nat) (c : Ctx) (w : Nat) (x : Option (Fmt × Nat × Nat × Bool)),
    let q := seqOf c
    let b := s.block n
    s.ready n q w → opOf q w = .qPop → b.headFields (bits w 46 3) = some x → bit w 37 = true →
    exec (.qPop n c) s = .next (s.issued n (((b.dropEntry (bits w 46 3)).addJob
      { b.freshJob q w .copy with done := true }).adv q))) ∧
  (∀ (s : State) (n : Nat) (c : Ctx) (w d n0 n1 : Nat) (f : Fmt) (p : Bool) (t : Tens) (b1 : Block),
    let q := seqOf c
    let b := s.block n
    let h := bits w 38 8
    s.ready n q w → opOf q w = .qPop → b.headFields (bits w 46 3) = some (some (f, n0, n1, p)) → bit w 37 = false →
    b.operandNow (localDst allFmts) h = .go d → f = dF d → n0 = dN0 d → n1 = dOuter d →
    b.popEntry (bits w 46 3) = some (t, b1) →
    exec (.qPop n c) s = .next (s.issued n (((b1.writeT d t).addJob { b.freshJob q w .copy with
      done := true, dst := some h, handles := [h], flags := 32 * b2n t.bad }).adv q))) ∧
  (∀ (s : State) (n : Nat) (c : Ctx) (w : Nat), s.ready n (seqOf c) w → opOf (seqOf c) w = .qPop →
    (s.block n).headFields (bits w 46 3) = none → exec (.qPop n c) s = .next s)

/-! What ends an instruction. -/

/-- The events of a block at work: a shadow load completes (R70), the packer issues what it holds once its hold time can have
passed (R81; log entry 114), the verdict on the oldest slab passes (R88), the oldest spill that may run writes its buffer (R103),
the oldest CLOSING tile drains once every slab that wrote it has passed (R88, R97, R98). Each changes its own block and no other,
but for a chain output, which leaves as transfers to another block, waits for it or is refused by it (R106, R445). -/
def claimArrayEventsChangeTheirBlock : Prop :=
  ∀ (s : State) (n : Nat), n < 144 → s.works n = true →
    let b := s.block n
    (∀ id set, b.loading = some (id, set) → set.valid = true → exec (.shadowLoadComplete n) s =
      .next (s.putBlock n { b.updJob id (fun j => { j with rem := 0, done := true }) with shadow := set, loading := none })) ∧
    (b.packed ≠ [] → s.holdOver n = true → exec (.packHoldExpiry n) s =
      .next (s.putBlock n { b.runSlab b.packKey 0 b.packed with packed := [] })) ∧
    (s.holdOver n = false → exec (.packHoldExpiry n) s = .next s) ∧
    (∀ sl rest, b.slabs = sl :: rest → sl.fail = none → exec (.slabVerdict n) s =
      .next (s.putBlock n (sl.parts.foldl Block.passRows { b with slabs := rest }))) ∧
    (∀ k, b.spillDone = some k → exec (.spillComplete n) s = .next (s.putBlock n k)) ∧
    (∀ id rest j t, b.drains = id :: rest → b.job id = some j → b.tileAt (jobBase j) = some t →
      let r := b.drainJob j t
      let sent := (s.putBlock n r.1).nocSend n id r.2
      (b.slabsOpen (jobBase j) = true → exec (.drainComplete n) s = .next s) ∧
      (b.slabsOpen (jobBase j) = false → r.2 = [] → exec (.drainComplete n) s = .next (s.putBlock n r.1)) ∧
      (∀ x more, b.slabsOpen (jobBase j) = false → r.2 = x :: more →
        (s.regionGate (x.1 / 2 ^ 21 / 36) = .wait → exec (.drainComplete n) s = .next s) ∧
        (s.regionGate (x.1 / 2 ^ 21 / 36) = .ok → exec (.drainComplete n) s =
          .next (sent.1.updBlock n (fun b => b.updJob id (fun j => { j with rem := sent.2 })))) ∧
        (s.regionGate (x.1 / 2 ^ 21 / 36) = .refused → exec (.drainComplete n) s =
          .next ((s.putBlock n r.1).jobErr n id { ErrI.of 0x18 with handle := (j.drain.map Prod.fst).getD 0xFF }))))

/-- R89: a slab whose check fails poisons its tiles, counts a check error and stops the block with code 0x0F and a record that
names the column group, the slab's first row and its pass (its number modulo 2^16: the model's choice, log entry 120); no other
block changes and nothing is drawn. -/
def Obligations.FailedVerdictStopsTheBlock : Prop :=
  ∀ (s : State) (n g : Nat) (sl : Slab) (rest : List Slab), n < 144 → s.works n = true → (s.block n).slabs = sl :: rest →
    sl.fail = some g →
    let e : ErrI := { ErrI.of 0x0F with spec := g % 4 + sl.row % 1024 * 4 + sl.pass % 65536 * 4096 }
    ∃ t, exec (.slabVerdict n) s = .next t ∧ (t.block n).st = .faulted ∧ (t.block n).fault = 0x0F ∧ (t.block n).slabs = [] ∧
      (t.block n).tiles = (s.block n).tiles.map (fun x =>
        if sl.parts.any (fun p => p.2.1 == x.base) then { x with poison := true } else x) ∧
      (t.block n).lastFault = some (0x0F, faultInfo e, faultDetail e 3 0) ∧
      t.freeN = s.freeN ∧ (t.block n).ctr = ctrAdd (s.block n).ctr 16 1 ∧ (∀ m, m ≠ n → t.block m = s.block m)

/-- The next pass of a streamed MM (R71, R74, R75), once no load of a BLD is under way: the head entry of its A queue is consumed, its tile of B becomes the active set,
and its rows run in slabs. -/
def claimStreamPassRunsNextTile : Prop :=
  ∀ (s : State) (n : Nat) (j : Job) (x : Strm) (t : Tens) (b1 : Block), n < 144 → s.works n = true →
    let b := s.block n
    b.jobs.find? (fun j => match j.strm with | some x => decide (x.pass < x.passes) | none => false) = some j →
    b.loading = none → j.strm = some x → j.started = true → b.headIs x.aq x.key.afmt x.k x.m = .go () → b.popEntry x.aq = some (t, b1) →
    let set := b1.tileOf x.bd x.key.afmt (x.key.mode != .mul) (x.pass * x.k) x.k ((b.gen + 1) % 16)
    ∃ b2 : Block, exec (.strmPassStart n) s = .next (s.putBlock n (b2.runPass x.key x.pass (aRows j.id x.base t))) ∧
      b2.active = set ∧ b2.gen = (b.gen + 1) % 16 ∧ b2.qs = b1.qs ∧
      b2.jobs = b.jobs.map (fun y => if y.id = j.id then { y with strm := some { x with pass := x.pass + 1 } } else y)

/-- QUEUE_ENTRY_COMMIT (R176): an entry whose data have all come is committed, and its job is complete. -/
def claimEntryCommitCompletesItsJob : Prop :=
  ∀ (s : State) (n qn i id : Nat) (e : QEnt) (j : Job), n < 144 → qn < 8 → s.works n = true →
    let b := s.block n
    (b.q qn).ents[i]? = some e → e.job = some id → b.job id = some j → e.done = false → j.started = true → j.rem = 1 →
    j.done = false → j.err = none →
    exec (.queueEntryCommit n qn i) s = .next (s.updBlock n (fun b =>
      (b.setQ qn (fun q => { q with ents := updAt q.ents i (fun e => { e with done := true }) })).updJob j.id
        (fun j => { j with rem := 0, done := true })))

/-- COMPLETION_EVENT (R58, R81, R171, R188): a job whose condition holds leaves the block, its flags are ORed into STATUS of each
of its output descriptors, its token rises by 1, or stops the block where it would pass 65,535, and the signals that waited go. An
MM of the row packer waits for those that issued before it. -/
def claimCompletionWritesStatusAndToken : Prop :=
  ∀ (s : State) (n id : Nat) (j : Job), n < 144 → s.pwr.stopped = false →
    let b := s.block n
    b.job id = some j → j.done = true → j.err = none → j.kind ≠ .sig →
    let b1 := { b with jobs := b.jobs.filter (fun x => x.id != id), wd := 0 }
    let b2 := ((j.dst.map (fun h => (h, j.flags))).toList ++ j.more).foldl
      (fun bb hf => bb.setDesc hf.1 (statusAfter (bb.desc hf.1) hf.2)) b1
    let first := ¬ (j.packed = true ∧ ∃ x ∈ b.jobs, x.packed = true ∧ x.id < j.id)
    (¬ first → exec (.completionEvent n id) s = .next s) ∧
    (first → j.tok = none → exec (.completionEvent n id) s = .next ((s.putBlock n b2).signals n)) ∧
    (∀ t, first → j.tok = some t → b.toks.getD t 0 + 1 ≤ 65535 → exec (.completionEvent n id) s =
      .next ((s.putBlock n { b2 with toks := b2.toks.set t (b2.toks.getD t 0 + 1) }).signals n)) ∧
    (∀ t, first → j.tok = some t → 65535 < b.toks.getD t 0 + 1 → exec (.completionEvent n id) s =
      .next ((s.putBlock n b2).blockFault n (srcOf j.seq) j.pc { ErrI.of 8 with handle := t }))

/-- ERROR_COMPLETION (R502): a job that carries an error stops its block with that error's record. STREAM_HANG (R194): a
RUNNING block whose watchdog has counted its limit, and that nothing holds, stops with code 0x0B. -/
def claimErrorsAndHangsStopTheBlock : Prop :=
  (∀ (s : State) (n id : Nat) (j : Job) (e : ErrI), n < 144 → s.pwr.stopped = false → (s.block n).job id = some j →
    j.err = some e →
    exec (.errorCompletion n id) s = .next (s.blockFault n (srcOf j.seq) j.pc e)) ∧
  (∀ (s : State) (n : Nat), n < 144 → (s.block n).st = .running → (s.block n).run.wdog ≠ 0 →
    (s.block n).run.wdog ≤ (s.block n).wd → s.wdHeld n = false →
    exec (.streamHang n) s = .next (s.blockFault n 3 0 (ErrI.of 0x0B)))

/-- R486: a fault stops a RUNNING block: its state and code say so, nothing it had issued remains, its tiles, queues, pins,
descriptors, tokens and scratchpad stay, and its record is forwarded to Thallus; every other block stays as it was. -/
def Obligations.BlockFaultStopsAndFences : Prop :=
  ∀ (s : State) (n src pc : Nat) (e : ErrI), (s.block n).st = .running →
    let b := s.block n
    let t := s.blockFault n src pc e
    ((t.block n).st = .faulted ∧ (t.block n).fault = e.code ∧ (t.block n).jobs = [] ∧ (t.block n).fences = [] ∧
      (t.block n).slabs = [] ∧ (t.block n).packed = [] ∧ (t.block n).drains = [] ∧ (t.block n).seqA.word = none ∧
      (t.block n).seqF.word = none ∧ (t.block n).seqB.word = none) ∧
    ((t.block n).tiles = b.tiles ∧ (t.block n).qs = b.qs ∧ (t.block n).pins = b.pins ∧ (t.block n).descs = b.descs ∧
      (t.block n).toks = b.toks ∧ (t.block n).spad = b.spad ∧ (t.block n).acc = b.acc) ∧
    (s.boot.restart = false → s.boot.halted = false → b.evs = [] →
      t.events = s.events ++ [⟨e.code, 1, n, faultInfo e, faultDetail e src pc, s.now⟩]) ∧
    (∀ m, m ≠ n → t.block m = s.block m)

/-! Data movement (chapters 6 to 8). -/

/-- The roles of an access instruction's operands (R216). -/
def accessSrc : Role := { spaces := aSpaces, fmts := allFmts }
def accessDst : Role := { accessSrc with dest := true }

/-- LD and ST between descriptors, LD into a queue entry and ST from one (R178, R216): where the operands resolve and agree in
format, dimension-0 size and outer size, the instruction is in flight and its accesses start. -/
def claimLoadAndStoreIssue : Prop :=
  (∀ (s : State) (n w sd dd : Nat) (j1 j2 : Job),
    let b := s.block n
    let j0 : Job := { b.freshJob .a w .copy with started := false }
    s.ready n .a w → bit w 48 = false → b.aOperand accessSrc (bits w 29 8) j0 = .go (sd, j1) →
    b.aOperand accessDst (bits w 37 8) j1 = .go (dd, j2) → dF dd = dF sd → dN0 dd = dN0 sd → dOuter dd = dOuter sd →
    let t := (s.issued n ((b.addJob { j2 with dst := some (bits w 37 8) }).adv .a)).startAccess n b.nextJob
    (opOf .a w = .ld → exec (.ld n) s = .next t) ∧ (opOf .a w = .st → exec (.st n) s = .next t)) ∧
  (∀ (s : State) (n w sd : Nat) (j1 : Job) (b1 : Block),
    let b := s.block n
    let qn := bits w 45 3
    s.ready n .a w → opOf .a w = .ld → bit w 48 = true → queueBound b .a qn false = true →
    b.aOperand accessSrc (bits w 29 8) { b.freshJob .a w .copy with started := false } = .go (sd, j1) →
    b.room (.queue qn (dF sd)) (dN0 sd) (dOuter sd) = .go () →
    b.reserve qn (entWords (dF sd) (dN0 sd) (dOuter sd)) (some b.nextJob) = some b1 →
    exec (.ld n) s = .next ((s.issued n ((b1.addJob j1).adv .a)).startAccess n b.nextJob)) ∧
  (∀ (s : State) (n w dd n0 n1 : Nat) (f : Fmt) (p : Bool) (j1 : Job) (t : Tens) (b1 : Block),
    let b := s.block n
    let qn := bits w 45 3
    s.ready n .a w → opOf .a w = .st → bit w 48 = true → queueBound b .a qn true = true →
    b.headFields qn = some (some (f, n0, n1, p)) →
    b.aOperand accessDst (bits w 37 8) { b.freshJob .a w .copy with started := false } = .go (dd, j1) →
    f = dF dd → n0 = dN0 dd → n1 = dOuter dd → b.popEntry qn = some (t, b1) →
    exec (.st n) s = .next ((s.issued n ((b1.addJob { j1 with dst := some (bits w 37 8), got := [(0, entBytes t)] }).adv .a)).startAccess
      n b.nextJob))

/-- GTH and SCA (R185, R190, R217): where the indexed operand, its index tensor and the other operands resolve and agree, the
instruction is in flight and its accesses start. -/
def claimGatherAndScatterIssue : Prop :=
  (∀ (s : State) (n w sd ix dd : Nat) (j1 j2 j3 : Job),
    let b := s.block n
    s.ready n .a w → opOf .a w = .gth → bit w 48 = false →
    b.aOperand { accessSrc with indexed := true } (bits w 29 8) { b.freshJob .a w .copy with started := false } = .go (sd, j1) →
    b.aIndex sd j1 = .go (ix, j2) → ¬ (dRank sd = 1 ∧ (dF sd).scaled = true) →
    b.aOperand accessDst (bits w 37 8) j2 = .go (dd, j3) → dF dd = dF sd → dN0 dd = (idxShape sd (dN0 ix)).1 →
    dOuter dd = (idxShape sd (dN0 ix)).2 →
    exec (.gth n) s = .next ((s.issued n ((b.addJob { j3 with dst := some (bits w 37 8) }).adv .a)).startAccess n b.nextJob)) ∧
  (∀ (s : State) (n w dd ix sd : Nat) (j1 j2 j3 : Job),
    let b := s.block n
    s.ready n .a w → opOf .a w = .sca → bit w 46 = false →
    b.aOperand { spaces := [3, 4, 5], fmts := scaFmts, indexed := true, dest := true } (bits w 38 8)
      { b.freshJob .a w .sca with started := false } = .go (dd, j1) →
    b.aIndex dd j1 = .go (ix, j2) → (dISpace dd = 3 ∨ dISpace dd = 4) →
    b.aOperand { spaces := aSpaces, fmts := scaFmts } (bits w 30 8) j2 = .go (sd, j3) → dF sd = dF dd →
    dSizes sd = (if dRank dd = 1 then [dN0 ix] else (dSizes dd).dropLast ++ [dN0 ix]) →
    exec (.sca n) s = .next ((s.issued n ((b.addJob { j3 with dst := some (bits w 38 8) }).adv .a)).startAccess n b.nextJob))

/-- How the accesses of a copy start (R24, R154, R216): a target that refuses ends it in code 0x18, a secure partition that
denies it in code 0x17, a target that is asleep or moving makes it wait, and otherwise the source is read and delivered. -/
def claimAccessStartsWaitsOrFails : Prop :=
  ∀ (s : State) (n id : Nat) (j : Job), (s.block n).job id = some j → j.started = false → j.awaits = [] →
    (opOf j.seq j.word = .ld ∨ opOf j.seq j.word = .st) → j.desc 256 = none →
    let s1 := s.updBlock n (fun b => b.updJob id (fun j => { j with started := true }))
    (∀ hd, j.descs.find? (fun hd => s.descGate n hd.2 == .refused) = some hd →
      s.startAccess n id = s1.jobErr n id { ErrI.of 0x18 with handle := min hd.1 255, arg := dAddr hd.2 }) ∧
    (j.descs.find? (fun hd => s.descGate n hd.2 == .refused) = none → j.descs.any (fun hd => s.descGate n hd.2 == .wait) = true →
      s.startAccess n id = j.descs.foldl (fun t hd => t.wakeDesc hd.2) s) ∧
    (∀ hd, j.descs.find? (fun hd => s.descGate n hd.2 == .refused) = none →
      j.descs.any (fun hd => s.descGate n hd.2 == .wait) = false → j.descs.find? (fun hd => s.descDenied hd.2) = some hd →
      s.startAccess n id = s1.jobErr n id { ErrI.of 0x17 with handle := min hd.1 255, arg := dAddr hd.2 }) ∧
    (j.descs.find? (fun hd => s.descGate n hd.2 == .refused) = none →
      j.descs.any (fun hd => s.descGate n hd.2 == .wait) = false → j.descs.find? (fun hd => s.descDenied hd.2) = none →
      s.startAccess n id = s1.startCopy n { j with started := true } (opOf j.seq j.word == .st))

/-- What a delivery to a descriptor of this part writes (R216): each run of the tensor's bytes at its address in the
destination's space, after which no part of the job is outstanding and a poisoned tensor sets the flag; every byte outside the
runs of a LOCAL destination reads as before. -/
def claimCopyWritesItsRuns : Prop :=
  (∀ (s : State) (n d srcA : Nat) (j : Job) (t : Tens), (bit j.word 48 = false ∨ opOf j.seq j.word = .st) →
    j.desc (bits j.word 37 8) = some d → dSpace d ≠ 1 → dSpace d ≠ 5 →
    s.deliver n j t srcA = ((tensWrites d t).foldl (fun u r => u.writeAt n (dSpace d) (fStack.get d) r.1 r.2) s).jobParts n j.id 0
      (32 * b2n t.bad)) ∧
  (∀ (s : State) (n d srcA : Nat) (j : Job) (t : Tens) (a : Nat), (bit j.word 48 = false ∨ opOf j.seq j.word = .st) →
    j.desc (bits j.word 37 8) = some d → dSpace d = 0 → (s.block n).spad.errs = [] →
    (∀ r ∈ tensWrites d t, r.2.any Prod.snd = false) →
    (∀ r ∈ tensWrites d t, a < r.1 ∨ r.1 + r.2.length ≤ a) →
    ((s.deliver n j t srcA).block n).spad.get a = (s.block n).spad.get a)

/-! Collectives (chapter 13). -/

/-- The kinds of COLL with their numbers (Table 13-3). -/
def collKinds : List ((Nat → List (Nat × Nat) → Instr) × Nat) :=
  [(.collRs, 0), (.collAg, 1), (.collAr, 2), (.collBc, 3), (.collA2a, 4), (.collShift, 5)]

/-- COLL (R346, R349): it waits while its unit holds 16 collectives, stops the block with code 0x1C on an axis that the profile
does not define, and, once its operands and shapes are accepted, joins its unit's list under the unit's next sequence
number. -/
def Obligations.CollectiveIssues : Prop :=
  ∀ ik ∈ collKinds, ∀ (s : State) (n w : Nat) (transit : List (Nat × Nat)),
    s.ready n .a w → opOf .a w = .coll → bits w 46 3 = ik.2 →
    let u := s.acu (bits w 40 3)
    (16 ≤ u.colls.length → exec (ik.1 n transit) s = .next s) ∧
    (u.colls.length < 16 → profDef s.fab.prof (bits w 40 3) = false →
      exec (ik.1 n transit) s = .next (s.blockFault n 0 (s.block n).seqA.pc (ErrI.of 0x1C))) ∧
    (∀ b1 a c, s.prepColl (s.block n) w n transit = .go (b1, a, c) → c.form ≠ .close →
      exec (ik.1 n transit) s = .next (((((s.putBlock n { b1 with wd := 0 }).updAcu a (fun u => { u with
        cseq := (u.cseq + 1) % 256 })).updAcu a (fun u => { u with colls := u.colls ++ [c] })).pump a).checkDone n)) ∧
    (∀ b1 a c, s.prepColl (s.block n) w n transit = .go (b1, a, c) → c.form = .close →
      exec (ik.1 n transit) s = .next (((((List.range 8).foldl (fun t x => t.updAcu x (fun u => { u with
        cseq := (u.cseq + 1) % 256 })) (s.putBlock n { b1 with wd := 0 })).updAcu a (fun u => { u with
        colls := u.colls ++ [c] })).pump a).checkDone n))

/-- The packets of a collective that a unit takes (R349 to R354, R360, R361), for a packet `p` that leads its phase and is ready
(`rest` the queue without it), whose receive slot is free again: a HEAD that agrees is consumed and one that does not abandons the
collective with cause 3; DATA that may be written are combined, forwarded or written; a FLAG or a CLOSE is kept and relayed while
hops are left, and a closing goes on; an ABORT acts whatever stands before it: it is relayed while hops are left and abandons the
collective, and of a collective that is over it is relayed only. -/
def Obligations.CollectivePacketsAreTaken : Prop :=
  ∀ (s : State) (a u : Nat) (p : Packet) (rest : List Packet) (c : Coll), a < 8 → s.pwr.stopped = false →
    let s1 := (s.freeSlot p).updAcu a (fun u => { u with inq := rest })
    let q := tagCseq p.tag
    (takeable 0 (s.known a) [] (s.acu a).inq = some (p, rest) → s1.findColl a q = some (u, c) →
      (headNoPos p.payload = c.headWord c.p → exec (.collHeadReceive a) s = .next s1) ∧
      (headNoPos p.payload ≠ c.headWord c.p → exec (.collHeadReceive a) s = .next ((s1.abandonColl u q 3).pump u))) ∧
    (takeable 1 (s.dataReady a) [] (s.acu a).inq = some (p, rest) → s1.findColl a q = some (u, c) →
      ∀ c1 wr, c.onData p = some (c1, wr) → s1.runsGate (dSpace c.dst) (fStack.get c.dst) (c.writesOf wr) = .ok →
      exec (.collDataReceive a) s = .next ((((s1.updColl a q (fun _ => { c1 with
        bad := c1.bad || (c.writesOf wr).any (fun r => r.2.any Prod.snd) })).writeRuns (dSpace c.dst) (fStack.get c.dst)
          (c.writesOf wr)).ownDone a q).pump a)) ∧
    (takeable 3 (s.known a) [] (s.acu a).inq = some (p, rest) → s1.findColl a q = some (u, c) →
      let pos := fld p.payload 1 1
      let left := fld p.payload 2 1
      let flag := fld p.payload 0 1 % 2 == 1
      let s2 := s1.updColl a q (fun c => { c with flags := c.flags.filter (fun f => f.1 != pos) ++ [(pos, flag)] })
      (left ≤ 1 → exec (.collFlagReceive a) s = .next s2) ∧
      (1 < left → exec (.collFlagReceive a) s = .next (s2.collSend a c (collTag a 3 0 q)
        (nextMember c.members c.pos (fld p.payload 3 1)) (flagPayload flag pos (left - 1) (fld p.payload 3 1))))) ∧
    (∀ x, takeable 4 (s.known a) [] (s.acu a).inq = some (p, rest) → s1.findClose a q = some (u, c, x) →
      let word := fld p.payload 0 8
      let pos := fld p.payload 8 1
      let left := fld p.payload 9 1
      let d := fld p.payload 10 1
      let s2 := s1.updColl u c.cseq (fun c => { c with
        words := c.words.filter (fun y => y.1 != a || y.2.1 != pos) ++ [(a, pos, word)] })
      let s3 := if 1 < left then
          s2.collSend u c (collTag a 4 0 q) (nextMember x.members x.pos d) (closePayload word pos (left - 1) d)
        else s2
      exec (.collCloseReceive a) s = .next ((s3.closeAdvance 20 u c.cseq).pumpAll)) ∧
    (abortIn (s.known a) [] (s.acu a).inq = some (p, rest) →
      let cause := fld p.payload 0 1
      let left := fld p.payload 1 1
      let d := fld p.payload 2 1
      let node := fld p.payload 4 2
      let relay (members : List Nat) (pos : Nat) : State :=
        if 1 < left then s1.send (nextMember members pos d) .resp
          [s1.fab.one (nextMember members pos d) tCOLL (collTag a 5 0 q) (abortPayload cause (left - 1) d node)]
        else s1
      (s1.findColl a q = some (u, c) →
        (cause ≠ 7 → exec (.collAbortReceive a) s = .next (((relay c.members c.pos).abandonColl u q 5).pump u)) ∧
        (cause = 7 →
          let t := ((relay c.members c.pos).abandonColl u q 7).pump u
          exec (.collAbortReceive a) s = .next { t with fab := { t.fab with
            stopQ := t.fab.stopQ ++ [(2, s1.now * 2 ^ 192 + node * 2 ^ 176 + 0x020E * 2 ^ 160)] } })) ∧
      (∀ x, s1.findColl a q = none → s1.findClose a q = none → (s1.acu a).past.find? (fun x => x.cseq == q) = some x →
        exec (.collAbortReceive a) s = .next (relay x.members x.pos)))

/-- COLL_COMPLETION (R357): a plain collective that has sent and received everything, whose packets are all acknowledged and,
where it reduces, whose flags have all come, leaves its unit; its instruction is complete with NF where a flag is set and
POISON where a poisoned word was written. -/
def claimCollectiveCompletes : Prop :=
  ∀ (s : State) (a q : Nat) (c : Coll), a < 8 → s.pwr.stopped = false → s.coll a q = some c → c.form = .plain →
    c.started = true →
    c.allSent = true → c.allCome = true → c.unsent = 0 → (c.red = false ∨ c.flags.length = c.p) →
    exec (.collCompletion a q) s =
      .next ((s.endColl a c (4 * b2n (c.red && c.flags.any Prod.snd) + 32 * b2n c.bad)).pump a)

/-- CLOSING_COLLECTIVE (R360): once no binding of any stack has a trigger of the step, the part's contribution is its step with
bit 63 set where an update of the step met a non-finite value, and it goes out along the first axis. -/
def claimClosingContributesTheStep : Prop :=
  ∀ (s : State) (u : Nat) (c : Coll) (more : List (Nat × Coll)), s.pwr.stopped = false →
    (List.range 8).flatMap (fun u => ((s.acu u).colls.filter (fun c => c.form == .close && !c.started)).map (fun c => (u, c)))
      = (u, c) :: more →
    (let open_ := s.stks.any (fun k => k.sue.binds.any (fun b => match b.trig with | some t => t.step == c.step | none => false))
     let nf := s.stks.any (fun k => k.sue.nfSteps.contains c.step)
     (open_ = true → exec .closingCollective s = .next s) ∧
     (open_ = false → exec .closingCollective s = .next (State.pumpAll (State.closeAdvance 20
       { s.updColl u c.cseq (fun c => { c with started := true, word := c.step % 2 ^ 32 + b2n nf * 2 ^ 63 }) with
         fab := { (s.updColl u c.cseq (fun c => { c with started := true, word := c.step % 2 ^ 32 + b2n nf * 2 ^ 63 })).fab with
           contrib := some (c.step, nf) } } u c.cseq))))

/-- COLL_DEADLINE (R361, R368, R369): where the deadline has passed and its kind is enabled, a collective that can complete
completes and none is missed; any other is abandoned, its RUNNING block is fenced with code 0x1F and its record kept, and the miss is
logged and relayed; before the deadline, or with its kind off, nothing changes. -/
def claimCollectiveDeadlineAbandons : Prop :=
  ∀ (s : State) (a q dl : Nat) (c : Coll), a < 8 → s.pwr.stopped = false → s.coll a q = some c → c.dl = some dl →
    let r := s.dlRec dl 0 a c.late (c.b % 256 * 2 ^ 24 + q % 256)
    let s0 := s.collComplete a q
    let s1 := s.abandonColl a q 1
    ((s.now < dl ∨ s.dlOn 0 = false) → exec (.collDeadline a q) s = .next s) ∧
    (dl ≤ s.now → s.dlOn 0 = true → s0.coll a q = none → exec (.collDeadline a q) s = .next s0) ∧
    (dl ≤ s.now → s.dlOn 0 = true → s0.coll a q ≠ none → (s1.block c.b).st = .running →
      exec (.collDeadline a q) s = .next (((s1.updBlock c.b (fun b => { b.fence 0x1F with
        lastFault := some (0x1F, 0, r) })).miss 1 c.b 0 r).pump a)) ∧
    (dl ≤ s.now → s.dlOn 0 = true → s0.coll a q ≠ none → (s1.block c.b).st ≠ .running →
      exec (.collDeadline a q) s = .next ((s1.miss 1 c.b 0 r).pump a))

/-! The mesh, the region stores and the scratchpad's own work (chapter 6). -/

/-- NOC_TRANSFER_DELIVERY (R154, R155, R159, R445): the oldest transfer between two blocks, in sequence and with its check good,
writes its runs and its sender hears of it, or brings what the receiver's instruction reads; out of sequence or with a bad check it
is discarded, counted, and its failure goes to the block whose instruction it serves; it waits while the receiver's secure partition
is being wiped under it or its region moves, and is refused by a region that is OFF or in RETAIN and by a secure partition. NOC_E2E
stops the block that a failure comes back to with code 0x19. -/
def claimTransferDeliveredOrDiscarded : Prop :=
  (∀ (s : State) (src dst : Nat) (bad : Bool) (x : NocT), src < 144 → dst < 144 → s.pwr.stopped = false →
    s.noc.find? (fun t => t.src == src && t.dst == dst) = some x →
    let b := s.block dst
    let s1 := { s with noc := s.noc.erase x }
    let touches := x.rd = false ∧ ∃ r ∈ x.runs, inSecure r.1 r.2.length = true
    let at_ := dst * 2 ^ 21 + ((x.runs.head?).map Prod.fst).getD 0
    let s2 := s1.updBlock dst (fun b => { b with nocIn := seqNext b.nocIn src })
    (s.regionGate (dst / 36) = .wait → exec (.nocTransferDelivery src dst bad) s = .next s) ∧
    (s.regionGate (dst / 36) = .refused → exec (.nocTransferDelivery src dst bad) s =
      .next (s1.jobErr src x.job { ErrI.of 0x18 with arg := at_ })) ∧
    (s.regionGate (dst / 36) = .ok → b.wiping = true → touches → exec (.nocTransferDelivery src dst bad) s = .next s) ∧
    (s.regionGate (dst / 36) = .ok → ¬ (b.wiping = true ∧ touches) →
      ((bad = true ∨ seqFor b.nocIn src ≠ x.seq) → exec (.nocTransferDelivery src dst bad) s =
        .next { s1.updBlock dst (fun b => b.count 30 1) with
          nocFail := s.nocFail ++
            [(if x.rd then dst else src, x.job, dst + 65536 * x.seq + 2 ^ 24 * (if bad then 1 else 2))] }) ∧
      (bad = false → seqFor b.nocIn src = x.seq → x.rd = true → exec (.nocTransferDelivery src dst bad) s =
        .next ((s2.updBlock dst (fun b => b.updJob x.job (fun j => { j with got := j.got ++ x.runs }))).jobPart dst x.job)) ∧
      (bad = false → seqFor b.nocIn src = x.seq → x.rd = false → b.sec = true → touches →
        exec (.nocTransferDelivery src dst bad) s = .next (s2.jobErr src x.job { ErrI.of 0x17 with arg := at_ })) ∧
      (bad = false → seqFor b.nocIn src = x.seq → x.rd = false → ¬ (b.sec = true ∧ touches) →
        exec (.nocTransferDelivery src dst bad) s =
          .next ((s2.putBlock dst ((s2.block dst).writeR x.runs)).jobPart src x.job)))) ∧
  (∀ (s : State) (n : Nat) (f : Nat × Nat × Nat) (j : Job), n < 144 → s.pwr.stopped = false →
    s.nocFail.find? (fun f => f.1 == n) = some f → (s.block n).job f.2.1 = some j →
    exec (.nocE2e n) s = .next ({ s with nocFail := s.nocFail.erase f }.jobFault n j { ErrI.of 0x19 with arg := f.2.2 }))

/-- REGION_STORE_ACCESS (R24, R145, R156, R445): a write lands, the words that it covers in part read first and their errors
recorded; a read answers with the bytes and whether a word was uncorrectable; the access waits during a move between RETAIN and
ARMED, and ends in an abort where the region is OFF or in RETAIN. -/
def claimRegionStoreReadsAndWrites : Prop :=
  ∀ (s : State) (r off len : Nat) (data : List Byte), r < 4 → off + len ≤ 2 ^ 24 → s.pwr.stopped = false →
    (s.regionGate r = .ok →
      let bs := (fitTo len data).map (fun b => (b, false))
      let g := (s.region r).note (partWords (s.region r).store [(off, bs)])
      exec (.regionStoreAccess r true off len data) s =
        .next (s.putRegion r { g with store := (s.region r).store.write off (fitTo len data) })) ∧
    (s.regionGate r = .ok → ∃ t, exec (.regionStoreAccess r false off len data) s = .next t ∧
      t.out = s.out ++ [.read (((s.region r).store.readP off len).map Prod.fst) (((s.region r).store.readP off len).any Prod.snd)] ∧
      (t.region r).store = (s.region r).store) ∧
    (∀ wr, s.regionGate r = .wait → exec (.regionStoreAccess r wr off len data) s =
      .next (s.updRegion r (fun g => { g with waits := g.waits ++ [⟨wr, off, len, data⟩] }))) ∧
    (∀ wr, s.regionGate r = .refused → exec (.regionStoreAccess r wr off len data) s = .next { s with out := s.out ++ [.abort] })

/-- A region store byte that was written reads back as written, and one outside the write is left as it was (R156). -/
def claimRegionStoreWriteThenByte : Prop :=
  ∀ (s : State) (r off : Nat) (data : List Byte) (a : Nat), r < 4 → r < s.regions.length → off + data.length ≤ 2 ^ 24 →
    s.pwr.stopped = false → s.regionGate r = .ok → (s.region r).store.errs = [] →
    ∃ t, exec (.regionStoreAccess r true off data.length data) s = .next t ∧
      (∀ i, i < data.length → (t.region r).store.get (off + i) = data.getD i 0) ∧
      ((a < off ∨ off + data.length ≤ a) → (t.region r).store.get a = (s.region r).store.get a)

/-- SCRATCHPAD_SCRUB_TICK (R151): the word the scrubber stands at is corrected in place, or poisoned where it is uncorrectable,
and counted; the scrubber moves on, and after the last word a pass is counted. SECURE_WIPE_COMPLETE (R155): the secure partition
holds zeros and accesses go on. -/
def claimScrubAndWipe : Prop :=
  (∀ (s : State) (n : Nat), n < 144 → s.scrubOn n = true →
    let b := s.block n
    let w := b.scrubAt
    ∃ b1, exec (.scratchpadScrubTick n) s = .next (s.putBlock n b1) ∧
      b1.scrubAt = (if 65536 ≤ w + 1 then 0 else w + 1) ∧
      (b.spad.state w = .clean → b1.spad = b.spad ∧ b1.evs = b.evs) ∧
      (∀ p e, b.spad.state w = .corrected p e → b1.spad = b.spad.fix w ∧ b1.evs = b.evs) ∧
      (b.spad.state w = .uncorrectable → b1.spad = b.spad.poison w ∧ b1.evs = b.evs ++ [(0x0102, 32 * w, 0)]) ∧
      b1 = { b with spad := b1.spad, ctr := b1.ctr, corrNow := b1.corrNow, evs := b1.evs, scrubAt := b1.scrubAt }) ∧
  (∀ (s : State) (n : Nat), n < 144 → s.pwr.stopped = false → (s.block n).wiping = true →
    exec (.secureWipeComplete n) s = .next (((s.updBlock n (fun b => { b with
      spad := b.spad.zero secBase (2 ^ 18), wiping := false, sec := b.sec && !b.clearSec, clearSec := false })).tamperDone n).resume.regionsGo))

/-! Starting a block (R165, R446). -/

/-- BLOCK_START_MESSAGE: in a RUN region the kept header is applied and the block runs; in an ARMED region its clock, where it
does not run, joins the end of the region's line; in any other the message is dropped. -/
def claimStartMessageStartsTheBlock : Prop :=
  ∀ (s : State) (n : Nat), n < 144 → s.pwr.stopped = false → s.starts.contains n = true →
    let s1 := { s with starts := s.starts.erase n }
    let r := n / 36
    ((s.region r).st = .run → exec (.blockStartMessage n) s = .next ((s1.updBlock n Block.applyStart).checkDone n)) ∧
    ((s.region r).st = .armed → (s.block n).clk = .running →
      exec (.blockStartMessage n) s = .next ((s1.updBlock n Block.applyStart).checkDone n)) ∧
    ((s.region r).st = .armed → (s.block n).clk ≠ .running → exec (.blockStartMessage n) s =
      .next (((s1.updBlock n Block.applyStart).updBlock n (fun b => { b with clk := .admitted })).updRegion r
        (fun g => { g with waiting := g.waiting ++ [n] }))) ∧
    ((s.region r).st = .off ∨ (s.region r).st = .retain → exec (.blockStartMessage n) s = .next s1)

/-- What the start applies (R165): the block is RUNNING with the header's tokens and queues, its sequences at their entries, its
masks all ones, and no tile open. -/
def claimStartAppliesTheHeader : Prop :=
  ∀ b : Block,
    let t := b.applyStart
    t.st = .running ∧ t.toks = (List.range 64).map (fun i => fld b.kept (64 + 2 * i) 2) ∧
    t.qs = (List.range 8).map (fun i => ⟨qcfgOf (fld b.kept (192 + 8 * i) 8), 0, []⟩) ∧
    t.seqA = ⟨0, [], none⟩ ∧ t.seqF = ⟨0, [], none⟩ ∧ t.seqB = ⟨fld b.kept 12 2, [], none⟩ ∧
    t.maskF = List.replicate 8 maskAll ∧ t.maskB = List.replicate 8 maskAll ∧ t.tiles = [] ∧ t.jobs = [] ∧ t.markF = 0 ∧
    t.markB = 0 ∧ t.fault = 0

/-- BLOCK_CLOCK_RAMP_COMPLETE (R446, R452): the oldest clock in a region's line runs, unless issue is paused.
BLOCK_CLOCK_GATE (R446): an ended block of an ARMED region that has had nothing to do for 64 cycles gates its clock. -/
def claimClocksRampAndGate : Prop :=
  (∀ (s : State) (n : Nat) (rest : List Nat), n < 144 → (s.region (n / 36)).waiting = n :: rest →
    (s.issueOn = true → exec (.blockClockRampComplete n) s =
      .next (((s.updRegion (n / 36) (fun g => { g with waiting := rest })).updBlock n (fun b => { b with
        clk := .running, idle := 0 })).checkDone n)) ∧
    (s.issueOn = false → exec (.blockClockRampComplete n) s = .next s)) ∧
  (∀ (s : State) (n : Nat), n < 144 → s.pwr.stopped = false → (s.region (n / 36)).st = .armed → (s.block n).clk = .running →
    ((s.block n).st = .done ∨ (s.block n).st = .stopped ∨ (s.block n).st = .faulted) → (s.block n).jobs = [] →
    64 ≤ (s.block n).idle →
    exec (.blockClockGate n) s = .next (s.updBlock n (fun b => { b with clk := .gated })))

/-! Pins (chapter 10). -/

/-- PIN_REQUEST (R263, R271, R272): the binding answers the oldest request of a handle: refused with cause 1 where no stack binds
the layer and with cause 2 where the slot's count is full, held, with its place in the order of arrival, where a split binding is
being written, granted otherwise. -/
def claimPinRequestIsAnswered : Prop :=
  ∀ (s : State) (n h : Nat) (r : PinReq), n < 144 → s.pwr.stopped = false →
    (s.block n).pinq.find? (fun r => r.h == h && r.ans == .waiting) = some r →
    (s.bindStack r.layer = none →
      exec (.pinRequest n h) s = .next (s.updBlock n (fun b => b.answer r.req (.refused 1)))) ∧
    (∀ k b, s.bindStack r.layer = some k → (s.stack k).sue.bind r.layer = some b →
      (b.split = true ∧ (b.writing = true ∨ b.rolling = true) →
        exec (.pinRequest n h) s = .next ((s.updStack k (fun st => { st with sue := { st.sue with
          asked := st.sue.asked + 1 } })).updBlock n (fun x => x.answer r.req (.held k (s.stack k).sue.asked)))) ∧
      (¬ (b.split = true ∧ (b.writing = true ∨ b.rolling = true)) → 65535 ≤ b.pins b.slot →
        exec (.pinRequest n h) s = .next (s.updBlock n (fun x => x.answer r.req (.refused 2)))) ∧
      (¬ (b.split = true ∧ (b.writing = true ∨ b.rolling = true)) → b.pins b.slot < 65535 →
        exec (.pinRequest n h) s = .next ((s.updStack k (fun st => st.updBind r.layer (fun b => b.addPin b.slot))).updBlock n
          (fun x => x.answer r.req (.granted k b.slot b.pubVer)))))

/-- PIN_GRANT (R263, R265): the handle becomes PINNED to the granted slot, or, where the request was superseded, its pin is
released after the instructions issued under it; what waited on it goes on. PIN_REFUSED (R271) stops the block with code 0x1B.
PIN_RELEASE (R264) lowers the slot's count once no instruction that named the handle is in flight. -/
def claimPinGrantRefusalRelease : Prop :=
  (∀ (s : State) (n h k slot ver : Nat) (r : PinReq), n < 144 → s.pwr.stopped = false →
    let b := s.block n
    b.pinq.find? (fun r => r.h == h && (match r.ans with | .granted _ _ _ => true | _ => false)) = some r →
    r.ans = .granted k slot ver →
    let users := (b.jobs.filter (fun j => j.awaits.any (fun x => x.2 == r.req))).map Job.id
    let b1 := { b with pinq := b.pinq.filter (fun x => x.req != r.req), jobs := b.jobs.map (fun (j : Job) => j.grant r.req slot) }
    let b2 := if r.sup then { b1 with rels := b1.rels ++ [PinRel.mk h r.layer slot users] }
      else b1.setPin { h := h, pinned := true, pending := false, slot := slot, layer := r.layer, ver := ver, req := r.req }
    exec (.pinGrant n h) s =
      .next (((users.foldl (fun t id => t.startAccess n id) (s.putBlock n (users.foldl Block.startLocal b2))).checkDone n).pumpAll)) ∧
  (∀ (s : State) (n h sub : Nat) (r : PinReq), n < 144 → s.pwr.stopped = false →
    let b := s.block n
    b.pinq.find? (fun r => r.h == h && (match r.ans with | .refused _ => true | _ => false)) = some r → r.ans = .refused sub →
    r.sup = false →
    exec (.pinRefused n h) s = .next (((s.putBlock n ({ b with
      pinq := b.pinq.filter (fun x => x.req != r.req) }.setPin ⟨h, false, false, 0, 0, 0, 0⟩)).blockFault n (srcOf r.seq) r.pc
        { ErrI.of 0x1B with sub := sub, handle := h, arg := r.layer }).checkDone n)) ∧
  (∀ (s : State) (n h k : Nat) (r : PinRel), n < 144 → s.pwr.stopped = false →
    (s.block n).rels.find? (fun r => r.h == h && r.after.all (fun i => ((s.block n).job i).isNone)) = some r →
    s.bindStack r.layer = some k →
    exec (.pinRelease n h) s = .next ((s.updBlock n (fun b => { b with rels := b.rels.erase r })).updStack k
      (fun st => st.release r.layer r.slot)))

/-! Stacks and their controllers (chapter 9). -/

/-- Writes to a stack (R237, R281, R303): STACK_WRITE_ACCEPT, TRIGGER_WRITE and STEP_WORD_WRITE go through the buffer and what
the engine makes of the words they cover whole; a sleeping stack is woken and the write waits at its edge (R24); one that cannot
answer takes nothing. -/
def claimStackWritesAreAccepted : Prop :=
  ∀ (s : State) (n : Nat), n < 12 → s.pwr.stopped = false →
    (∀ off data, off + data.length ≤ stackBytes → s.stackGate n = .ok →
      exec (.stackWriteAccept n off data) s = .next ((s.storeStack n off (cleanBytes data)).settle n)) ∧
    (∀ off data, off + data.length ≤ stackBytes → s.stackGate n = .wait →
      exec (.stackWriteAccept n off data) s = .next ((s.wakeStack n).updStack n (fun k => { k with
        edge := k.edge ++ [(off, cleanBytes data)] }))) ∧
    (∀ off data, off + data.length ≤ stackBytes → s.stackGate n = .refused →
      exec (.stackWriteAccept n off data) s = .next s) ∧
    (∀ layer w b, (s.stack n).sue.bind layer = some b → s.stackGate n = .wait →
      exec (.triggerWrite n layer w) s = .next ((s.wakeStack n).updStack n (fun k => { k with
        edge := k.edge ++ [(b.trigOff, cleanBytes (toLE 8 w))] }))) ∧
    (∀ layer w b, (s.stack n).sue.bind layer = some b → s.stackGate n = .ok →
      exec (.triggerWrite n layer w) s = .next ((s.storeStack n b.trigOff (cleanBytes (toLE 8 w))).settle n)) ∧
    (∀ w o, (s.stack n).sue.stepOff = some o → s.stackGate n = .ok →
      exec (.stepWordWrite n w) s = .next ((s.storeStack n o (cleanBytes (toLE 8 w))).settle n))

/-- STACK_REQUEST (R240): a request that the stack does not refuse wakes it and joins the queue of its class, cut at its
granules. -/
def claimStackRequestQueues : Prop :=
  ∀ (s : State) (n cls off len : Nat) (wr : Bool), n < 12 → cls < 5 → off + len ≤ stackBytes → s.pwr.stopped = false →
    s.stackGate n ≠ .refused →
    exec (.stackRequest n cls wr off len) s = .next ((s.wakeStack n).updStack n (fun k => { k with
      reqs := k.reqs ++ (stackCuts (len / 256 + 2) off len).map (fun p =>
        ⟨cls, wr, p.1, bursts p.1 p.2, s.now, false⟩) }))

/-- The controllers' own work: a line 2 µs old leaves the buffer for its channel's write queue, once that has room (R238, R239); a
request that has waited 8 µs is served first once its channel runs its way, and a promoted write turns the channel as R243 has it
(R241, R243); a channel that must switch does (R243); a refresh takes the next of 36 banks, whose rows close, for a time that the
spec does not give (R247); the temperature readout doubles the refresh above 85 °C and ends that at 83 °C (R247); the scrubber reads
its next granule (R251). -/
def claimStackControllersWork : Prop :=
  ∀ (s : State) (n : Nat), n < 12 → s.pwr.stopped = false →
    let k := s.stack n
    (∀ l, k.wcb.find? (fun x => x.line == l.line) = some l → l.t + 200 ≤ s.now → k.room l.line = true →
      exec (.wcbLineTimeout n l.line) s = .next (s.putStack n (k.flush s.now l))) ∧
    (∀ ch r, ch < 32 → ch < k.chans.length → n < s.stks.length →
      k.reqs.find? (fun r => (place r.off).pc / 2 == ch && r.promoted s.now) = some r →
      ((k.chans.getD ch ⟨false, 0, 0⟩).wr = r.wr →
        exec (.writePromotion n ch) s = .next (s.updStack n (fun k => k.serveSlot s.now (place r.off).pc))) ∧
      ((k.chans.getD ch ⟨false, 0, 0⟩).wr ≠ r.wr → k.mustSwitch s.now ch = true →
        exec (.writePromotion n ch) s = .next (s.updStack n (fun k => (k.switch s.now ch).serveSlot s.now (place r.off).pc))) ∧
      ((k.chans.getD ch ⟨false, 0, 0⟩).wr ≠ r.wr → k.mustSwitch s.now ch = false → exec (.writePromotion n ch) s = .next s)) ∧
    (∀ ch, ch < 32 → n < s.stks.length → k.mustSwitch s.now ch = true →
      exec (.channelDirectionSwitch n ch) s = .next (s.updStack n (fun k => k.switch s.now ch))) ∧
    (n < s.stks.length → k.st = .active → ∃ d,
      exec (.stackRefresh n) s = .next ({ s with freeN := s.freeN + 1 }.updStack n (fun k => { k with
        bank := (k.bank + 1) % 36, refr := some (k.bank, s.now + d), rows := k.rows.filter (fun o => o.bank != k.bank) }))) ∧
    (∀ c, exec (.stackTemperatureSample n c) s = .next (s.updStack n (fun k => { k with
      temp := c, hot := if c > 85 * 16 then true else if c ≤ 83 * 16 then false else k.hot }))) ∧
    (k.st = .active → exec (.patrolScrub n) s = .next (s.putStack n (k.scrub s.now)))

/-- SELF_REFRESH_ENTRY (R239, R447) drains the buffer and the write queues, whose writes then wait no more; STACK_WAKE (R447) makes
the stack ACTIVE 4 µs after its wake began, with an event where a request woke it, and the writes held at its edge are accepted in
order (R24). -/
def claimSelfRefreshEntryAndWake : Prop :=
  ∀ (s : State) (n : Nat), n < 12 → s.pwr.stopped = false →
    ((s.stack n).st = .entering → exec (.selfRefreshEntry n) s = .next ((s.putStack n { (s.stack n).drain s.now with
      st := .selfRefresh, rows := [], refr := none
      reqs := (s.stack n).reqs.filter (fun r => !r.wr && r.cls != 2) }).chipStep)) ∧
    ((s.stack n).st = .waking → s.now < (s.stack n).wake → exec (.stackWake n) s = .next s) ∧
    ((s.stack n).st = .waking → (s.stack n).wake ≤ s.now →
      let s1 := s.updStack n (fun k => { k with st := .active, byReq := false, edge := [] })
      let s2 := if (s.stack n).byReq then s1.emit 0x0103 4 n 0 0 else s1
      exec (.stackWake n) s =
        .next ((s.stack n).edge.foldl (fun t w => (t.storeStack n w.1 w.2).settle n) s2).resume)

/-- SCA_ROW_APPLY (R217, R248 to R250): the oldest row on its way to an ACTIVE stack is applied, its elements of one word by one read
and one write of it, and its job hears of it: of a word written poisoned in its flags, and of the values before where it asked for
them. A stack that sleeps is woken and the row waits. -/
def claimScatterRowIsApplied : Prop :=
  (∀ (s : State) (n : Nat) (r : ScaRow) (rest : List ScaRow), n < 12 → s.pwr.stopped = false → (s.stack n).scas = r :: rest →
    s.stackGate n = .wait → exec (.scaRowApply n) s = .next (s.wakeStack n)) ∧
  (∀ (s : State) (n b job : Nat) (r : ScaRow) (rest : List ScaRow), n < 12 → s.pwr.stopped = false →
    (s.stack n).scas = r :: rest → s.stackGate n = .ok → r.who = .block b job →
    let ko := { s.stack n with scas := rest }.scaEls s.now s.time.policy r.fmt r.op r.sat r.els
    let s1 := (s.putSue n ko.1).updBlock b (fun bb => bb.updJob job (fun j => { j with flags := j.flags ||| (32 * b2n ko.2.2) }))
    let w := r.fmt.width / 8
    (r.ret = false → exec (.scaRowApply n) s = .next (s1.jobPart b job)) ∧
    (r.ret = true → exec (.scaRowApply n) s = .next ((s1.updBlock b (fun bb => bb.updJob job (fun j => { j with
      got := j.got ++ ko.2.1.map (fun o => ((r.row + o.1) * w, (toLE w o.2.1).map (fun x => (x, o.2.2)))) }))).jobPart b job)))

/-! Stack update engines (chapters 10 and 11). -/

/-- What a trigger word does (R281, R282, R303): a step not after the last, or already closed, is ignored with an event; a
second trigger faults the binding; otherwise the trigger is queued, and its step flag is kept where the word says so. -/
def claimTriggerQueuesOrIsIgnored : Prop :=
  ∀ (k : Stack) (now pol l w : Nat) (b : Bind), k.sue.bind l = some b → b.faulted = false →
    let step := bits w 0 32
    let stale := step = 0xFFFFFFFF ∨ step ≤ b.last ∨ step ≤ k.sue.closed
    (stale → k.trigger now pol l w = { k with evs := k.evs ++ [(0x0305, l + step * 65536, 0)] }) ∧
    (¬ stale → ∀ t, b.trig = some t → k.trigger now pol l w =
      { k with evs := k.evs ++ [(0x0301, l, 0)] }.updBind l (fun b => { b with faulted := true })) ∧
    (¬ stale → b.trig = none → (k.trigger now pol l w).sue.queue = k.sue.queue ++ [l] ∧
      (k.trigger now pol l w).mem = k.mem ∧ (bit w 63 = true → step ∈ (k.trigger now pol l w).sue.nfSteps))

/-- SUE_PASS_START (R283, R284): the first trigger in the queue that the step gate lets through is skipped where its step flag is
set, waits where its slot is pinned, and otherwise its pass begins with its lanes' generators seeded for the step. -/
def claimPassStartServesTheFirstTrigger : Prop :=
  ∀ (s : State) (n l : Nat) (b : Bind) (t : Trig), n < 12 → s.pwr.stopped = false →
    let k := s.stack n
    k.sue.pass = none →
    k.sue.queue.find? (fun l => match k.sue.bind l with
      | some b => (match b.trig with | some t => !(k.sue.heldT t) && !b.rolling | none => false)
      | none => false) = some l →
    k.sue.bind l = some b → b.trig = some t →
    (t.nf = false → b.pins b.nextSlot ≠ 0 → exec (.suePassStart n) s = .next (s.putSue n ({ k with sue := { k.sue with
      queue := k.sue.queue.filter (fun x => x != l) } }.updBind l (fun b => { b with trig := some { t with phase := .waiting } })))) ∧
    (t.nf = false → b.pins b.nextSlot = 0 → ∃ k1, exec (.suePassStart n) s = .next (s.putSue n k1) ∧
      k1.sue.lanes = seedLanes 1024 (b.seed ^^^ t.step) ∧ (∃ p, k1.sue.pass = some p ∧ p.layer = l ∧ p.step = t.step ∧ p.group = 0) ∧
      k1.mem = k.mem) ∧
    (t.nf = true → b.rowsL = false → exec (.suePassStart n) s = .next (s.putSue n (((({ k with sue := { k.sue with
      queue := k.sue.queue.filter (fun x => x != l) } }.writeStats s.now b (statsRec 0 0 0 t.step 0 0 0 1)).updBind l Bind.done).count
        17 1))))

/-- SUE_PASS_END (R267, R284): a pass that met no poisoned word publishes: the version rises by 1, the slot turns over in an
unsplit binding, LAST_STEP is its step, its trigger is finished and the pass is over. One that met a poisoned word publishes
nothing: what it wrote is put back, its record takes OUTCOME 3, the first such word is reported and its binding faults (R286,
R481). -/
def claimPassEndPublishes : Prop :=
  ∀ (s : State) (n : Nat) (p : Pass) (b : Bind), n < 12 → s.issueOn = true →
    let k := Stack.runGroups (s.stack n).passLeft (s.stack n) s.now none
    k.sue.pass = some p → k.sue.bind p.layer = some b →
    let rec_ (out : Nat) := statsRec (pairSum 11 p.ssqW) (pairSum 11 p.ssqG) (pairSum 11 p.ssqU) p.step p.elems p.nfG p.poisG out
    let k1 (out : Nat) : Stack :=
      let k0 := k.writeStats s.now b (rec_ out)
      { k0 with sue := { k0.sue with pass := none } }
    (p.bads = [] → b.gatherB = false →
      exec (.suePassEnd n) s = .next ((s.putSue n (((k1 0).updBind p.layer (fun b =>
        { b with
          pubVer := (b.pubVer + 1) % 2 ^ 32, slot := if b.split then 0 else 1 - b.slot, writing := false, prev := b.last
          last := p.step, rbOk := !p.jOver, trig := none, jFill := p.jFill, jOver := p.jOver })).count 15 1)).pumpAll)) ∧
    (∀ w rest, p.bads = w :: rest →
      exec (.suePassEnd n) s = .next ((s.putSue n (((k1 3).undo s.now b p.elems p.jFill p.jOver p.bads).ev 0x0304
        (p.layer + 32 * w * 65536) 0 |>.updBind p.layer (fun b => { b with
          writing := false, trig := none, faulted := true }))).pumpAll))

/-- STEP_CLOSE (R305): the step written in the step word closes once no trigger of it or before it is unfinished; CLOSED_STEP is
then that step, and no step is being closed. -/
def claimStepClosesOnceTriggersEnd : Prop :=
  ∀ (s : State) (n step : Nat) (nf : Bool), n < 12 → s.pwr.stopped = false →
    let k := s.stack n
    k.sue.closing = some (step, nf) →
    (k.sue.canClose = false → exec (.stepClose n) s = .next (s.putSue n k)) ∧
    (k.sue.canClose = true → ∃ k1, exec (.stepClose n) s = .next (s.putSue n k1) ∧ k1.sue.closed = step ∧
      k1.sue.closing = none ∧ k1.sue.queue = k.sue.queue)

/-- R305, items 2 and 3: under the dynamic scale a flagged step halves the loss scale and clears the count of clean steps; the
last clean step of a growth period doubles it; any other clean step is counted. -/
def claimLossScaleFollowsTheFlag : Prop :=
  ∀ (x : Sue), x.mode ≠ 0 →
    ((x.rescale true).1.clean = 0 ∧ (x.emin < x.e → (x.rescale true).1.e = x.e - 1 ∧ (x.rescale true).2 = false) ∧
      (x.e ≤ x.emin → (x.rescale true).1.e = x.e ∧ (x.rescale true).2 = true)) ∧
    (x.clean + 1 < x.grow → x.rescale false = ({ x with clean := x.clean + 1 }, false)) ∧
    (x.grow ≤ x.clean + 1 → (x.rescale false).1.clean = 0 ∧
      (x.e < x.emax → (x.rescale false).1.e = x.e + 1 ∧ (x.rescale false).2 = false) ∧
      (x.emax ≤ x.e → (x.rescale false).1.e = x.e ∧ (x.rescale false).2 = true))

/-- ROLLBACK_COMPLETE (R307) ends the rewriting of a binding; LAYER_UPDATE_DEADLINE (R285) logs a trigger whose time is up and
lets it go on; PIN_DEADLINE (R269) abandons an update that still waits on pins. -/
def claimRollbackAndUpdateDeadlines : Prop :=
  ∀ (s : State) (n l : Nat) (b : Bind), n < 12 → s.pwr.stopped = false → (s.stack n).sue.bind l = some b →
    (exec (.rollbackComplete n l) s = .next (s.putSue n ((s.stack n).updBind l (fun b =>
      if b.rolling then { b with rolling := false, writing := false } else b)))) ∧
    (∀ t dl, b.trig = some t → t.dl = some dl → dl ≤ s.now →
      (t.phase ≠ .waiting → t.miss = false → s.dlOn 1 = true →
        let s1 := s.updStack n (fun k => k.updBind l (fun b => { b with trig := some { t with miss := true } }))
        exec (.layerUpdateDeadline n l) s = .next (s1.miss 4 n 0 (s1.dlRec dl 1 0 [s.fab.node] (updSubject n l)))) ∧
      (t.phase = .waiting → t.noPin = false → s.dlOn 2 = true →
        exec (.pinDeadline n l) s = .next ((s.putSue n ((s.stack n).abandon s.now l)).miss 4 n 0
          (s.dlRec dl 2 0 (s.pinHolders l b.nextSlot) (updSubject n l)))))

/-! Links and endpoints (chapter 12). -/

/-- LINK_SLOT_TRANSMIT (R316, R319, R320, R329 to R331, R465): slot 0 of every frame of 257 is the control slot; in each other slot
an UP link sends the packet it chooses, spending a credit of its virtual channel and freeing the receive slot that the packet held,
or, with none to send, leaves the slot empty. During the gate slot 0 is a training slot and the others carry the PRBS31 pattern. -/
def claimLinkSlotSendsTheChosenPacket : Prop :=
  ∀ (s : State) (l : Nat), l < 64 → s.pwr.stopped = false → s.dieUp (l / 32) = true →
    let k := s.link l
    let on := k.mute s.now = false
    (k.st.slots = true → k.txPos = 0 → on → exec (.linkSlotTransmit l) s =
      .next { s.updLink l (fun _ => { k with txPos := 1, sampled := some (s.now / 100) }) with
        out := s.out ++ [.control l (s.ctlBytes l)] }) ∧
    (k.st = .up → k.txPos ≠ 0 →
      let k0 := { k with txPos := (k.txPos + 1) % 257 }
      let k1 := if k.tx.any (fun x => x.turn != 0 && k.credits x.p.vc == 1) then k0.count lBubble else k0
      (k.choose = none → exec (.linkSlotTransmit l) s = .next (s.updLink l (fun _ => k1))) ∧
      (∀ x, k.choose = some x → on → exec (.linkSlotTransmit l) s =
        .next { (s.updLink l (fun _ => { k1.count lTx with
          tx := k.tx.erase x, sent := updAt k.sent x.p.vc (fun n => (n + 1) % 65536)
          rot := if x.p.vc = 3 then k.rot else (x.p.vc + 1) % 3 })).freeSlot x.p with
            out := s.out ++ [.packet l { x.p with via := 64 }] })) ∧
    (k.st = .training → k.gate = true → on → exec (.linkSlotTransmit l) s =
      .next { s.updLink l (fun _ => { k with txPos := (k.txPos + 1) % 257 }) with
        out := s.out ++ [if k.txPos = 0 then .train l (s.trainBytes l 6 (b2n k.fast)) else .prbs l] })

/-- PACKET_INGRESS (R315, R316, R318, R319, R339, R344, R448): at a link UP or STANDBY the code words that a packet overlaps are
counted; a packet that overlaps an uncorrectable one is dropped and counted and its receive slot freed; one of another slice, or from
outside the box, likewise, counted as foreign and logged once in a millisecond; any other goes on its way, and keeps its slot until
it leaves. -/
def claimIngressForwardsOrDrops : Prop :=
  ∀ (s : State) (l : Nat) (p0 : Packet) (rx : Rx), l < 64 → rx.wf false = true → s.pwr.stopped = false →
    (s.link l).st = .up ∨ (s.link l).st = .standby → s.dieUp (l / 32) = true → (s.link l).mute s.now = false →
    let p := { p0 with via := l }
    let s1 := s.updLink l (fun k => k.fec s.now rx)
    let mine := p0.slice ≠ 0 ∧ p0.slice = s.fab.slice ∧ s.fab.memberPort (l / 4) = true ∧ s.fab.inBox p0.src = true ∧
      s.fab.inBox p0.dst = true
    let s2 := (s1.updLink l (fun k => { k.count lForeign with foreign := some (s.now / 100000) })).freeSlot p
    (rxLost rx = true → exec (.packetIngress l p0 rx) s = .next ((s1.updLink l (fun k => k.count lDropFec)).freeSlot p)) ∧
    (rxLost rx = false → mine → exec (.packetIngress l p0 rx) s = .next ((s1.updLink l (fun k => k.count lRx)).forward p (l / 32)
      (s.ldNow + rx.cyc) ((s.fab.portDir (l / 4)).map Prod.fst))) ∧
    (rxLost rx = false → ¬ mine → (s.link l).foreign = some (s.now / 100000) →
      exec (.packetIngress l p0 rx) s = .next s2) ∧
    (rxLost rx = false → ¬ mine → (s.link l).foreign ≠ some (s.now / 100000) →
      exec (.packetIngress l p0 rx) s = .next (s2.emit 0x0205 5 l (l + 65536 * p0.src + 2 ^ 32 * p0.slice) 0))

/-- CONTROL_SLOT_RECEIVE (R317, R320, R365, R366): the code words that a slot overlaps are counted; a slot whose CRC-32C fails is
ignored; a good one gives the credits, the time of the last good slot, the identity record and, where valid, the time sample, and
then the identity checks are made. LINK_DOWN (R320): 2 µs without a good slot bring the link DOWN, and what it held is dropped and its
receive slots freed. -/
def claimControlSlotsKeepTheLink : Prop :=
  ∀ (s : State) (l : Nat), l < 64 → s.pwr.stopped = false → (s.link l).st.slots = true → s.dieUp (l / 32) = true →
    (∀ (bs : List Byte) (rx : Rx), rx.wf true = true → (s.link l).mute s.now = false →
      let c := ctlOf bs
      let s1 := s.updLink l (fun k => k.fec s.now rx)
      let s2 := s1.updLink l (fun k => { k with
        cred := c.cred, lastGood := s.now, ident := some c.ident
        sample := if c.sample.valid then some (s.theta c.sample k.delay, c.sample.state, s.now) else k.sample })
      (sealOk bs = false → exec (.controlSlotReceive l bs rx) s = .next s1) ∧
      (sealOk bs = true → ¬ (c.sample.valid = true ∧ c.sample.state = 2) →
        exec (.controlSlotReceive l bs rx) s = .next (s2.wiring l c.ident)) ∧
      (sealOk bs = true → c.sample.valid = true → c.sample.state = 2 → exec (.controlSlotReceive l bs rx) s =
        .next ({ s2 with time := { s2.time with quiet := s2.time.quiet.map (fun _ => s.now) } }.wiring l c.ident))) ∧
    ((s.link l).lastGood + 200 ≤ s.now →
      exec (.linkDown l) s = .next ((((s.updLink l (fun k => { k.count lDown with
        st := .down, goal := .up, tx := [], downAt := s.now, sample := none, gate := false, tries := 0 })).freeSlots
          ((s.link l).tx.map TxP.p)).emit 0x0202 5 l l 0).dirCheck))

/-- PACKET_INJECTION (R332, R333, R335, R340): the first packet that can be taken leaves the waiting list; a destination outside the
box ends its work with code 0x22 and a lost pair with code 0x20; an ACK leaves as it is, checked; any other is numbered, checked, kept
until it is acknowledged and sent. -/
def claimInjectionNumbersAndKeeps : Prop :=
  ∀ (s : State) (d cyc : Nat) (p : Packet) (o : Orig) (rest : List (Packet × Orig)), d < 2 → cyc < 16 → s.pwr.stopped = false →
    s.dieUp d = true →
    let e := s.endp d
    splitFirst (fun x => e.canInject x.1) e.outq = some ((p, o), rest) →
    let s1 := s.updEndp d (fun e => { e with outq := rest })
    let q := e.pair p.dst
    (s.fab.inBox p.dst = false → exec (.packetInjection ⟨d, cyc⟩) s = .next (s1.sendFailed d p o 0x22)) ∧
    (s.fab.inBox p.dst = true → p.typ = tACK →
      exec (.packetInjection ⟨d, cyc⟩) s = .next (s1.forward { p with crc := pktSum p } d (s.ldNow + cyc) none)) ∧
    (s.fab.inBox p.dst = true → p.typ ≠ tACK → q.lost = true →
      exec (.packetInjection ⟨d, cyc⟩) s = .next (s1.sendFailed d p o 0x20)) ∧
    (s.fab.inBox p.dst = true → p.typ ≠ tACK → q.lost = false →
      let p1 := { p with seq := q.seq, slice := s.fab.slice, src := s.fab.node }
      let p2 := { p1 with crc := pktSum p1 }
      let s2 := s1.updEndp d (fun e => e.setPair { q with
        seq := (q.seq + 1) % 2 ^ 24, kept := q.kept ++ [⟨p2, o, s.now⟩] })
      let s3 := if o = .cast then { s2 with fab := { s2.fab with acks := s2.fab.acks ++ [(p.dst, q.seq)] } } else s2
      exec (.packetInjection ⟨d, cyc⟩) s = .next (s3.forward p2 d (s.ldNow + cyc) none))

/-- ENDPOINT_RECEIVE (R319, R324, R333, R349): the first packet that need not wait is taken and frees its receive slot, but that
collective data keep theirs until an axis collective unit takes them; a failing check or a channel that does not fit its type discards
it; the packet expected next is handed on and committed; any other is counted as a duplicate or out of order and answered with an
ACK. -/
def claimReceptionCommitsInOrder : Prop :=
  ∀ (s : State) (d : Nat) (p : Packet) (rest : List Packet), d < 2 → s.pwr.stopped = false → s.dieUp d = true →
    let e := s.endp d
    firstFree (s.mustWait d) [] e.inq = some (p, rest) →
    let s0 := s.updEndp d (fun e => { e with inq := rest })
    let s1 := s0.freeSlot p
    let behind := ((e.pair p.src).next + 2 ^ 24 - p.seq) % 2 ^ 24
    (pktOk p = false → exec (.endpointReceive d) s = .next (s1.updEndp d (fun e => e.count eFail))) ∧
    (pktOk p = true → vcOf p.typ ≠ some p.vc → exec (.endpointReceive d) s = .next (s1.updEndp d (fun e => e.count eBadType))) ∧
    (pktOk p = true → vcOf p.typ = some p.vc → behind = 0 → s.keepsSlot p = false →
      exec (.endpointReceive d) s = .next ((s1.handOn d { p with via := 64 }).commit d p.src)) ∧
    (pktOk p = true → vcOf p.typ = some p.vc → behind = 0 → s.keepsSlot p = true →
      exec (.endpointReceive d) s = .next ((s0.handOn d p).commit d p.src)) ∧
    (pktOk p = true → vcOf p.typ = some p.vc → behind ≠ 0 → exec (.endpointReceive d) s =
      .next ((s1.updEndp d (fun e => e.count (if behind ≤ 1024 then eDup else eOrder))).sendAck d p.src))

/-- ACK_TIMER and ACK_RECEIVE (R334): 1 µs after the oldest unacknowledged commit an ACK leaves; an ACK ends the work of every packet
kept below its number. RESEND_TIMEOUT (R334, R335): the ACKs that have come are applied first; up to three times all packets still
kept are sent again; then the pair is lost, an event says so, and the work of its packets ends with code 0x20. -/
def claimAcknowledgeOrResend : Prop :=
  ∀ (s : State) (d node : Nat), d < 2 → s.pwr.stopped = false → s.dieUp d = true →
    (∀ t, ((s.endp d).pair node).since = some t → t + 100 ≤ s.now → exec (.ackTimer d node) s = .next (s.sendAck d node)) ∧
    (∀ p rest, splitFirst (fun p => p.typ == tACK) (s.endp d).inq = some (p, rest) →
      let q := (s.endp d).pair p.src
      let under (k : Kept) : Bool := 1 ≤ (p.seq + 2 ^ 24 - k.p.seq) % 2 ^ 24 && decide ((p.seq + 2 ^ 24 - k.p.seq) % 2 ^ 24 ≤ 2 ^ 23)
      let s1 := (s.updEndp d (fun e => { e with inq := rest })).freeSlot p
      (pktOk p = false → exec (.ackReceive d) s = .next (s1.updEndp d (fun e => e.count eFail))) ∧
      (pktOk p = true → p.vc = 1 → q.kept.filter under = [] → exec (.ackReceive d) s = .next s1) ∧
      (pktOk p = true → p.vc = 1 → q.kept.filter under ≠ [] →
        exec (.ackReceive d) s = .next ((q.kept.filter under).foldl (fun t k => t.acked d k)
          (s1.updEndp d (fun e => e.setPair { q with kept := q.kept.filter (fun k => !(under k)), retry := 0 }))))) ∧
    (∀ k rest, let s0 := s.acksFirst d node
      s0.dieUp d = true → ((s0.endp d).pair node).kept = k :: rest → ((s0.endp d).pair node).lost = false → s0.fab.timeout ≠ 0 →
      k.t + s0.fab.timeout ≤ s0.now →
      let q := (s0.endp d).pair node
      (q.retry < 3 → exec (.resendTimeout d node) s = .next (q.kept.foldl (fun t k => t.forward k.p d s0.ldNow none)
        (s0.updEndp d (fun e => (e.setPair { q with
          retry := q.retry + 1, kept := q.kept.map (fun k => { k with t := s0.now }) }).count eResend)))) ∧
      (3 ≤ q.retry → exec (.resendTimeout d node) s = .next (q.kept.foldl (fun t k => t.sendFailed d k.p k.orig 0x20)
        ((s0.updEndp d (fun e => (e.setPair { q with lost := true, kept := [] }).count ePathLost)).emit 0x0204 6 d node k.p.seq))))

/-- RESP_RECEIVE and ERR_RECEIVE (R325, R336, R482): an answer's bytes go to the job that asked, which has one part less at the
last packet; an error ends the job with the code of its cause, but cause 7 delivers poisoned zeros and goes on. -/
def claimAnswersReachTheirJob : Prop :=
  ∀ (s : State) (d : Nat) (p : Packet) (rest : List Packet) (r : RReq), d < 2 → s.coreUp = true →
    (s.endp d).reqs.find? (fun r => r.tag == p.tag && r.node == p.src) = some r →
    let s1r := s.updEndp d (fun e => { e with resps := rest })
    let s1e := s.updEndp d (fun e => { e with errs := rest })
    let cause := fld p.payload 0 1
    ((s.endp d).resps = p :: rest → p.last = true → exec (.respReceive d) s =
      .next (((s1r.updBlock r.b (fun b => b.updJob r.job (fun j => { j with
        got := j.got ++ [(r.addr + r.got, (pktData p).map (fun x => (x, false)))] }))).dropReq d r.tag r.node).jobPart r.b r.job)) ∧
    ((s.endp d).errs = p :: rest → cause ≠ 7 → exec (.errReceive d) s = .next ((s1e.dropReq d r.tag r.node).jobErr r.b r.job
      (if cause = 3 then { ErrI.of 0x17 with arg := r.addr }
       else if cause = 4 then { ErrI.of 0x18 with arg := r.addr }
       else { ErrI.of 0x21 with sub := cause, arg := r.addr, node := r.node }))) ∧
    ((s.endp d).errs = p :: rest → cause = 7 → exec (.errReceive d) s =
      .next (((((s1e.dropReq d r.tag r.node).updBlock r.b (fun b => b.updJob r.job (fun j => { j with
        got := j.got ++ [(r.addr, List.replicate r.len (0, true))], flags := j.flags ||| 32 }))).emit 0x0213 6 d
          (r.node + 65536 * r.tag) 0).jobPart r.b r.job)))

/-! Time, records and the slice stop (chapters 13 and 18). -/

/-- STC_SYNC_ROUND (R365): every microsecond, from the samples within 10 ticks; in FREE the counter jumps by their median and
becomes ACQUIRE; with no sample the rate stays. STC_SEED_TIMEOUT (R366): node 0, FREE, with no LOCKED neighbour for 10 ms, locks
itself. -/
def claimStepCounterSynchronises : Prop :=
  (∀ (s : State), s.pwr.crust = true → s.pwr.stopped = false →
    (s.now < s.time.round + 100 → exec .stcSyncRound s = .next s) ∧
    (s.time.round + 100 ≤ s.now → exec .stcSyncRound s = .next s.syncRound)) ∧
  (∀ (s : State), s.samples ≠ [] → s.time.state = 0 → (∀ x ∈ s.samples, x.2.natAbs ≤ 10 * 2 ^ 32) →
    s.syncRound.time.state = 1 ∧ s.syncRound.time.stc = ((s.time.stc : Int) + medianI (s.samples.map Prod.snd)).toNat ∧
    s.syncRound.time.rate = s.time.rate ∧ s.syncRound.time.outlier = min cntMax s.time.outlier) ∧
  (∀ (s : State), s.samples = [] → s.syncRound.time.stc = s.time.stc ∧ s.syncRound.time.rate = s.time.rate ∧
    s.syncRound.time.state = s.time.state) ∧
  (∀ (s : State) (t : Nat), s.pwr.stopped = false → s.time.quiet = some t → s.time.state = 0 → s.fab.node = 0 → t + 1000000 ≤ s.now →
    exec .stcSeedTimeout s = .next { s with time := { s.time with state := 2 } })

/-- Records (R370, R488): DEADLINE_RECORD_RECEIVE and SLICE_STOP_RECORD_RECEIVE take the oldest record of their type, relay it, and
log it, or put the stop in hand; SLICE_STOP logs the oldest stop in hand and, unless it is old or one is in force, relays it where
no relay brought it and stops every block, collective and engine of the part. -/
def claimRecordsAndSliceStop : Prop :=
  (∀ (s : State) (p : Packet) (rest : List Packet), s.pwr.stopped = false →
    splitFirst (fun p => fld p.payload 0 1 == 1) s.fab.ctrlq = some (p, rest) →
    let s1 := ({ s with fab := { s.fab with ctrlq := rest } }).relayOn p 1
    s1.coreUp = true → s1.fab.transit = false →
    exec .deadlineRecordReceive s = .next (s1.emit 0x0401 3 0 0 (fld p.payload 32 32))) ∧
  (∀ (s : State) (p : Packet) (rest : List Packet), s.pwr.stopped = false →
    splitFirst (fun p => fld p.payload 0 1 == 2) s.fab.ctrlq = some (p, rest) →
    let s1 := ({ s with fab := { s.fab with ctrlq := rest } }).relayOn p 2
    s1.coreUp = true → s1.fab.transit = false →
    exec .sliceStopRecordReceive s =
      .next { s1 with fab := { s1.fab with stopQ := s1.fab.stopQ ++ [(1, fld p.payload 32 32)] } }) ∧
  (∀ (s : State) (how r : Nat) (rest : List (Nat × Nat)), s.thallusUp = true → s.fab.stopQ = (how, r) :: rest →
    let s1 := { s with fab := { s.fab with stopQ := rest } }
    let old := how = 1 ∧ bits r 192 64 < s.fab.lastStart
    let s2 := if how = 0 then s1.emit 0x020E 3 0 0 r else s1.emit 0x020F 3 0 (b2n (how = 1 && decide (bits r 192 64 < s.fab.lastStart))) r
    ((old ∨ s.fab.stopOn = true) → exec .sliceStop s = .next s2) ∧
    (¬ old → s.fab.stopOn = false →
      let s3 := if how = 1 then s2 else s2.relayStart 2 r
      exec .sliceStop s = .next ({ s3 with fab := { s3.fab with stopOn := true } }).stopAll))

/-! The whole machine. -/

/-- An empty queue (log entry 1, DESIGN CHOICE): one CRUST_CLK cycle passes. Where Crust runs, STC moves by its rate and
HEARTBEAT_AGE by one cycle; where it does not, nothing changes. -/
def claimEmptyQueueTicks : Prop :=
  ∀ (s : State), s.pending = [] →
    (s.crustUp = false → step s = .next s) ∧
    (s.crustUp = true → ∃ t : State, step s = .next t ∧ t.time.stc = (s.time.stc + s.time.inc).toNat ∧
      t.time.rate = s.time.rate ∧ t.pwr = s.pwr ∧ t.boot = s.boot ∧ t.sec = s.sec ∧ t.pending = [] ∧
      (s.host.hbPart + 1 < 50000 → t.host.hbAge = s.host.hbAge ∧ t.host.hbPart = s.host.hbPart + 1) ∧
      (50000 ≤ s.host.hbPart + 1 → t.host.hbAge = min 0xFFFFFFFF (s.host.hbAge + 1) ∧ t.host.hbPart = 0))

/-- A command that names a unit the part has not, or bytes outside what it names, stops by name (R9 to R13, R227, R315). -/
def claimIllFormedCommandsStop : Prop := ∀ (c : Instr) (s : State), c.wf = false → exec c s = .fault .noSuchUnit

/-- Every command that names units of the part answers a next state. -/
def claimWellFormedCommandsComplete : Prop := ∀ (c : Instr) (s : State), c.wf = true → ∃ t : State, exec c s = .next t

/-- While a block may not issue, the instructions of its compute sequences and its descriptor writes stay where they are (R167,
R452): the command changes nothing. -/
def claimNothingIssuesWhilePaused : Prop :=
  ∀ (s : State) (n : Nat) (c : Ctx), n < 144 → s.canIssue n = false →
    (∀ ik ∈ elementwiseVops ++ reductionVops ++ tensorRows ++ arrayModes, exec (ik.1 n c) s = .next s) ∧
    (∀ k ∈ ([Instr.vopAcc, .vopMset, .cvt, .rowSmMrg, .rowGet, .rowSt, .rowLd, .bld, .swp, .spl, .rsm, .qPush, .qPop,
      .ctxMark] : List (Nat → Ctx → Instr)), exec (k n c) s = .next s) ∧
    (∀ k ∈ ([Instr.descSet, .descSetAdd, .descSetLcr, .descSetVimm] : List (Nat → Instr)), exec (k n) s = .next s)

/-- The state after reset (R343, R362, R371, R393, R449, Tables 7-3, 14-2, 16-3): every unit of the part, idle, off or untrained;
the chip in C0 with PWR_GOOD low; STC 0 in FREE at its nominal rate; every deadline kind enabled; no command waiting. -/
def claimResetValues : Prop :=
  State.reset.shape = true ∧ State.reset.pending = [] ∧ (∀ n, n < 144 → (State.reset.block n).st = .idle ∧
    (State.reset.block n).tiles = [] ∧ (State.reset.block n).jobs = []) ∧
  (∀ r, r < 4 → (State.reset.region r).st = .off) ∧ (∀ n, n < 12 → (State.reset.stack n).st = .untrained) ∧
  State.reset.now = 0 ∧ State.reset.time.state = 0 ∧ State.reset.time.inc = 2 ^ 33 ∧ State.reset.time.policy = 15 ∧
  State.reset.host.hbPeriod = 10 ∧ State.reset.host.gap = 100 ∧ State.reset.host.summary = 0 ∧ State.reset.host.head = 0 ∧
  State.reset.pwr.chip = 0 ∧ State.reset.pwr.crust = false ∧ State.reset.boot.boot = 0 ∧ State.reset.fab.slice = 0 ∧
  (∀ l, l < 64 → (State.reset.link l).st = Link.reset.st) ∧ State.reset.events = []

/-- Every step keeps every unit of the part and takes exactly the front command off the queue: a state that holds 144 blocks, 4
regions, 12 stacks, 64 links, 2 endpoints and 8 axis collective units goes on holding them, and no command is lost, added or
reordered behind it. -/
def claimStepKeepsShapeAndQueue : Prop :=
  ∀ (s t : State), s.shape = true → step s = .next t → t.shape = true ∧ t.pending = s.pending.tail

/-- Every step keeps the part's fused identity: serial number, device secret and vector-block fuses (R511, R516: fuses are one-way
and no command blows these). -/
def claimStepKeepsFusedIdentity : Prop :=
  ∀ (s t : State), step s = .next t → t.sec.fuses.serial = s.sec.fuses.serial ∧ t.sec.fuses.secret = s.sec.fuses.secret ∧
    t.sec.fuses.vmap = s.sec.fuses.vmap

/-- The stores have their canonical form at reset. -/
def claimResetStoresWf : Prop := State.reset.storesWf = true

/-! Events and interrupts (chapters 14 and 18). -/

/-- EVENT_LOG_ENTRY: the oldest forwarded event is entered; a tamper event that waited for Thallus is then acted on (R518). -/
def claimEventIsEntered : Prop :=
  ∀ (s : State) (e : Ev) (rest : List Ev), s.events = e :: rest → s.thallusUp = true →
    let s1 := ({ s with events := rest }).logEvent e
    ((e.code ≠ 0x0B01 ∨ s.sec.tamperDue = false) → exec .eventLogEntry s = .next s1) ∧
    (e.code = 0x0B01 → s.sec.tamperDue = true → exec .eventLogEntry s = .next s1.tamperAct)

/-- What entering an event does (R377, R389, R390, R487): it takes the next number; its record goes to the ring's head, or is
lost and counted where the ring is full; FAULT_SUMMARY gains its bits; the record of a CONTAINED or STOPPED one is kept as its
unit's latest; one that starts a slice stop puts it in hand; and no block, stack, region or power state changes. -/
def claimEntryOfAnEvent : Prop :=
  ∀ (s : State) (e : Ev),
    let t := s.logEvent e
    let full := (s.host.head + 1) % 1024 = s.host.tail
    t.host.evseq = s.host.evseq + 1 ∧
    (full → t.host.ring = s.host.ring ∧ t.host.head = s.host.head ∧ t.host.ovf = min cntMax (s.host.ovf + 1)) ∧
    (¬ full → t.host.ring = s.host.ring.put (64 * s.host.head) (toLE 64 (eventRec e (s.host.evseq + 1))) ∧
      t.host.head = (s.host.head + 1) % 1024 ∧ t.host.ovf = s.host.ovf) ∧
    (t.host.summary = s.host.summary ||| (summaryOf e + (if full then 256 else 0))) ∧
    (2 ≤ classOf e.code e.level → (e.level, e.unit, e, s.host.evseq + 1) ∈ t.latest) ∧
    (classOf e.code e.level < 2 → t.latest = s.latest) ∧
    (startsStop e = true → ∃ r, t.fab.stopQ = s.fab.stopQ ++ [(0, r)]) ∧
    (startsStop e = false → t.fab = s.fab) ∧
    t.blocks = s.blocks ∧ t.stks = s.stks ∧ t.regions = s.regions ∧ t.pwr = s.pwr ∧ t.sec = s.sec ∧ t.boot = s.boot ∧
    t.time = s.time ∧ t.events = s.events

/-- EVT_IRQ_GAP_EXPIRY (R391): at the end of the gap vector 16 is sent once more where a record was entered during it, and a new
gap begins; otherwise the gap is over. -/
def claimGapEnds : Prop :=
  ∀ (s : State) (t : Nat), s.pwr.stopped = false → s.host.gapEnd = some t →
    (s.now < t → exec .evtIrqGapExpiry s = .next s) ∧
    (t ≤ s.now → s.host.gapDue = false → exec .evtIrqGapExpiry s = .next { s with host := { s.host with gapEnd := none } }) ∧
    (t ≤ s.now → s.host.gapDue = true → exec .evtIrqGapExpiry s = .next (({ s with host := { s.host with
      gapDue := false, gapEnd := some (s.now + 100 * s.host.gap) } }).msix 16))

/-- CORRECTED_SUMMARY (R479): the corrections that a unit counted in the second are forwarded as one event and start again from
0; a unit with none says nothing. -/
def claimCorrectionsAreSummed : Prop :=
  ∀ (s : State) (u : Nat), s.pwr.stopped = false →
    (∀ kind i, (kind, i) ∈ [(0, 0), (3, 1), (4, 2)] → u < 144 →
      ((s.block u).corrNow.getD i 0 ≠ 0 → exec (.correctedSummary 1 u kind) s = .next ((s.updBlock u (fun b => { b with
        corrNow := b.corrNow.set i 0 })).emit 0x0101 1 u ((s.block u).corrNow.getD i 0) kind)) ∧
      ((s.block u).corrNow.getD i 0 = 0 → exec (.correctedSummary 1 u kind) s = .next s)) ∧
    (u < 4 → (s.region u).corrNow ≠ 0 → exec (.correctedSummary 2 u 1) s =
      .next ((s.updRegion u (fun g => { g with corrNow := 0 })).emit 0x0101 2 u (s.region u).corrNow 1)) ∧
    (u < 12 → (s.stack u).corrNow ≠ 0 → exec (.correctedSummary 4 u 5) s =
      .next ((s.updStack u (fun k => { k with corrNow := 0 })).emit 0x0101 4 u (s.stack u).corrNow 5))

/-! The host interface (chapter 14). -/

/-- Host writes to a mailbox (R19, R378, R379, R382): the bytes land but for read-only bits; one that leaves OWNER set hands the
mailbox to the device, behind the handoffs of earlier cycles and among those of its own in order of mailbox number; one to a mailbox that the device owns, or to a part of MBX_CTL, is discarded and counted. -/
def claimMailboxWrites : Prop :=
  ∀ (s : State) (m off : Nat) (data : List Byte), m < 16 → off + data.length ≤ 4096 → s.crustUp = true → data ≠ [] →
    let h := s.host.putMbx m off (mbxLay (s.host.mbx.raw (4096 * m + off) data.length) off data)
    (s.host.owned m = false → (4 ≤ off ∨ (off = 0 ∧ 4 ≤ data.length)) → h.owned m = false →
      exec (.mailboxWrite m off data) s = .next { s with host := h }) ∧
    (s.host.owned m = false → (4 ≤ off ∨ (off = 0 ∧ 4 ≤ data.length)) → h.owned m = true →
      exec (.mbxHandoff m off data) s = .next ({ s with host := h.latchHand m }).wakeChip) ∧
    ((s.host.owned m = true ∨ (off < 4 ∧ ¬ (off = 0 ∧ 4 ≤ data.length))) →
      exec (.mailboxWrite m off data) s = .next { s with host := { s.host with late := min cntMax (s.host.late + 1) } }) ∧
    (s.host.handNow = 0 → (s.host.latchHand m).hand = s.host.hand ++ [m]) ∧
    (∀ k, s.host.handNow = 1 → s.host.hand = [k] → m < k → (s.host.latchHand m).hand = [m, k])

/-- THALLUS_WAKE (R379, R381, R384, R385): while Thallus serves, the oldest handoff begins: its checks run in their order, and
the first that fails gives its answer; with none, the command waits for its row, and claims what it claims. -/
def claimHandoffBegins : Prop :=
  ∀ (s : State) (m : Nat) (rest : List Nat), s.host.hand = m :: rest → s.boot.ready = true → s.thallusUp = true →
    let s1 := { s with host := { s.host with hand := rest } }
    let op := s.host.mbxField m 4 2
    let len := s.host.mbxField m 8 4
    let dl := s.host.mbxField m 16 8
    let p := s.host.mbx.raw (4096 * m + 32) (min len 4064)
    let c : Cmd := { m := m, op := op, flags := s.host.mbxField m 6 2, seq := s.host.mbxField m 1 1,
                     dl := if s.dlOn 3 then dl else 0, pars := p, begun := false, late := false, ans := none, keep := [],
                     t0 := s.now }
    let put (t : State) (st : Option Nat) : State :=
      { t with host := { t.host with runs := t.host.runs ++ [{ c with ans := st.map (fun x => (x, [])) }] } }
    let others := (s.host.runs.filter (fun r => r.begun || r.ans.isNone)).map (fun r => claimsOf r.op r.pars)
    let clash := others.any (fun o => conflict (claimsOf op p) o || claimsAll (claimsOf op p) || claimsAll o)
    (opTable.find? (fun x => x.1 == op) = none → exec .thallusWake s = .next (put s1 (some 2))) ∧
    (∀ need, opTable.find? (fun x => x.1 == op) = some (op, need) →
      (len ≠ need → exec .thallusWake s = .next (put s1 (some 3))) ∧
      (len = need → need ≤ 4064 →
        (dl ≠ 0 → s.dlOn 3 = true → dl ≤ s.now → exec .thallusWake s = .next (put s1 (some 7))) ∧
        ((dl = 0 ∨ s.dlOn 3 = false ∨ s.now < dl) →
          (∀ t, s1.deny op p = some t → exec .thallusWake s = .next (put t (some 6))) ∧
          (s1.deny op p = none → clash = true → exec .thallusWake s = .next (put s1 (some 4))) ∧
          (s1.deny op p = none → clash = false → s.sec.tamper = [] → exec .thallusWake s = .next (put s1 none)))))

/-- COMMAND_COMPLETION (R380, R387): a command that has its answer leaves; its results, RESULT_LEN and STATUS are written, then
MBX_CTL with the device no longer its owner, then its vector is sent where it asked for one; the result area beyond RESULT_LEN
holds free values; one done as requested past its deadline ends DEADLINE_MISSED. MAILBOX_DEADLINE (R387, R369): one that may not be interrupted runs on, marked late, and the miss is logged;
before its deadline nothing happens, nor to one that a check has ended (log entry 43). -/
def claimCommandEnds : Prop :=
  (∀ (s : State) (m st : Nat) (res : List Byte) (c : Cmd), m < 16 → s.cmd m = some c → c.m = m → s.thallusUp = true →
    c.ans = some (st, res) → c.op ≠ 0x0A02 → (c.late = false ∨ st ≠ 0) →
    let area := res ++ freeBytes s.freeN (4064 - res.length)
    let h := ((((s.host.putMbx m 32 area).putMbx m 12 (toLE 4 res.length)).putMbx m 24 (toLE 2 st)).putMbx m 0
      (toLE 4 (256 * c.seq)))
    let t := { s with freeN := s.freeN + 1, host := { h with runs := h.runs.filter (fun r => r.m != m) } }
    exec (.commandCompletion m) s = .next (if bit c.flags 0 then t.msix m else t)) ∧
  (∀ (s : State) (m st : Nat) (res : List Byte) (c : Cmd), m < 16 → s.cmd m = some c → c.m = m → s.thallusUp = true →
    c.ans = some (st, res) → c.op ≠ 0x0A02 → c.late = true → st = 0 → partialOps.contains c.op = false →
    let h := ((((s.host.putMbx m 32 (freeBytes s.freeN 4064)).putMbx m 12 (toLE 4 0)).putMbx m 24 (toLE 2 7)).putMbx m 0
      (toLE 4 (256 * c.seq)))
    let t := { s with freeN := s.freeN + 1, host := { h with runs := h.runs.filter (fun r => r.m != m) } }
    exec (.commandCompletion m) s = .next (if bit c.flags 0 then t.msix m else t)) ∧
  (∀ (s : State) (m : Nat) (c : Cmd), m < 16 → s.cmd m = some c → s.thallusUp = true → c.late = false → c.dl ≠ 0 →
    (s.now < c.dl → exec (.mailboxDeadline m) s = .next s) ∧
    (∀ st res, c.ans = some (st, res) → st ≠ 0 → exec (.mailboxDeadline m) s = .next s) ∧
    (c.dl ≤ s.now → c.ans = none → uninterrupted.contains c.op = true → exec (.mailboxDeadline m) s =
      .next ((s.updCmd m (fun c => { c with late := true })).miss 8 m 0 (s.dlRec c.dl 3 0 [s.fab.node] (m * 4096 + c.seq)))))

/-- The registers that the host writes (R8, R376, R377, R390, R395): FAULT_SUMMARY clears the bits written as 1, but for those
that hardware sets in the same cycle; HOST_HB takes
the value and starts HEARTBEAT_AGE again; EVT_TAIL moves forward as far as EVT_HEAD, and a write beyond it is discarded and
counted; each changes Crust's registers and nothing else, and a write to any other of them comes to the same. -/
def claimHostRegisters : Prop :=
  ∀ (s : State) (v : Nat), s.crustUp = true →
    (exec (.faultSummaryWrite v) s = .next { s with host := { s.host with
      summary := (s.host.summary ^^^ (s.host.summary &&& v)) ||| (s.host.summary &&& s.host.sumNow) } }) ∧
    (∀ i, ((s.host.summary ^^^ (s.host.summary &&& v)) ||| (s.host.summary &&& s.host.sumNow)).testBit i =
      (s.host.summary.testBit i && (!v.testBit i || s.host.sumNow.testBit i))) ∧
    (exec (.hostHbWrite v) s = .next { s with host := { s.host with
      hostHb := v % 2 ^ 32, hbAge := 0, hbPart := 0, silentDone := false } }) ∧
    ((v % 1024 + 1024 - s.host.tail) % 1024 ≤ (s.host.head + 1024 - s.host.tail) % 1024 →
      exec (.evtTailWrite v) s = .next { s with host := { s.host with tail := v % 1024 } }) ∧
    ((s.host.head + 1024 - s.host.tail) % 1024 < (v % 1024 + 1024 - s.host.tail) % 1024 →
      exec (.evtTailWrite v) s = .next { s with host := { s.host with late := min cntMax (s.host.late + 1) } }) ∧
    (exec (.registerWrite 0x0020 4 v) s = exec (.hostHbWrite (v % 2 ^ 32)) s) ∧
    (exec (.registerWrite 0x8004 4 v) s = exec (.evtTailWrite (v % 2 ^ 32)) s) ∧
    (exec (.registerWrite 0x8010 4 v) s = .next { s with host := { s.host with gap := v % 2 ^ 32 % 65536 } }) ∧
    (∀ off, off ∈ [0x0000, 0x0010, 0x0014, 0x0018, 0x0030, 0x8000] → exec (.registerWrite off 4 v) s = .next s)

/-- STC_NOW (Table 14-2): one 8-byte read gives the counter; a 4-byte read of the low half latches the high half for the next
read of it. BAR2_ACCESS (R392, R442): in C0, or with the core die held, it ends in Completer Abort, and otherwise it is taken at
the window's base. A function-level reset (R375) returns the MSI-X table, the window base and the latch to their reset values and
leaves the rest of the part as it was. -/
def claimReadsWindowAndFlr : Prop :=
  ∀ (s : State), s.crustUp = true →
    (exec (.stcNowRead 0x10 8) s = .next { s with out := s.out ++ [.read (toLE 8 s.now) false] }) ∧
    (∃ t u, exec (.stcNowRead 0x10 4) s = .next t ∧ exec (.stcNowRead 0x14 4) t = .next u ∧
      u.out = s.out ++ [.read (toLE 4 (s.now % 2 ^ 32)) false, .read (toLE 4 (s.now / 2 ^ 32)) false] ∧ u.host.latch = none) ∧
    (∀ wr off len data, off + len ≤ 2 ^ 36 →
      ((s.pwr.chip = 0 ∨ s.coreUp = false ∨ s.pwr.clkOff = true) →
        exec (.bar2Access wr off len data) s = .next { s with out := s.out ++ [.abort] }) ∧
      (s.pwr.chip ≠ 0 → s.coreUp = true → s.pwr.clkOff = false →
        exec (.bar2Access wr off len data) s = .next (s.bar2Take ⟨wr, s.host.bar2 * 2 ^ 30 + off, len, data⟩))) ∧
    (exec .functionLevelReset s = .next { s with host := { s.host with
      msixT := msixReset, pba := 0, bar2 := 0, bar2q := [], latch := none } })

/-- HEARTBEAT (R393): at the end of a period in which Thallus serves, HEARTBEAT counts, 0 after 0xFFFFFFFE, and where an address
is set its record is written to the host. HOST_SILENT (R395): an age above the threshold is logged once in each silence. The
count at a period's end is log entry 32's. -/
def claimHeartbeat : Prop :=
  (∀ (s : State), s.crustUp = true → s.host.hbT + 100000 * s.host.hbPeriod ≤ s.now → s.thallusUp = true →
    let c := if s.host.hbCount ≥ 0xFFFFFFFE then 0 else s.host.hbCount + 1
    let s1 := { s with host := { s.host with hbT := s.now, hbPeriod := s.host.hbNext, hbCount := c } }
    (s.host.hbAddr = 0 → exec .heartbeat s = .next s1) ∧
    (s.host.hbAddr ≠ 0 → exec .heartbeat s = .next { s1 with out := s.out ++
      [.hostWrite s.host.hbAddr (toLE 4 c ++ toLE 4 s.crustStatus ++ toLE 8 s.now) false] })) ∧
  (∀ (s : State), s.now < s.host.hbT + 100000 * s.host.hbPeriod → exec .heartbeat s = .next s) ∧
  (∀ (s : State), s.thallusUp = true → s.host.silent ≠ 0 → s.host.silent < s.host.hbAge →
    (s.host.silentDone = false → exec .hostSilent s =
      .next (({ s with host := { s.host with silentDone := true } }).emit 0x0603 8 0 s.host.hbAge 0)) ∧
    (s.host.silentDone = true → exec .hostSilent s = .next s))

/-! Mailbox commands (chapter 15). In each, `c` waits for its row and `b` is the state in which it has begun. -/

/-- The device commands (Table 15-2, R404, R405). -/
def claimDeviceCommands : Prop :=
  ∀ (s : State) (m : Nat) (c : Cmd),
    let b := s.began m
    (s.waitsRow m 0x0100 c → exec (.devIdentify m) s = .next (b.ok m (toLE 16 s.sec.fuses.serial ++ toLE 2 0x0302 ++
      toLE 2 Config.stepping ++ toLE 2 s.fab.node ++ toLE 1 s.sec.fuses.lc ++ toLE 1 s.boot.slot ++
      toLE 32 (Config.sm3 (Config.certDevice (s.setBody 4))) ++ toLE 8 0))) ∧
    (s.waitsRow m 0x0101 c → exec (.devGrade m) s =
      .next (b.ok m (toLE 2 s.arrays ++ toLE 2 s.grade ++ toLE 18 s.sec.vmap ++ toLE 2 s.sec.downs))) ∧
    (s.waitsRow m 0x0102 c → exec (.devFwVersion m) s = .next (b.ok m (toLE 4 Config.romVersion ++
      (s.flashAt (s.boot.dev.getD 0)).read (slotOff 0 + 4) 8 ++ (s.flashAt (s.boot.dev.getD 0)).read (slotOff 1 + 4) 8 ++
      toLE 1 s.boot.slot ++ toLE 1 s.sec.staged ++ toLE 1 s.linkVer.1 ++ toLE 1 s.linkVer.2 ++ toLE 2 (fld s.boot.hdr 14 2) ++
      toLE 6 0))) ∧
    (s.waitsRow m 0x0103 c →
      let per := if fld c.pars 0 4 = 0 then s.host.hbNext else fld c.pars 0 4
      let q := fld c.pars 4 4
      let a := fld c.pars 8 8
      ((fld c.pars 0 4 ≤ 1000 ∧ a % 16 = 0 ∧ (q = 0 ∨ per ≤ q)) → exec (.devHeartbeat m) s =
        .next ({ b with host := { b.host with hbNext := per, silent := q, hbAddr := a, silentDone := false } }.ok m
          (toLE 4 s.host.hbNext ++ toLE 4 s.host.silent))) ∧
      (¬ (fld c.pars 0 4 ≤ 1000 ∧ a % 16 = 0 ∧ (q = 0 ∨ per ≤ q)) → exec (.devHeartbeat m) s = .next (b.answer m 3 [])))

/-- The power commands (R406, R407, R443, R445, R447, R448): where the parameters and the state allow it, each sets what it names
on its way; PWR_QUERY reads the states. -/
def claimPowerCommands : Prop :=
  ∀ (s : State) (m : Nat) (c : Cmd),
    let b := s.began m
    (s.waitsRow m 0x0200 c →
      let t := fld c.pars 0 1
      t ≤ 3 → ¬ ((t < 3 ∧ s.anyRunning = true) ∨ (2 ≤ t ∧ s.stks.any (fun k => k.st == .failed) = true) ∨
        (t = 0 ∧ s.stks.any Stack.trigOut = true)) →
      exec (.pwrChipState m) s =
        .next (({ b with pwr := { b.pwr with chipGoal := t } }).keep m [s.pwr.chip, s.now]).chipStep) ∧
    (s.waitsRow m 0x0201 c →
      let named := bitsOf 4 (fld c.pars 0 1)
      let t := fld c.pars 1 1
      mapOk 4 1 (fld c.pars 0 1) = true → t ≤ 3 → 2 ≤ s.pwr.chip → t ≤ (chipRegion s.pwr.chip).code →
      ¬ (t < 2 ∧ named.any (fun r => (regionBlocks r).any (fun n => (s.block n).st == .running)) = true) →
      exec (.pwrRegionState m) s = .next ((named.foldl (fun u r => u.updRegion r (fun g => { g with goal := regStOf t })) b).keep m
        [(s.regions.zip [1, 4, 16, 64]).foldl (fun a x => a + x.1.st.code * x.2) 0]).regionsStep) ∧
    (s.waitsRow m 0x0202 c →
      let named := bitsOf 12 (fld c.pars 0 2)
      let t := fld c.pars 2 1
      mapOk 12 2 (fld c.pars 0 2) = true → t ≤ 1 →
      named.any (fun n => let k := s.stack n
        k.st == .failed || k.st == .untrained || (t == 1 && k.trigOut)) = false →
      exec (.pwrStackState m) s = .next ((named.foldl (fun u n => u.updStack n (fun k =>
        if t = 1 then (if k.st = .active then { k with st := .entering, wake := s.now + 200 } else k)
        else if k.st = .selfRefresh then { k with st := .waking, wake := s.now + 400, byReq := false } else k)) b).keep m
        [maskOf ((List.range 12).filter (fun n => (s.stack n).st == .selfRefresh))])) ∧
    (s.waitsRow m 0x0203 c →
      let named := bitsOf 64 (fld c.pars 0 8)
      let t := fld c.pars 8 1
      mapOk 64 8 (fld c.pars 0 8) = true → t ≤ 2 → ¬ (t < 2 ∧ named.any (fun l => (s.link l).st.code2 == 3) = true) →
      ¬ (0 < t ∧ s.fab.slice ≠ 0 ∧ fld c.pars 9 1 = 0 ∧ s.emptiesDir named = true) →
      exec (.pwrLinkState m) s = .next (((named.foldl (fun u l => u.updLink l (fun k => k.toward (linkStOf t))) b).keep m
        [ofLE s.linkStates]).dirCheck)) ∧
    (s.waitsRow m 0x0204 c → exec (.pwrQuery m) s = .next (({ b with freeN := s.freeN + 1 }).ok m
      (toLE 1 s.pwr.chip ++ s.regions.map (fun (g : Region) => BitVec.ofNat 8 g.st.code) ++
        s.stks.map (fun (k : Stack) => BitVec.ofNat 8 k.st.code) ++
        s.linkStates ++ toLE 3 0 ++ toLE 4 (Config.free s.freeN))))

/-- Where the power commands end (Table 15-3): a state that is reached answers OK, and PWR_CHIP_STATE names the state it left,
the one it reached and the microseconds it took. -/
def claimPowerCommandsEnd : Prop :=
  ∀ (s : State) (c : Cmd),
    (c.op = 0x0200 → fld c.pars 0 1 ≠ 0 → s.pwr.chip = fld c.pars 0 1 → s.pwr.chipMove = none →
      s.pwrEnd c = some (0, toLE 1 (c.keep.getD 0 0) ++ toLE 1 (fld c.pars 0 1) ++ toLE 2 0 ++
        toLE 4 (cdiv (s.now - c.keep.getD 1 0) 100))) ∧
    (c.op = 0x0200 → fld c.pars 0 1 ≠ 0 → s.pwr.chip ≠ fld c.pars 0 1 → s.pwrEnd c = none) ∧
    (c.op = 0x0201 → (∀ r ∈ bitsOf 4 (fld c.pars 0 1), (s.region r).st = regStOf (fld c.pars 1 1) ∧ (s.region r).move = none) →
      s.pwrEnd c = some (0, toLE 4 (c.keep.getD 0 0))) ∧
    (c.op = 0x0202 → fld c.pars 2 1 = 1 → (∀ n ∈ bitsOf 12 (fld c.pars 0 2), (s.stack n).st = .selfRefresh) →
      s.pwrEnd c = some (0, toLE 4 (c.keep.getD 0 0))) ∧
    (c.op = 0x0203 → (∀ l ∈ bitsOf 64 (fld c.pars 0 8), (s.link l).st = linkStOf (fld c.pars 8 1)) →
      s.pwrEnd c = some (0, toLE 16 (c.keep.getD 0 0)))

/-- MEM_MAP_WINDOW (R392), MEM_SCRUB_SET (R251) and MEM_WIPE (R411). -/
def claimWindowScrubWipe : Prop :=
  ∀ (s : State) (m : Nat) (c : Cmd),
    let b := s.began m
    (s.waitsRow m 0x0300 c →
      (fld c.pars 0 4 ≤ 800 → exec (.memMapWindow m) s =
        .next ({ b with host := { b.host with bar2 := fld c.pars 0 4 } }.ok m (toLE 4 s.host.bar2))) ∧
      (800 < fld c.pars 0 4 → exec (.memMapWindow m) s = .next (b.answer m 3 []))) ∧
    (s.waitsRow m 0x0304 c →
      mapOk 12 2 (fld c.pars 0 2) = true → 10 ≤ fld c.pars 2 1 → fld c.pars 2 1 ≤ 60 →
      exec (.memScrubSet m) s = .next (((bitsOf 12 (fld c.pars 0 2)).foldl (fun t n => t.updStack n (fun k =>
        { k with newPeriod := fld c.pars 2 1 })) b).ok m (s.stks.map (fun k => BitVec.ofNat 8 k.newPeriod)))) ∧
    (s.waitsRow m 0x0301 c →
      let stks := if bit (fld c.pars 0 1) 0 then bitsOf 12 (fld c.pars 2 2) else []
      (bit (fld c.pars 0 1) 0 = true → mapOk 12 2 (fld c.pars 2 2) = true) → s.anyRunning = false →
      stks.any (fun n => (s.stack n).st == .failed || (s.stack n).st == .untrained) = false →
      ∃ us, exec (.memWipe m) s = .next ((stks.foldl (fun (t : State) n => t.updStack n (fun k =>
          if k.st = .selfRefresh then { k with st := .waking, wake := s.now + 400, byReq := false } else k))
          { b with freeN := s.freeN + 1 }).keep m [s.now + 100 * us, us]) ∧
        (stks ≠ [] → us = if stks.any (fun n => (s.stack n).hot) then 32970 else 31520) ∧
        (stks = [] → us ≤ 5)) ∧
    (c.op = 0x0301 → c.m = m → s.cmd m = some c → c.keep.getD 0 0 ≤ s.now →
      let t := s.wipe (fld c.pars 0 1) (fld c.pars 2 2)
      let t' := if fld c.pars 0 1 % 16 = 15 ∧ fld c.pars 2 2 = 0xFFF then t.fullWipe else t
      s.ending c = (t'.ok m (toLE 4 (c.keep.getD 1 0))).answered m)

/-- MEM_FILL, MEM_COPY from the host or inside the part, and MEM_READ_BACK (R409, R410), on extents that are served whole: the
bytes repeat, are copied, or come back with the map of poisoned words. -/
def claimFillCopyReadBack : Prop :=
  ∀ (s : State) (m : Nat) (c : Cmd),
    let b := s.began m
    (s.waitsRow m 0x0302 c →
      let sp := fld c.pars 0 1
      let stk := fld c.pars 1 1
      let len := fld c.pars 4 4
      let a := fld c.pars 8 8
      extentOk sp stk a len = true → a % 8 = 0 → len % 8 = 0 → b.waitsAt sp stk a len = false →
      b.reachOf sp stk a len = (len, 0) →
      exec (.memFill m) s = .next ((b.hostStore sp stk a
        (cleanBytes (List.replicate (len / 8) ((c.pars.drop 16).take 8)).flatten)).answer m 0 (toLE 4 len))) ∧
    (∀ data, s.waitsRow m 0x0303 c →
      let sp := fld c.pars 2 1
      let stk := fld c.pars 3 1
      let len := fld c.pars 4 4
      let a := fld c.pars 16 8
      fld c.pars 0 1 = 7 → fld c.pars 8 8 % 64 = 0 → sp ≠ 7 → extentOk sp stk a len = true →
      b.waitsAt sp stk a len = false → b.reachOf sp stk a len = (len, 0) →
      exec (.memCopy m (some data)) s = .next ((b.hostStore sp stk a (cleanBytes (fitTo len data))).answer m 0 (toLE 4 len)) ∧
      exec (.memCopy m none) s = .next ((b.emit 0x0604 8 m m 0).answer m 8 [])) ∧
    (s.waitsRow m 0x0305 c →
      let sp := fld c.pars 0 1
      let stk := fld c.pars 1 1
      let len := fld c.pars 4 4
      let a := fld c.pars 8 8
      extentOk sp stk a len = true → len ≠ 0 → len ≤ 4032 → b.waitsAt sp stk a len = false →
      b.reachOf sp stk a len = (len, 0) →
      exec (.memReadBack m) s = .next ((b.touchAt 0 clsBulk sp stk a len).answer m 0
        (toLE 16 (poisonMap a (b.readAt 0 sp stk a len)) ++ toLE 16 0 ++ (b.readAt 0 sp stk a len).map Prod.fst)))

/-- The program commands (R162, R163, R413, R415 to R417, R519): a load that its checks accept goes to every block named, with its
measurement; a start sends its messages in ascending order; a stop stops issue in every block named that is RUNNING; PRG_STATUS
reads a block; DESC_WRITE writes one descriptor of one block and marks the block modified. -/
def claimProgramCommands : Prop :=
  ∀ (s : State) (m : Nat) (c : Cmd),
    let b := s.began m
    let map := fld c.pars 0 18
    let bl := bitsOf 144 map
    (∀ data, s.waitsRow m 0x0400 c → mapOk 144 18 map = true → fld c.pars 24 8 % 64 = 0 →
      bl.all (fun n => s.blockFree n true) = true →
      let bs := fitTo (fld c.pars 20 4) data
      (imageStatus bs = 0 → exec (.prgLoad m (some data)) s = .next ((b.loadBlocks bl bs (Config.sm3 bs)).ok m (toLE 18 map))) ∧
      (imageStatus bs ≠ 0 → exec (.prgLoad m (some data)) s = .next (b.answer m (imageStatus bs) []))) ∧
    (s.waitsRow m 0x0404 c → mapOk 144 18 map = true → s.pwr.chip = 3 → bl.all (fun n => s.blockFree n false) = true →
      exec (.prgStart m) s = .next ({ b with
        starts := s.starts ++ bl, fab := { s.fab with lastStart := s.now, stopOn := false } }.keep m [s.now])) ∧
    (s.waitsRow m 0x0405 c → mapOk 144 18 map = true → bl.any s.darkBlock = false →
      let run := bl.filter (fun n => (s.block n).st == .running)
      exec (.prgStop m) s = .next ((bl.foldl State.stopBlock b).keep m
        [maskOf run, maskOf (bl.filter (fun n => !(run.contains n)))])) ∧
    (s.waitsRow m 0x0406 c → fld c.pars 0 2 < 144 → s.darkBlock (fld c.pars 0 2) = false →
      let k := s.block (fld c.pars 0 2)
      exec (.prgStatus m) s = .next (b.ok m (toLE 8 k.statusWord ++ toLE 4 k.markWord ++ toLE 4 0 ++
        k.qs.flatMap (fun q => toLE 8 q.statWord) ++ k.toks.flatMap (toLE 2)))) ∧
    (s.waitsRow m 0x0407 c →
      let n := fld c.pars 0 2
      n < 144 → s.blockFree n false = true → descOk (fld c.pars 8 64) = true →
      let t := b.updBlock n (fun k => (k.setDesc (fld c.pars 2 1) (fld c.pars 8 64)).setPin ⟨fld c.pars 2 1, false, false, 0, 0, 0, 0⟩)
      exec (.descWrite m) s = .next ({ t with sec := { t.sec with
        modif := s.sec.modif.filter (fun x => x != n) ++ [n] } }.ok m []))

/-- What a load writes (R163): the block is LOADED, keeps the header, and holds the image's words at the front of its two
instruction memories; an image passes only with its magic, version 1, its sizes, and good descriptors and queues. -/
def claimLoadWritesTheImage : Prop :=
  (∀ (b : Block) (bs : List Byte),
    let a := fld bs 8 2
    let x := fld bs 10 2
    let t := b.load bs
    t.st = .loaded ∧ t.kept = bs.take 256 ∧ t.imA = imageWords bs 256 a ++ b.imA.drop a ∧
    t.imX = imageWords bs (256 + 8 * a) x ++ b.imX.drop x ∧ t.spad = b.spad ∧ t.acc = b.acc ∧ t.toks = b.toks) ∧
  (∀ bs : List Byte, imageStatus bs = 0 →
    fld bs 0 4 = 0x4B54494D ∧ fld bs 4 2 = 1 ∧ fld bs 8 2 ≤ 4096 ∧ fld bs 10 2 ≤ 4096 ∧ fld bs 12 2 ≤ fld bs 10 2 ∧
    fld bs 14 2 ≤ 256 ∧ bs.length = 256 + 8 * (fld bs 8 2 + fld bs 10 2) + 72 * fld bs 14 2 ∧
    ∀ r ∈ imageRecs bs, descOk r.2 = true)

/-- Sporecast (R414, R472 to R477): OPEN starts a session with its blocks reserved; SEGMENT stages a segment whose digest is good
and sends it by every axis; CLOSE asks for what is missing and ends with the image loaded. -/
def claimCastCommands : Prop :=
  ∀ (s : State) (m : Nat) (c : Cmd),
    let b := s.began m
    (s.waitsRow m 0x0401 c →
      let role := fld c.pars 0 1
      let len := fld c.pars 8 4
      let map := fld c.pars 12 18
      role ≤ 1 → len ≤ 84224 → fld c.pars 6 2 = cdiv len 4096 → mapOk 144 18 map = true → s.fab.slice ≠ 0 → s.fab.cast = none →
      (bitsOf 144 map).all (fun n => s.blockFree n true) = true →
      exec (.prgCastOpen m) s = .next ({ b with fab := { b.fab with cast := some {
        source := role == 0, id := fld c.pars 2 2, origin := if role = 0 then s.fab.node else fld c.pars 4 2
        segs := fld c.pars 6 2, len := len, blocks := map, digest := fld c.pars 32 32, image := Mem.empty
        have_ := [], fetched := [], asked := [], retried := [], closing := false } } }.ok m [])) ∧
    (∀ k data, s.waitsRow m 0x0402 c → s.fab.cast = some k → k.source = true →
      let seg := fld c.pars 2 2
      let len := fld c.pars 4 4
      k.id = fld c.pars 0 2 → seg < k.segs → len = k.segLen seg → fld c.pars 8 8 % 64 = 0 →
      Config.sm3 (fitTo len data) = fld c.pars 16 32 →
      exec (.prgCastSegment m (some data)) s = .next ((b.setCast (fun k => { k with
        image := k.image.put (4096 * seg) (fitTo len data), have_ := k.have_.filter (fun x => x != seg) ++ [seg] })).castAxes .cast
          ⟨1, 0, 0, 0, fld c.pars 0 2, seg, k.segs, len, k.origin, fld c.pars 16 32⟩ (fitTo len data) (List.range 8))) ∧
    (∀ k, s.waitsRow m 0x0403 c → s.fab.cast = some k → k.id = fld c.pars 0 2 →
      exec (.prgCastClose m) s = .next ((b.setCast (fun k => { k with closing := true, asked := [], retried := [] })).castAsk)) ∧
    (∀ k, s.fab.cast = some k → (k.source = true ∨ k.missing = []) → Config.sm3 (k.image.raw 0 k.len) = k.digest →
      imageStatus (k.image.raw 0 k.len) = 0 → (bitsOf 144 k.blocks).any s.darkBlock = false →
      s.castEnd = some (({ s with fab := { s.fab with cast := none } }).loadBlocks (bitsOf 144 k.blocks) (k.image.raw 0 k.len)
        k.digest, 0, k.result k.blocks))

/-- CAST messages (R473 to R477): a broadcast segment is relayed on, then taken; a FETCH is answered with the segment, or with
REFUSE; a REFUSE is logged and ends the CLOSE. A message that came while this part took none for itself is only relayed (R341,
R342). -/
def claimCastMessages : Prop :=
  ∀ (s : State) (p : Packet × Bool) (ps rest : List (Packet × Bool)), s.thallusUp = true →
    let hd := castHdOf (fitTo 64 p.1.payload)
    let data := ps.flatMap (fun x => pktData x.1)
    let s1 := { s with fab := { s.fab with castq := rest } }
    let mine := s.fab.transit = false ∧ ∀ x ∈ p :: ps, x.2 = true
    (castMsg (fun k => k == 1 || k == 2) [] s.fab.castq = some (p :: ps, rest) →
      (mine → hd.kind = 2 → exec .castSegmentReceive s = .next (s1.castAccept hd data)) ∧
      (mine → hd.kind = 1 → exec .castSegmentReceive s = .next ((s1.castRelay hd data).castAccept hd data)) ∧
      (¬ mine → hd.kind = 2 → exec .castSegmentReceive s = .next s1) ∧
      (¬ mine → hd.kind = 1 → exec .castSegmentReceive s = .next (s1.castRelay hd data))) ∧
    (∀ k, castMsg (fun k => k == 3) [] s.fab.castq = some (p :: ps, rest) → mine → s.fab.cast = some k →
      ((k.source = true ∧ k.id = hd.id ∧ hd.origin = k.origin ∧ k.have_.contains hd.seg = true ∧ k.closing = false) →
        let bs := k.image.raw (4096 * hd.seg) (k.segLen hd.seg)
        exec .castFetchReceive s = .next (s1.sendCast p.1.src .resp
          (castHead 2 0 0 0 k.id hd.seg k.segs bs.length k.origin (Config.sm3 bs)) bs)) ∧
      (¬ (k.source = true ∧ k.id = hd.id ∧ hd.origin = k.origin ∧ k.have_.contains hd.seg = true ∧ k.closing = false) →
        exec .castFetchReceive s = .next (s1.sendCast p.1.src .resp
          (castHead 4 0 0 0 hd.id hd.seg hd.segs 0 hd.origin 0) []))) ∧
    (∀ k, castMsg (fun k => k == 4) [] s.fab.castq = some (p :: ps, rest) → mine → s.fab.cast = some k →
      k.source = false → k.closing = true → hd.id = k.id → hd.origin = k.origin →
      exec .castRefuseReceive s = .next ((s1.emit 0x0211 3 0 (k.id + 65536 * hd.seg) 0).closeFails))

/-- The fabric commands (R321, R340, R341, R419 to R421, R494). FAB_SLICE_CLEAR frees the receive slots of what it discards; a
change of the wiring or of the slice checks the directions for one without a link (R496). -/
def claimFabricCommands : Prop :=
  ∀ (s : State) (m : Nat) (c : Cmd),
    let b := s.began m
    (s.waitsRow m 0x0600 c →
      let r := ((s.setBody 0x0011).drop (64 * fld c.pars 0 1)).take 64
      s.fab.slice = 0 → fld c.pars 0 1 ≤ 15 → r.length = 64 → profOk (ofLE r) = true →
      exec (.fabProfile m) s = .next ({ b with fab := { b.fab with
        profile := some ⟨ofLE r, Config.sm3 r⟩, overs := [], dirLost := [] } }.ok m (toLE 32 (Config.sm3 r)))) ∧
    (s.waitsRow m 0x0601 c → mapOk 64 8 (fld c.pars 0 8) = true →
      let ls := bitsOf 64 (fld c.pars 0 8)
      exec (.fabLinkStatus m) s = .next (b.ok m (ls.flatMap (fun l => (s.link l).record s.now)))) ∧
    (s.waitsRow m 0x0602 c →
      let boxes := (List.range 8).map (fun a => fld c.pars (4 + 2 * a) 2)
      let f := { s.fab with slice := fld c.pars 0 1, box := boxes.map (fun b => b % 2 ^ 12) }
      s.fab.profile.isSome = true → s.fab.slice = 0 → s.anyRunning = false → f.slice ≠ 0 →
      (∀ a, a < 8 → (profDef s.fab.prof a = true → f.lo a < profSize s.fab.prof a ∧ f.len a ≤ profSize s.fab.prof a) ∧
        (profDef s.fab.prof a = false → fld c.pars (4 + 2 * a) 2 % 2 ^ 12 = 0)) →
      f.coordsIn f.here = true →
      exec (.fabSliceSet m) s = .next (({ b with
        fab := { f.freshPairs with dirLost := [] }, sec := { b.sec with setAt := s.now } }).dirCheck.ok m [])) ∧
    (s.waitsRow m 0x0603 c → s.anyRunning = false →
      ∃ f, exec (.fabSliceClear m) s = .next ({ b with
          fab := f, sec := { b.sec with clearAt := s.now, wiped := false } }.ok m []) ∧
        f.slice = 0 ∧ f.transit = false ∧ f.box = List.replicate 8 0 ∧ f.profile = s.fab.profile ∧ f.ctrlq = [] ∧ f.castq = [] ∧
        (∀ k ∈ f.links, k.tx = []) ∧ (∀ l, (f.link l).freed = ((s.freeSlots s.fab.holders).fab.link l).freed) ∧ (∀ e ∈ f.endps, e.outq = [] ∧ e.inq = [] ∧ e.resps = [] ∧ e.errs = [] ∧ e.reqs = [] ∧
          ∀ p ∈ e.pairs, p.seq = 0 ∧ p.next = 0 ∧ p.kept = [] ∧ p.lost = false) ∧
        (∀ a ∈ f.acus, a.colls = [] ∧ a.inq = [] ∧ a.cseq = 0)) ∧
    (∀ k more i a d, s.waitsRow m 0x0604 c →
      let n := fld c.pars 0 1
      n ≤ 15 → ((List.range 4).map (fun i => s.link (4 * n + i))).filter (fun k => k.st == .miswired) = k :: more →
      k.ident = some i → i.node = fld c.pars 2 2 → i.port = fld c.pars 4 1 → s.fab.implied i = some (a, d) →
      exec (.fabAcceptWiring m) s = .next (({ b with fab := { b.fab with
        overs := s.fab.overs.filter (fun (o : Nat × Nat × Nat) => o.1 != n) ++ [(n, a, d)] } }).emit 0x020D 5 (4 * n)
          (n + 65536 * a + 2 ^ 32 * d) 0 |>.dirCheck |>.ok m [])) ∧
    (s.waitsRow m 0x0605 c →
      let l := fld c.pars 0 1
      (63 < l → exec (.fabRetrainLink m) s = .next (b.answer m 3 [])) ∧
      (l ≤ 63 → (s.link l).st = .off → exec (.fabRetrainLink m) s = .next (b.answer m 4 [])) ∧
      (l ≤ 63 → (s.link l).st ≠ .off → (s.link l).st ≠ .training → exec (.fabRetrainLink m) s =
        .next (((b.updLink l (fun k => { k with
          st := .training, goal := .up, gate := false, tries := 0, full := (s.link l).stored.isNone, retrain := some m
          sample := none })).keep m [s.now, 0]).dirCheck))) ∧
    (s.waitsRow m 0x0606 c → fld c.pars 0 1 ≤ 1 → s.fab.slice ≠ 0 → s.anyRunning = false → s.stks.any Stack.trigOut = false →
      exec (.fabTransitOnly m) s = .next ({ b with fab := { b.fab with transit := fld c.pars 0 1 == 1 } }.ok m []))

/-- The time commands (R366, R371, R422, R423): STC_READ; STC_SET_EPOCH records an epoch, and with SEED in FREE locks the
counter; DEADLINE_POLICY sets the enabled kinds, and one that disables a kind disarms its armed deadlines. -/
def claimTimeCommands : Prop :=
  ∀ (s : State) (m : Nat) (c : Cmd),
    let b := s.began m
    let e : TimeS := { s.time with epochHost := fld c.pars 8 8, epochStc := fld c.pars 16 8 }
    (s.waitsRow m 0x0700 c → exec (.stcRead m) s = .next (b.ok m (toLE 8 s.now ++ toLE 4 s.time.stc ++ toLE 1 s.time.state ++
      toLE 3 0 ++ toLE 8 s.time.epochHost ++ toLE 8 s.time.epochStc))) ∧
    (s.waitsRow m 0x0701 c → bit (fld c.pars 0 1) 0 = false → exec (.stcSetEpoch m) s = .next ({ b with time := e }.ok m [])) ∧
    (s.waitsRow m 0x0701 c → bit (fld c.pars 0 1) 0 = true → s.time.state = 0 →
      exec (.stcSetEpochSeed m) s = .next ({ b with time := { e with state := 2 } }.ok m [])) ∧
    (s.waitsRow m 0x0701 c → bit (fld c.pars 0 1) 0 = true → s.time.state ≠ 0 →
      exec (.stcSetEpochSeed m) s = .next (b.answer m 4 [])) ∧
    (s.waitsRow m 0x0702 c →
      ∃ t : State, exec (.deadlinePolicy m) s = .next (t.ok m (toLE 4 s.time.policy)) ∧ t.time.policy = fld c.pars 0 1 % 16 ∧
        (bit s.time.policy 0 = true → bit (fld c.pars 0 1 % 16) 0 = false → ∀ a ∈ t.fab.acus, ∀ x ∈ a.colls, x.dl = none) ∧
        (bit s.time.policy 3 = true → bit (fld c.pars 0 1 % 16) 3 = false → ∀ x ∈ t.host.runs, x.m ≠ m → x.dl = 0))

/-- The update commands (R277, R278, R287, R300, R301, R308, R310, R424, R425). -/
def claimUpdateCommands : Prop :=
  ∀ (s : State) (m : Nat) (c : Cmd),
    let b := s.began m
    let n := fld c.pars 0 1
    (s.waitsRow m 0x0800 c →
      let named := bitsOf 12 (fld c.pars 0 2)
      let users := named.flatMap (fun k => (s.stack k).sue.binds.filter (fun x => x.ruleNo == fld c.pars 2 1))
      mapOk 12 2 (fld c.pars 0 2) = true → fld c.pars 2 1 ≤ 15 → 1 ≤ fld c.pars 3 1 → fld c.pars 3 1 ≤ 32 →
      ((List.range 4).map (fun i => fld c.pars (200 + 8 * i) 8)).all fp64Pos = true →
      (users.any (fun x => x.trig.isSome) = true → exec (.sueLoadRule m) s = .next (b.answer m 4 [])) ∧
      (users.any (fun x => x.trig.isSome) = false → users.all (fun x => ruleOk (ruleOf c.pars) x.strs) = true →
        exec (.sueLoadRule m) s = .next ((named.foldl (fun (t : State) k => t.updStack k (fun st => { st with
          sue := st.sue.putRule (fld c.pars 2 1) (ruleOf c.pars) })) b).ok m []))) ∧
    (∀ r, s.waitsRow m 0x0801 c → bit (fld c.pars 1 1) 0 = false →
      let x := Bind.ofBytes (c.pars.drop 8)
      let others := (s.stack n).sue.binds.filter (fun y => y.layer != x.layer)
      n < 12 → bits x.hd 492 4 = n → x.layer ≠ 0xFFFF → (s.stack n).sue.rule x.ruleNo = some r → ruleOk r x.strs = true →
      x.ok (others.flatMap Bind.extents) = true → s.bindStack x.layer = none → bindRoom others x = true →
      exec (.sueBindLayer m) s = .next (((b.dropBind x.layer).updStack n (fun k => { k with
        sue := { k.sue with binds := k.sue.binds ++ [x] } })).ok m (toLE 16 x.record))) ∧
    (∀ x, s.waitsRow m 0x0801 c → bit (fld c.pars 1 1) 0 = true → n < 12 → (s.stack n).sue.bind (fld c.pars 2 2) = some x →
      (x.inUse = true → exec (.sueUnbindLayer m) s = .next (b.answer m 4 [])) ∧
      (x.inUse = false → exec (.sueUnbindLayer m) s = .next (((b.dropBind x.layer).settle n).ok m (toLE 16 x.record)))) ∧
    (∀ x, s.waitsRow m 0x0802 c → n < 12 → (s.stack n).sue.bind (fld c.pars 2 2) = some x →
      exec (.sueVersionState m) s = .next (b.ok m (toLE 16 x.record ++ toLE 4 x.last ++ toLE 4 (s.stack n).sue.closed ++
        toLE 1 (x.trigCode (s.stack n).sue) ++ toLE 1 (b2n x.rbOk) ++ toLE 6 0 ++ toLE 8 x.armed))) ∧
    (s.waitsRow m 0x0803 c → s.scaleOk c = true → s.stks.any Stack.trigOut = false →
      ∃ t : State, exec (.sueScaleMode m) s = .next (t.ok m (toLE 4 (t.stack 0).sue.scaleCode ++ toLE 4 (fld c.pars 24 4 - 1))) ∧
        t.stks = s.stks.map (fun (k : Stack) => { k with sue := k.sue.setScale c.pars }) ∧ t.fab.contrib = none) ∧
    (s.waitsRow m 0x0804 c →
      let l := fld c.pars 2 2
      let todo := if l = 0xFFFF then (s.stack n).sue.binds.filter (fun x => x.rbOk)
        else (s.stack n).sue.binds.filter (fun x => x.layer == l)
      n < 12 → (l = 0xFFFF ∨ todo ≠ []) → todo.any (fun x => x.trig.isSome || !x.rbOk) = false → s.stackGate n = .ok →
      exec (.sueRollback m) s = .next ((b.putSue n (todo.foldl (fun k x => k.rollback s.now x.layer) (s.stack n))).ok m
        (toLE 4 todo.length))) ∧
    (∀ x, s.waitsRow m 0x0805 c → n < 12 → (s.stack n).sue.bind (fld c.pars 2 2) = some x →
      (s.stackGate n = .ok → exec (.sueStatsRead m) s = .next ((b.touchAt 0 clsBulk 4 n x.statsOff 64).ok m
        (((s.stack n).readP x.statsOff 64).map Prod.fst))) ∧
      (s.stackGate n = .refused → exec (.sueStatsRead m) s = .next (b.answer m 8 [])))

/-- The telemetry commands (R57, R426 to R428): counters are read with their saturation bit, into the mailbox or to the host; a
clear sets those it names to 0; sensors read as last sampled, what the board supplies as free values. -/
def claimTelemetryCommands : Prop :=
  ∀ (s : State) (m : Nat) (c : Cmd),
    let b := s.began m
    let l := fld c.pars 0 1
    let f := fld c.pars 2 2
    let n := fld c.pars 4 2
    let a := fld c.pars 8 8
    (∀ ok, s.waitsRow m 0x0900 c → telOk c.pars 8 = true → l ≠ 7 →
      let bs := (List.range n).flatMap (fun i => (s.telCtrs l (f + i)).flatMap (fun x => toLE 8 (ctrWord x)))
      (a = 0 → n * telSize l ≤ 4064 → exec (.telCounters m ok) s = .next (b.ok m bs)) ∧
      (a ≠ 0 → a % 64 = 0 → ok = true → exec (.telCounters m ok) s =
        .next ({ b with out := s.out ++ [Out.hostWrite a bs false] }.ok m []))) ∧
    (s.waitsRow m 0x0901 c → exec (.telSensors m) s = .next ({ b with freeN := s.freeN + 10 }.ok m
      (s.pwr.coreT.flatMap (fun x => toLE 2 (unsigned 16 x)) ++ s.pwr.dieT.flatMap (fun x => toLE 2 (unsigned 16 x)) ++
        s.stks.flatMap (fun (k : Stack) => toLE 2 (unsigned 16 k.temp)) ++ toLE 2 0 ++
        (List.range 8).flatMap (fun i => toLE 2 (Config.free (s.freeN + i))) ++ toLE 2 (Config.free (s.freeN + 8)) ++ toLE 2 0 ++
        toLE 4 (Config.free (s.freeN + 9))))) ∧
    (s.waitsRow m 0x0902 c → telOk c.pars 7 = true → exec (.telClear m) s =
      .next (((List.range n).foldl (fun (t : State) i => t.telZero l (f + i)) b).ok m [])) ∧
    (∀ n, n < s.blocks.length → ((s.telZero 0 n).block n).ctr = (s.block n).ctr.map (fun _ => 0))

/-- The fault commands (R399, R430, R431): FLT_READ gives a unit's latest record; FLT_CLEAR discards it and takes a FAULTED block
to STOPPED with its pins released, at once or, where a pin request of it awaits its answer, with the answer (R271; the wait of the
command is log entry 131's); FLT_INJECT logs itself and puts the fault in; BLK_GRADE_DOWN takes an array out of the grade. -/
def claimFaultCommands : Prop :=
  ∀ (s : State) (m : Nat) (c : Cmd),
    let b := s.began m
    let l := fld c.pars 0 1
    let u := fld c.pars 2 2
    (s.waitsRow m 0x0A00 c → (l ≠ 1 ∨ 144 ≤ u ∨ s.darkBlock u = false) →
      exec (.fltRead m) s = .next (b.ok m (s.faultRec l u))) ∧
    (s.waitsRow m 0x0A01 c → l = 1 → u < 144 → s.darkBlock u = false →
      let k := (s.block u).clearFault
      let t := { b.updBlock u Block.clearFault with latest := s.latest.filter (fun x => !(x.1 == l && x.2.1 == u)) }
      (k.clearing = false → exec (.fltClear m) s = .next (t.ok m (toLE 4 k.st.code))) ∧
      (k.clearing = true → exec (.fltClear m) s = .next t) ∧
      ((s.block u).st = .faulted → (s.block u).pinq = [] → k.st = .stopped ∧ k.clearing = false) ∧
      ((s.block u).st = .faulted → (s.block u).pinq ≠ [] → k.st = .faulted ∧ k.clearing = true)) ∧
    (s.waitsRow m 0x0A01 c → l ≠ 1 → exec (.fltClear m) s = .next ({ b with
      latest := s.latest.filter (fun x => !(x.1 == l && x.2.1 == u)) }.ok m (toLE 4 0xFF))) ∧
    (s.waitsRow m 0x0A02 c →
      let kind := fld c.pars 4 2
      let arg := fld c.pars 8 8
      u < injectUnits kind → ¬ (kind = 3 ∧ stackBytes ≤ bits arg 0 63) →
      ¬ ((kind = 1 ∨ kind = 2 ∨ kind = 4) ∧ s.darkBlock u = true) →
      let t := b.logEvent ⟨0x0609, 7, 0, kind + 65536 * l + 2 ^ 32 * u, 0, s.now⟩
      exec (.fltInject m) s = .next ((t.injectFault kind u arg).ok m (toLE 8 (s.host.evseq + 1)))) ∧
    (s.waitsRow m 0x0A03 c →
      let n := fld c.pars 0 2
      n < 144 → (s.block n).st ≠ .running → s.vecBlock n = false → s.darkBlock n = false →
      ∃ t : State, exec (.blkGradeDown m) s = .next (t.ok m t.gradeRec) ∧ t.sec.vmap = s.sec.vmap ||| (1 <<< n) ∧
        t.sec.downs = s.sec.downs + 1 ∧ (∃ x ∈ t.sec.sets, x.1 = 1 ∧ (x.2.drop 128) = t.gradeBody))

/-- The security commands (R511, R512, R514, R521): the attestation report is signed with the identity key; a change of the
life-cycle state blows its fuses, and wipes the part at its end; an owner key is installed with its counter. -/
def claimSecurityCommands : Prop :=
  ∀ (s : State) (m : Nat) (c : Cmd),
    let b := s.began m
    (s.waitsRow m 0x0B00 c → exec (.secAttest m) s = .next ({ b with freeN := s.freeN + 1 }.ok m
      (s.report c ++ toLE 64 (Config.sm2Sign s.sec.ident (Config.sm3 (s.report c)) s.freeN)))) ∧
    (s.waitsRow m 0x0B01 c →
      ((s.anyRunning = true ∨ s.fab.slice ≠ 0) → exec (.secLifecycle m) s = .next (b.answer m 4 [])) ∧
      (s.anyRunning = false → s.fab.slice = 0 →
        let us := (if s.stks.any Stack.hot then 32970 else 31520) + 8000
        ∃ t : State, exec (.secLifecycle m) s = .next (t.keep m [s.now + 100 * us, s.sec.fuses.lc]) ∧
          t.sec.fuses = { s.sec.fuses with lc := fld c.pars 0 1 } ∧ t.sec.authCtr = fld c.pars 4 4 ∧
          t.blocks = mapNum (fun n b => if (s.region (n / 36)).st = .off then b else b.startWipe false) 0 s.blocks ∧
          t.stks = s.stks.map (fun (k : Stack) =>
            if k.st = .selfRefresh then { k with st := .waking, wake := s.now + 400, byReq := false } else k))) ∧
    (s.waitsRow m 0x0B02 c → s.anyRunning = false → s.fab.slice = 0 →
      ∃ t : State, exec (.secOwnerKey m) s = .next (t.ok m (toLE 32 (keyDigest (fld c.pars 0 64)))) ∧
        t.sec.owner = some (fld c.pars 0 64) ∧ t.sec.authCtr = fld c.pars 64 4 ∧
        (s.boot.restart = false → s.boot.halted = false →
          ∃ x ∈ t.events, x.code = 0x0B04 ∧ x.info = keyDigest (fld c.pars 0 64) % 2 ^ 64)) ∧
    (c.op = 0x0B01 → c.m = m → s.cmd m = some c → c.keep.getD 0 0 ≤ s.now →
      s.ending c = ((s.lcWipe.emit 0x0B03 3 0 (c.keep.getD 1 0 + 65536 * s.sec.fuses.lc) 0).ok m []).answered m)

/-- What a life-cycle wipe leaves (R512): every stack it reaches, every region store, scratchpad, accumulator file and side memory
holds zeros. -/
def claimLifeCycleWipe : Prop :=
  ∀ (s : State),
    (∀ b ∈ s.lcWipe.blocks, b.spad = Mem.empty ∧ b.acc = Mem.empty ∧ b.sideV = Mem.empty ∧ b.sideT = Mem.empty ∧ b.tiles = []) ∧
    (∀ g ∈ s.lcWipe.regions, g.store = Mem.empty) ∧ s.lcWipe.sec.lastLc = s.sec.fuses.lc

/-- The firmware and settings commands (R396, R433 to R435): a staged image that passes is marked verified; a switch writes the
directory and restarts Thallus from ROM; settings are read from the current copy, and a block that passes its check is written. -/
def claimFirmwareAndSettings : Prop :=
  ∀ (s : State) (m : Nat) (c : Cmd),
    let b := s.began m
    (∀ data, s.waitsRow m 0x0C00 c → fld c.pars 8 8 % 64 = 0 → fld c.pars 0 4 ≤ 2 ^ 25 →
      let k := 1 - s.boot.slot
      let t := b.flashBoth (fun f => f.write (slotOff k) (fitTo (fld c.pars 0 4) data))
      let f := t.flashAt (t.boot.dev.getD 0)
      (f.fwOk k t.sec.fuses.minSec = true → exec (.fwStage m (some data)) s =
        .next ({ t with sec := { t.sec with staged := 1 } }.ok m (f.read (slotOff k + 4) 8))) ∧
      (f.fwOk k t.sec.fuses.minSec = false → exec (.fwStage m (some data)) s =
        .next ({ t with sec := { t.sec with staged := 2 } }.answer m 3 []))) ∧
    (s.waitsRow m 0x0C01 c →
      let k := 1 - s.boot.slot
      let f := s.flashAt (s.boot.dev.getD 0)
      (s.sec.staged ≠ 1 → exec (.fwSwitch m) s = .next (b.answer m 4 [])) ∧
      (s.sec.staged = 1 → f.fwOk k s.sec.fuses.minSec = false → exec (.fwSwitch m) s = .next (b.answer m 3 [])) ∧
      (s.sec.staged = 1 → f.fwOk k s.sec.fuses.minSec = true →
        (fld (f.read (slotOff k) 256) 12 1 = fld s.boot.hdr 12 1 ∨ bit (fld c.pars 0 1) 0 = true) →
        let t := b.flashBoth (fun g => g.putDir k g.curMap)
        exec (.fwSwitch m) s = .next { t with boot := { t.boot with
          boot := 2, restart := true, ready := false, switching := true, mbxAbort := 0 } })) ∧
    (∀ bs ok, s.waitsRow m 0x0C02 c → fld c.pars 0 2 < 256 →
      (s.flashAt (s.boot.dev.getD 0)).setting (fld c.pars 0 2) = some bs → fld c.pars 4 4 ≤ bs.length → fld c.pars 8 8 = 0 →
      fld c.pars 4 4 ≤ 4064 → exec (.setRead m ok) s = .next (b.ok m (bs.take (fld c.pars 4 4)))) ∧
    (∀ data, s.waitsRow m 0x0C03 c → fld c.pars 8 8 % 64 = 0 → 128 ≤ fld c.pars 0 4 → fld c.pars 0 4 ≤ 32768 →
      let bs := fitTo (fld c.pars 0 4) data
      let i := fld bs 0 2
      let old := match (s.flashAt (s.boot.dev.getD 0)).setting i with | some o => fld o 4 4 | none => 0
      i ≤ 255 → fld bs 8 4 = fld c.pars 0 4 - 128 → i ≠ 1 → i ≠ 2 → (i ≠ 4 ∨ s.sec.fuses.lc = 0) → i ≠ 0x0010 →
      s.setOk i bs = true →
      (fld bs 4 4 ≤ old → exec (.setWrite m (some data)) s = .next (b.answer m 6 [])) ∧
      (old < fld bs 4 4 →
        let t := b.flashBoth (Flash.putSetting s.boot.slot i bs)
        exec (.setWrite m (some data)) s = .next ((if bit (fld bs 2 1) 0 then t.inForce i bs else t).ok m
          (toLE 2 i ++ toLE 1 (b2n (bit (fld bs 2 1) 0)) ++ [0]))))

/-- THALLUS_LOCKSTEP (R485): a first mismatch restarts Thallus from ROM and its event is forwarded; one in a restart, or within
1 s of the end of the last, leaves it halted. THALLUS_RESTART_COMPLETE (R485, R383): READY returns, the mailboxes that were
device-owned are completed, and the events held are entered after. -/
def claimThallusRestarts : Prop :=
  (∀ (s : State), s.coreUp = true → s.boot.halted = false → s.pwr.clkOff = false → s.pwr.chip ≠ 0 → s.boot.boot = 8 →
    s.boot.restart = false →
    ((∀ t, s.boot.lockEnd = some t → t + 100000000 ≤ s.now) → exec .thallusLockstep s = .next { s with boot := { s.boot with
      ready := false, boot := 2, restart := true, switching := false, mbxAbort := s.host.mbxOwned } }) ∧
    ((∃ t, s.boot.lockEnd = some t ∧ s.now < t + 100000000) → exec .thallusLockstep s = .next { s with boot := { s.boot with
      ready := false, halted := true } })) ∧
  (∀ (s : State), s.coreUp = true → s.boot.halted = false → s.pwr.clkOff = false → s.boot.boot = 8 → s.boot.restart = true →
    s.boot.switching = false →
    let s1 := { s with boot := { s.boot with
      restart := false, ready := true, switching := false, heldEv := [], mbxAbort := 0, lockEnd := some s.now } }
    let t := (s1.logEvent ⟨0x0601, 7, 0, 0, 0, s.now⟩).abortMbxs s.boot.mbxAbort
    exec .thallusRestartComplete s = .next { t with events := t.events ++ s.boot.heldEv })

/-! Power transitions, resets, supplies, temperature, clocks (chapters 16 and 20). -/

/-- CHIP_TRANSITION_COMPLETE (R443), REGION_TRANSITION_COMPLETE (R445) and LINK_TRANSITION_COMPLETE (R448): a move whose time has
come ends in its state, and what waited for it goes on; before its time nothing happens. -/
def claimTransitionsComplete : Prop :=
  (∀ (s : State) (n t : Nat), s.pwr.chipMove = some (n, t) → s.coreUp = true → s.pwr.clkOff = false →
    (s.now < t → exec .chipTransitionComplete s = .next s) ∧
    (t ≤ s.now → n ≠ 0 → s.pwr.chip ≠ 0 → exec .chipTransitionComplete s =
      .next ({ s with pwr := { s.pwr with chip := n, chipMove := none } }).chipStep) ∧
    (t ≤ s.now → n ≠ 0 → s.pwr.chip = 0 → exec .chipTransitionComplete s =
      .next ({ s with pwr := { s.pwr with chip := n, chipMove := none }, boot := { s.boot with ready := true } }).chipStep) ∧
    (t ≤ s.now → n = 0 → s.host.runs.any (fun c => c.op == 0x0200) = false → exec .chipTransitionComplete s =
      .next ({ s with pwr := { s.pwr with chip := 0, chipMove := none }, boot := { s.boot with ready := false } }).wakeChip)) ∧
  (∀ (s : State) (r t : Nat) (n : RegSt), r < 4 → (s.region r).move = some (n, t) → s.coreUp = true → s.pwr.clkOff = false →
    (s.now < t → exec (.regionTransitionComplete r) s = .next s) ∧
    (n = .run → s.issueOn = false → exec (.regionTransitionComplete r) s = .next s) ∧
    (t ≤ s.now → n ≠ .armed → (n = .run → s.issueOn = true) → exec (.regionTransitionComplete r) s =
      .next (((s.region r).waits.foldl (fun t a => t.storeAccess r a)
        ((s.regionEnter r n).updRegion r (fun g => { g with waits := [] }))).resume.regionsGo)) ∧
    (t ≤ s.now → n = .armed → (s.region r).st ≠ .retain → exec (.regionTransitionComplete r) s =
      .next (((s.region r).waits.foldl (fun t a => t.storeAccess r a)
        ((s.regionEnter r n).updRegion r (fun g => { g with waits := [] }))).resume.regionsGo))) ∧
  (∀ (s : State) (l : Nat), l < 64 → s.pwr.stopped = false → s.dieUp (l / 32) = true →
    ((s.link l).st = .up → (s.link l).goal = .standby → (s.link l).tx = [] → exec (.linkTransitionComplete l) s =
      .next (s.updLink l (fun k => { k with st := .standby }))) ∧
    ((s.link l).st = .up → (s.link l).goal = .standby → (s.link l).tx ≠ [] → exec (.linkTransitionComplete l) s = .next s) ∧
    ((s.link l).st = .standby → (s.link l).goal = .up → exec (.linkTransitionComplete l) s =
      .next ((s.updLink l (fun k => { k with st := .up })).dirCheck)) ∧
    ((s.link l).goal = .off → exec (.linkTransitionComplete l) s =
      .next (((s.freeSlots ((s.link l).tx.map TxP.p)).updLink l (fun k => { k with
      st := .off, tx := [], sample := none, gate := false, tries := 0 })).dirCheck)))

/-- The next step of the chip and of a region (Tables 16-4 and 16-6; R443, R445): up one state at once, with the time of the
step; the chip down only once its regions are at rest no higher than the lower state allows; one region at a time enters RUN. -/
def claimNextPowerStep : Prop :=
  (∀ (s : State), s.pwr.chipMove = none → s.pwr.chip < s.pwr.chipGoal →
    s.chipStep.pwr.chipMove = some (s.pwr.chip + 1, s.now + chipTicks s.pwr.chip (s.pwr.chip + 1)) ∧
    s.chipStep.regions = s.regions ∧ s.chipStep.blocks = s.blocks) ∧
  (∀ (s : State), s.pwr.chipGoal = s.pwr.chip → s.chipStep = s) ∧
  (∀ (s : State) (n t : Nat), s.pwr.chipMove = none → s.pwr.chipGoal < s.pwr.chip → s.chipStep.pwr.chipMove = some (n, t) →
    n + 1 = s.pwr.chip ∧ ∀ g ∈ s.chipStep.regions, g.move = none ∧ g.st.code ≤ (chipRegion n).code) ∧
  (∀ (s : State) (r : Nat), (s.region r).move = none → (s.region r).goal.code > (s.region r).st.code →
    ((s.region r).st ≠ .armed ∨ (∀ x ∈ s.regions, ∀ e, x.move ≠ some (.run, e)) → s.regionNext r = some (s.region r).st.up) ∧
    ((s.region r).st = .armed → (∃ x ∈ s.regions, ∃ e, x.move = some (.run, e)) → s.regionNext r = none))

/-- A core-die reset and its end (R449, R450, Table 16-9): VDD_CORE or VDD_SRAM at its reset level, or RESET_N low for 1 µs, puts
the core die in reset: every block returns to its reset registers with its stores kept or damaged and its secure partition
zero, regions above OFF fall to RETAIN, an update engine's lanes are seeded anew and its pins and triggers gone (R44, R262), the chip is in C1 and not READY, and Crust remembers what it must complete. Leaving it
runs stages 2 to 5 again. -/
def claimCoreDieReset : Prop :=
  (∀ (s : State) (rail : Nat), rail < 2 → s.crustUp = true →
    let t := s.coreReset rail
    exec (.coreDieReset rail) s = .next { t with pwr := { t.pwr with held := t.pwr.held.filter (fun r => r != rail) ++ [rail] } }) ∧
  (∀ (s : State), s.crustUp = true → s.pwr.good = true → s.pwr.resetN = true →
    let t := s.coreReset 2
    exec .resetNLow s = .next { t with pwr := { t.pwr with resetN := false, lowAt := some (s.now - 100) } }) ∧
  (∀ (s : State) (cause : Nat),
    let t := s.coreReset cause
    t.pwr.chip = 1 ∧ t.pwr.chipGoal = 1 ∧ t.pwr.chipMove = none ∧ t.boot.ready = false ∧ t.host.runs = [] ∧ t.host.hand = [] ∧
    t.tokMsgs = [] ∧ t.noc = [] ∧ t.starts = [] ∧ t.fab.cast = none ∧ t.sec.meas = [] ∧
    (∀ b ∈ t.blocks, b.st = .idle ∧ b.jobs = [] ∧ b.tiles = [] ∧ b.pins = []) ∧
    (∀ g ∈ t.regions, (g.st = .off ∨ g.st = .retain) ∧ g.move = none) ∧
    (∀ n, n < 12 → n < s.stks.length → (t.stack n).sue.lanes = seedLanes 1024 0 ∧ (t.stack n).sue.queue = [] ∧
      (t.stack n).scas = [] ∧ ∀ x ∈ (t.stack n).sue.binds, x.pin0 = 0 ∧ x.pin1 = 0 ∧ x.writing = false ∧ x.trig = none)) ∧
  (∀ (b : Block),
    let t := b.coreReset none
    t.imA = b.imA ∧ t.imX = b.imX ∧ t.descs = b.descs ∧ t.acc = b.acc ∧ t.sideV = b.sideV ∧ t.sideT = b.sideT ∧
    t.spad = b.spad.zero secBase (2 ^ 18)) ∧
  (∀ (s : State), s.crustUp = true → s.pwr.core.isSome = true → s.pwr.held ≠ [] →
    let s1 := { s with pwr := { s.pwr with held := [] } }
    ((s.pwr.lowAt ≠ none ∨ s.pwr.resetN = false) → exec .coreDieResetRelease s = .next s1) ∧
    (s.pwr.lowAt = none → s.pwr.resetN = true → exec .coreDieResetRelease s = .next s1.coreRelease)) ∧
  (∀ (s : State), s.crustUp = true → s.pwr.resetN = false → s.pwr.held = [] → s.pwr.core.isSome = true → 2 ≤ s.boot.boot →
    s.boot.boot < 14 → exec .warmReset s = .next { s with
      pwr := { s.pwr with resetN := true, lowAt := none, core := none }, boot := { s.boot with boot := 2, warm := true } })

/-- A package reset (R343, R449): PWR_GOOD falling, RESET_N low for 10 ms, or a rail other than those of the core die at its reset
level: everything returns to its value at reset but fuses, flash, straps and the levels of pins and cables. PWR_GOOD rising
samples the straps; after the delay, or once the rails have recovered, Crust starts its first stage. -/
def claimPackageReset : Prop :=
  (∀ (s : State), exec (.packageReset 0) s = .next { s.cleared with pwr := { s.cleared.pwr with good := false } }) ∧
  (∀ (s : State) (t : Nat), s.crustUp = true → s.pwr.lowAt = some t → t + 1000000 ≤ s.now →
    exec (.packageReset 1) s = .next ({ s.cleared with pwr := { s.cleared.pwr with core := some 2 } }).crustStarts) ∧
  (∀ (s : State) (cause : Nat), 4 ≤ cause → cause < 10 → s.crustUp = true →
    exec (.packageReset cause) s = .next { s.cleared with pwr := { s.cleared.pwr with held := [cause - 2] } }) ∧
  (∀ (s : State),
    let t := s.cleared
    t.blocks = State.reset.blocks ∧ t.regions = State.reset.regions ∧ t.stks = State.reset.stks ∧ t.time = State.reset.time ∧
    t.host = State.reset.host ∧ t.boot = State.reset.boot ∧ t.events = [] ∧ t.sec.fuses = s.sec.fuses ∧ t.pending = s.pending ∧
    t.fab.endps = State.reset.fab.endps ∧ t.fab.acus = State.reset.fab.acus ∧
    t.sec.flash.map Flash.mem = s.sec.flash.map Flash.mem) ∧
  (∀ (s : State) (w a : Nat), s.pwr.good = false → exec (.pwrGoodRise w a) s = .next { s with pwr := { s.pwr with
    good := true, osc := true, oscWait := w % 8, smbAddr := a % 8, stopped := false, dieOn := [true, true] } }) ∧
  (∀ (s : State) (low : List Nat), s.pwr.good = true → s.pwr.osc = true → (∀ r ∈ low, r < 8) →
    (low = [] → exec (.oscWaitExpiry low) s = .next { s with
      pwr := { s.pwr with crust := true, osc := false, held := [] }, boot := { s.boot with boot := 1 } }) ∧
    (low ≠ [] → exec (.oscWaitExpiry low) s = .next { s with pwr := { s.pwr with osc := false, held := low } })) ∧
  (∀ (s : State), s.pwr.good = true → s.pwr.crust = false → s.pwr.osc = false → s.pwr.held ≠ [] →
    exec .resetLevelRelease s = .next { s with
      pwr := { s.pwr with crust := true, osc := false, held := [] }, boot := { s.boot with boot := 1 } })

/-- Supplies (R451 to R453): a rail at its warning level pauses issue and is logged; once every such rail has recovered issue goes on,
with its length logged in units of 10 ns, unless the part has tripped; a rail above its limit is logged. While issue is paused no
block issues. -/
def claimSupplies : Prop :=
  (∀ (s : State) (rail : Nat), rail < 8 → s.crustUp = true →
    let s1 := { s with pwr := { s.pwr with
      rails := s.pwr.rails.filter (fun r => r != rail) ++ [rail], pause := some (s.pwr.pause.getD s.now) } }
    exec (.supplyWarn rail) s = .next (s1.emit 0x0501 3 0 rail 0) ∧
    (∀ n, (s1.emit 0x0501 3 0 rail 0).canIssue n = false) ∧
    exec (.supplyHigh rail) s = .next (s.emit 0x0503 3 0 rail 0)) ∧
  (∀ (s : State) (t : Nat), s.crustUp = true → s.pwr.rails ≠ [] → s.pwr.pause = some t →
    (s.pwr.trip = none → exec .supplyResume s =
      .next (({ s with pwr := { s.pwr with rails := [], pause := none } }).emit 0x0502 3 0 (10 * (s.now - t)) 0)) ∧
    (s.pwr.trip ≠ none → exec .supplyResume s = .next { s with pwr := { s.pwr with rails := [] } }))

/-- Temperature (R454, R455): a sample records the points; at 100 °C THERM_WARN, ended at 97 °C; at 115 °C the part trips: issue
pauses; 5 µs later the fast clocks stop and the transmitters idle; each base die then puts its stack in self refresh. -/
def claimTemperature : Prop :=
  (∀ (s : State) (core dies : List Int), core.length = 5 → dies.length = 2 → s.crustUp = true →
    let x := hottest (core ++ dies)
    let s1 := { s with pwr := { s.pwr with coreT := core, dieT := dies } }
    (1552 < x.2 → x.2 < 1600 → exec (.thermalSample core dies) s = .next s1) ∧
    (x.2 ≤ 1552 → exec (.thermalSample core dies) s = .next { s1 with pwr := { s1.pwr with therm := false } }) ∧
    (1600 ≤ x.2 → x.2 < 1840 → s.pwr.therm = false → exec (.thermalSample core dies) s =
      .next (({ s1 with pwr := { s1.pwr with therm := true } }).emit 0x0504 3 0 (x.1 + 65536 * unsigned 16 x.2) 0)) ∧
    (1840 ≤ x.2 → s.pwr.therm = true → s.pwr.trip = none → exec (.thermalSample core dies) s =
      .next (({ s1 with pwr := { s1.pwr with
        trip := some s.now, pause := some (s.pwr.pause.getD s.now) } }).emit 0x0505 3 0 (x.1 + 65536 * unsigned 16 x.2) 0))) ∧
  (∀ (s : State) (t : Nat), s.crustUp = true → s.pwr.trip = some t → t + 500 ≤ s.now →
    exec .tripClockStop s = .next { s with pwr := { s.pwr with clkOff := true, dieIdle := [true, true] } }) ∧
  (∀ (s : State) (n : Nat), n < 12 → s.crustUp = true → s.pwr.clkOff = true → s.pwr.spOff.contains n = false →
    (s.stack n).st ≠ .untrained → (s.stack n).st ≠ .failed →
    let t := s.putStack n { (s.stack n).drain s.now with
      st := .selfRefresh, rows := [], refr := none, reqs := (s.stack n).reqs.filter (fun r => !r.wr && r.cls != 2) }
    exec (.tripStackStop n) s = .next { t with pwr := { t.pwr with spOff := t.pwr.spOff ++ [n] } })

/-- Clocks (R441, R484): the oscillator stops the part; a link die then idles its transmitters; a link reference that stops takes
its die, and the die is logged as lost 1 µs later. -/
def claimClockLoss : Prop :=
  (∀ (s : State), s.pwr.crust = true → exec .oscillatorStop s = .next { s with pwr := { s.pwr with stopped := true } }) ∧
  (∀ (s : State) (d : Nat), d < 2 →
    (s.pwr.stopped = true → exec (.keepAliveLoss d) s =
      .next { s with pwr := { s.pwr with dieIdle := s.pwr.dieIdle.set d true } }) ∧
    (s.pwr.dieOn.getD d false = true → exec (.linkReferenceStop d) s = .next { s with pwr := { s.pwr with
      dieOn := s.pwr.dieOn.set d false, dieAt := s.pwr.dieAt ++ [(d, s.now)] } }) ∧
    (s.crustUp = true → (∃ x ∈ s.pwr.dieAt, x.1 = d ∧ x.2 + 100 ≤ s.now) → exec (.linkDieLost d) s =
      .next (({ s with pwr := { s.pwr with dieAt := s.pwr.dieAt.filter (fun x => x.1 != d) } }).emit 0x0207 3 0 d 0)) ∧
    ((∀ x ∈ s.pwr.dieAt, x.1 = d → s.now < x.2 + 100) → exec (.linkDieLost d) s = .next s))

/-! Start-up (chapter 17). -/

/-- Stages 1 to 5 (R456 to R461, Table 17-1): the fuses give CHIP its C1 and the vector-block map; ROM boot loads the key store;
discovery passes a usable device with a directory on; the first ACTIVE slot that passes runs; settings that pass come into force
and the part goes on to training or, after a reset that kept Crust, to stage 9. A stage that cannot go on halts the part. -/
def claimStartUpStages : Prop :=
  (∀ (s : State), s.crustUp = true → s.boot.boot = 1 →
    exec (.fuseReadComplete true) s = .next { s with
      boot := { s.boot with boot := 2 }, pwr := { s.pwr with chip := 1, chipGoal := 1 }, sec := { s.sec with vmap := s.sec.fuses.vmap } } ∧
    exec (.fuseReadComplete false) s = .next (s.halt 15 false)) ∧
  (∀ (s : State), s.stage 2 = true → s.sec.tampered = false →
    exec (.romBootComplete true) s = .next { s with
      boot := { s.boot with boot := 3 }, sec := { s.sec with keys := true, ident := Config.identityOf s.sec.fuses.secret } } ∧
    exec (.romBootComplete false) s = .next (s.halt 15 false)) ∧
  (∀ (s : State) (f0 f1 : Sfdp), s.stage 3 = true →
    let s1 := (s.setFlash 0 (fun f => { f with sfdp := some f0 })).setFlash 1 (fun f => { f with sfdp := some f1 })
    ((∀ d, d < 2 → (s1.flashAt d).bad ≠ none) → exec (.flashDiscovery f0 f1) s = .next (s1.halt 14 true)) ∧
    ((∃ d, d < 2 ∧ (s1.flashAt d).bad = none) → exec (.flashDiscovery f0 f1) s = .next { s1 with boot := { s1.boot with
      boot := 4, cand := [0, 1].filter (fun d => (s1.flashAt d).bad.isNone), fall := (s1.flashAt 0).bad } })) ∧
  (∀ (s : State), s.stage 4 = true →
    let good (d : Nat) : Bool := (s.flashAt d).fwOk (s.flashAt d).active s.sec.fuses.minSec
    (s.boot.cand.find? good = none → exec .firmwareVerify s = .next (s.halt 14 true)) ∧
    (∀ d, s.boot.cand.find? good = some d → ∃ t : State, exec .firmwareVerify s = .next t ∧
      t.boot = { s.boot with
        boot := 5, dev := some d, slot := (s.flashAt d).active, hdr := (s.flashAt d).read (slotOff (s.flashAt d).active) 256
        fall := none, heldEv := t.boot.heldEv } ∧ t.sec = s.sec ∧ t.fab = s.fab)) ∧
  (∀ (s : State), s.stage 5 = true →
    (s.boot.restart = true → exec .settingsVerify s = .next { s with boot := { s.boot with boot := 8 } }) ∧
    (s.boot.restart = false → ∃ t : State, exec .settingsVerify s = .next t ∧ t.boot.boot = (if s.boot.warm then 9 else 6) ∧
      t.boot.stageAt = s.now ∧ t.sec.fuses = s.sec.fuses ∧ t.sec.vmap = s.sec.fuses.vmap ||| fld (t.setBody 1) 0 18))

/-- Training (R463 to R468): a lane fault holds its link; a trainer that fails its equaliser step fails the attempt; one whose
neighbour's training slot is good and names the right neighbour leaves the link in its gate; each sends its training slots (R465); a
gate that passes at both ends brings the link up with its slots counted anew, keeps what it found, and one that fails is tried again
on the full path; a slot without a verdict does not end it (log entry 134); a stack's trainer zero-fills it, keeps its repairs and
makes it ACTIVE, or leaves it FAILED. -/
def claimTraining : Prop :=
  (∀ (s : State) (l : Nat) (t : Train), l < 64 → s.pwr.stopped = false → s.trains l = true →
    (∀ lane kind, t.fault = some (lane, kind) → exec (.linkTrainerStart l t) s = .next (((s.updLink l (fun k => { k with
      st := .laneHeld, gate := false, retrain := none })).emit 0x020A 5 l (l + 65536 * lane + 2 ^ 32 * kind) 0).bootStage)) ∧
    (t.fault = none → t.lanes = 0 → t.eqFail = true → exec (.linkTrainerStart l t) s = .next (s.trainFail l 0 0).bootStage) ∧
    (t.fault = none → t.eqFail = false → trainOk t.slot 5 = false → exec (.linkTrainerStart l t) s = .next s) ∧
    (t.fault = none → t.lanes = 0 → t.eqFail = false → trainOk t.slot 5 = true →
      let i := identAt t.slot 4
      let own := (match (s.link l).stored with | some x => x.2.2 == i | none => false) && !(s.fullGate (s.link l))
      let s1 := (s.wire l (.train l (s.trainBytes l 4 0))).updLink l (fun k => { k with
        st := .training, lanes := 0, delay := t.delay, ident := some i, gate := true, txPos := 0
        fast := own, short := own && bit (fld t.slot 1 1) 0, echo := fld t.slot 28 8 })
      let s2 := s1.wire l (.train l (s1.trainBytes l 5 (b2n own)))
      s2.identBad l i = 0 → exec (.linkTrainerStart l t) s = .next s2.bootStage)) ∧
  (∀ (s : State) (l corr unc : Nat) (slot : List Byte), l < 64 → s.pwr.stopped = false → s.dieUp (l / 32) = true →
    (s.link l).st = .training → (s.link l).gate = true → (s.link l).goal = .up → (s.link l).retrain = none →
    trainOk slot 6 = true →
    let won := bit (fld slot 1 1) 1
    let lost := bit (fld slot 1 1) 2
    let good := corr ≤ 10000 ∧ unc = 0
    let s0 := s.wire l (.train l (s.trainBytes l 6 (b2n (s.link l).fast + (if corr ≤ 10000 ∧ unc = 0 then 2 else 4))))
    (won = false → lost = false → exec (.linkGateVerdict l corr unc slot) s = .next s) ∧
    (good → won = true → lost = false → exec (.linkGateVerdict l corr unc slot) s = .next ((((s0.updLink l (fun k => { k with
      gate := false, tries := 0, full := false, retrain := none
      stored := k.ident.map (fun i => (k.lanes, k.delay, i)) })).recount l).linkUp l).bootStage)) ∧
    ((lost = true ∨ (won = true ∧ ¬ good)) → exec (.linkGateVerdict l corr unc slot) s =
      .next (s0.trainFail l corr unc).bootStage)) ∧
  (∀ (s : State) (n repairs : Nat), n < 12 → s.crustUp = true → (s.boot.boot = 6 ∨ s.boot.boot = 7) →
    (s.stack n).st = .untrained →
    exec (.memoryTrainingComplete n (.trained repairs)) s = .next (({ s with
      stks := updAt s.stks n (fun k => { k.wipe with st := .active, scrubAt := 0, repairs := repairs }) }).bootStage) ∧
    (∀ k, 1 ≤ k → k ≤ 6 → exec (.memoryTrainingComplete n (.failed k)) s =
      .next (((s.updStack n (fun x => { x with st := .failed })).emit 0x0104 4 n k 0).bootStage)))

/-- READY (R458, R469): where it may be set and nothing is left over from a reset or a life-cycle change, Thallus serves from stage
8 on; it may be set once every stack has its verdict and every link has one or 3.5 s have passed. BLOCK_FETCH (R470): a block
whose image in memory matches the manifest is loaded with it, and one whose digest does not is left IDLE and logged. BLOCK_TEST
(R471) logs the blocks that fail. -/
def claimReadyFetchTest : Prop :=
  (∀ (s : State), s.coreUp = true → s.boot.halted = false → s.pwr.clkOff = false → s.mayReady = true →
    s.sec.lastLc = s.sec.fuses.lc → s.boot.resetOf = none → exec .ready s = .next { s with boot := { s.boot with
      boot := 8, ready := true, warm := false, resetOf := none, mbxAbort := 0 } }) ∧
  (∀ (s : State), s.mayReady = false → exec .ready s = .next s) ∧
  (∀ (s : State), (s.boot.boot = 6 ∨ s.boot.boot = 7) → s.mayReady = true →
    (∀ k ∈ s.stks, k.st ≠ .untrained) ∧
    ((∀ k ∈ s.fab.links, k.verdict = true) ∨ s.boot.stageAt + 350000000 ≤ s.now)) ∧
  (∀ (s : State) (n : Nat), n < 144 → s.boot.boot = 9 → s.boot.fetched.contains n = false → s.fetches n = true → s.coreUp = true →
    let e := s.manifest n
    let sp := fld e 0 1
    let len := fld e 4 4
    let a := fld e 8 8
    (s.region (n / 36)).st ≠ .off → extentOk sp 0 a len = true → s.gateAt sp 0 a len = .ok →
    (s.readAt n sp 0 a len).any Prod.snd = false →
    let bs := (s.readAt n sp 0 a len).map Prod.fst
    let s2 := ({ s with boot := { s.boot with fetched := s.boot.fetched ++ [n] } }).touchAt n clsLC sp 0 a len
    (Config.sm3 bs = fld e 16 32 → imageStatus bs = 0 → exec (.blockFetch n) s = .next (s2.loadBlocks [n] bs (fld e 16 32))) ∧
    (Config.sm3 bs ≠ fld e 16 32 → exec (.blockFetch n) s =
      .next ((({ s2 with freeN := s2.freeN + 1 }).updBlock n (fun b => b.badFetch s2.freeN)).emit 0x0106 1 n 2 0))) ∧
  (∀ (s : State) (fails : List (Nat × Nat)), (∀ x ∈ fails, x.1 < 144) → (s.boot.boot = 6 ∨ s.boot.boot = 7) → s.testSet = true →
    s.boot.fetched.contains 144 = false → s.coreUp = true → exec (.blockTest fails) s =
      .next (fails.foldl (fun t x => t.emit 0x0107 1 x.1 x.2 0)
        { s with boot := { s.boot with fetched := s.boot.fetched ++ [144] } }))

/-! Tamper, debug, sideband, SMBus (chapters 19 and 20). -/

/-- TAMPER_EVENT (R517, R518): the key store is emptied, Thallus stops and wipes, and the event is forwarded; a tamper pin that the
security settings do not enable does nothing. -/
def claimTamper : Prop :=
  ∀ (s : State) (sensor : Nat), sensor < 5 → s.crustUp = true →
    let s1 := { s with sec := { s.sec with keys := false, ident := 0, tamperDue := true, tampered := true } }
    ((sensor < 3 ∨ s.secBit (sensor + 3) = true) → exec (.tamperEvent sensor) s =
      .next ((if s.thallusUp then s1.tamperAct else s1).emit 0x0B01 3 0 sensor 0)) ∧
    (3 ≤ sensor → s.secBit (sensor + 3) = false → exec (.tamperEvent sensor) s = .next s)

/-- Debug ports (R513, R538): in the field life-cycle state both are locked: a host debug read answers zeros and JTAG zeros, but
for IDCODE and BYPASS, and the refusal is logged once a second; an access to a secure partition that is on is refused and reported,
locked or not (R154); otherwise host debug reads and writes a block's scratchpad and, at the model's place
for them above it, its control registers, of which ARR_CTL alone can be written (log entry 113). What JTAG's other
instructions give is a free value (log entry 41). -/
def claimDebugPorts : Prop :=
  (∀ (s : State) (n : Nat) (wr : Bool) (off len : Nat) (data : List Byte), n < 144 → s.coreUp = true → s.pwr.clkOff = false →
    off < 2 ^ 21 → off + (if wr then data.length else len) ≤ 2 ^ 21 →
    let a := n * 2 ^ 21 + off
    let size := if wr then data.length else len
    let sd := (if s.locked then s.debugDenied 1 else s).emit 0x17 8 0 a 0
    (s.deniedAt 1 a size = true → wr = false → exec (.hostDebugAccess n wr off len data) s =
      .next (sd.debugOut (List.replicate len 0))) ∧
    (s.deniedAt 1 a size = true → wr = true → exec (.hostDebugAccess n wr off len data) s = .next sd) ∧
    (s.deniedAt 1 a size = false → s.locked = true → wr = false → exec (.hostDebugAccess n wr off len data) s =
      .next ((s.debugDenied 1).debugOut (List.replicate len 0))) ∧
    (s.deniedAt 1 a size = false → s.locked = true → wr = true → exec (.hostDebugAccess n wr off len data) s = .next (s.debugDenied 1)) ∧
    (s.locked = false → wr = true → s.gateAt 1 0 a data.length = .ok → s.deniedAt 1 a data.length = false →
      exec (.hostDebugAccess n wr off len data) s = .next (s.writeAt 0 1 0 a (cleanBytes data))) ∧
    (s.locked = false → wr = false → s.gateAt 1 0 a len = .ok → s.deniedAt 1 a len = false →
      exec (.hostDebugAccess n wr off len data) s =
        .next ((s.touchAt 0 clsBulk 1 0 a len).debugOut ((s.readAt 0 1 0 a len).map Prod.fst)))) ∧
  (∀ (s : State) (n : Nat) (d : List Byte), n < 144 → s.coreUp = true → s.pwr.clkOff = false → s.locked = false →
    s.regionGate (n / 36) = .ok →
    (exec (.hostDebugAccess n false (2 ^ 21) 8 d) s = .next (s.debugOut (toLE 8 (s.block n).statusWord))) ∧
    (∀ q < 8, exec (.hostDebugAccess n false (2 ^ 21 + 0x140 + 8 * q) 8 d) s =
      .next (s.debugOut (toLE 8 (((s.block n).qs.getD q Queue.zero).statWord)))) ∧
    (∀ k < 64, exec (.hostDebugAccess n false (2 ^ 21 + 0x200 + 4 * k) 4 d) s =
      .next (s.debugOut (toLE 4 ((s.block n).toks.getD k 0)))) ∧
    (d.length = 4 → exec (.hostDebugAccess n true (2 ^ 21 + 0x40) 0 d) s =
      .next (s.putBlock n { (s.block n).flushPack with arrCtl := ofLE d &&& 0xFFC1 })) ∧
    (∀ off, 2 ^ 21 ≤ off → off + d.length ≤ 2 ^ 21 + 0x1000 →
      off + d.length ≤ 2 ^ 21 + 0x40 ∨ 2 ^ 21 + 0x44 ≤ off → exec (.hostDebugAccess n true off 0 d) s = .next s)) ∧
  (∀ (s : State) (ir v : Nat), s.pwr.good = true →
    (exec (.jtagAccess 0 v) s = .next { s with out := s.out ++ [.jtag 0x10641A6F] }) ∧
    (exec (.jtagAccess 1 v) s = .next { s with out := s.out ++ [.jtag (2 * v)] }) ∧
    (2 ≤ ir → s.locked = true → exec (.jtagAccess ir v) s =
      .next { s.debugDenied 0 with out := (s.debugDenied 0).out ++ [.jtag 0] }) ∧
    (2 ≤ ir → s.locked = false → exec (.jtagAccess ir v) s =
      .next { s with freeN := s.freeN + 1, out := s.out ++ [.jtag (Config.free s.freeN)] })) ∧
  (∀ (s : State) (port : Nat), (∃ x ∈ s.sec.dbgAt, s.now < x.2 + 100000000) → s.debugDenied port = s)

/-- Cables (R495, R539): a cable that comes starts the training of its port's links from stage 6 on; one that goes puts them in OFF
and drops what they held; a shorted pin is logged once, and a shorted SB0 is not listened to. -/
def claimCables : Prop :=
  ∀ (s : State) (p : Nat), p < 16 →
    (s.sb0Bad p = false → exec (.cablePresent p) s = .next (s.updPort p (fun k =>
      k.plug (decide (s.boot.boot ≥ 6) && decide (s.boot.boot < 14) && s.dieUp (4 * p / 32))))) ∧
    (∀ k : Link, (k.plug false).st = k.st ∧ (k.plug false).cable = true ∧
      (k.st = .off → (k.plug true).st = .training ∧ (k.plug true).full = true)) ∧
    (s.sb0Bad p = false → exec (.cableRemoved p) s = .next (((s.freeSlots ([0, 1, 2, 3].flatMap
        (fun i => (s.link (4 * p + i)).tx.map TxP.p))).updPort p (fun k => { k with
      cable := false, st := .off, goal := .up, tx := [], sample := none, gate := false, tries := 0, retrain := none })).dirCheck)) ∧
    (s.sb0Bad p = true → exec (.cablePresent p) s = .next s ∧ exec (.cableRemoved p) s = .next s) ∧
    (∀ pin, pin < 4 → s.crustUp = true →
      ((s.link (4 * p)).sbBad.contains pin = true → exec (.sidebandShort p pin) s = .next s) ∧
      ((s.link (4 * p)).sbBad.contains pin = false → exec (.sidebandShort p pin) s = .next ((s.updPort p (fun k => { k with
        sbBad := k.sbBad ++ [pin] })).emit 0x020C 5 (4 * p) (p + 65536 * pin) 0)))

/-- The SMBus port (R536, R537, Table 20-9): a block read of a register answers its length and bytes, and the PEC byte (its
CRC is log entry 135's); a write, or a code not listed,
is not acknowledged; the alert response address is answered while the alert stands; a timeout drops the transaction. -/
def claimSmbus : Prop :=
  ∀ (s : State), s.crustUp = true →
    (∀ code bs, (code, bs) ∈ [(1, toLE 4 s.crustStatus), (2, toLE 8 s.host.summary),
        (3, toLE 2 (unsigned 16 (hottest (s.pwr.coreT ++ s.pwr.dieT)).2)), (4, toLE 4 s.host.hbCount), (6, toLE 16 s.sec.fuses.serial)] →
      exec (.smbusCommand code false) s = .next { s with
        smb := some bs, out := s.out ++ [Out.smbus (some (toLE 1 bs.length ++ bs ++ [s.smbPec code bs]))] }) ∧
    (∃ bs, exec (.smbusCommand 5 false) s = .next { s with
      freeN := s.freeN + 1, smb := some bs, out := s.out ++ [Out.smbus (some (toLE 1 4 ++ bs ++ [s.smbPec 5 bs]))] } ∧ bs.length = 4) ∧
    (∀ code, code = 0 ∨ 6 < code → exec (.smbusCommand code false) s = .next s.smbNack) ∧
    (∀ code, exec (.smbusCommand code true) s = .next s.smbNack) ∧
    (s.smbAlert = true → exec .smbusAlertResponse s = .next { s with
      smb := none, out := s.out ++ [Out.smbus (some (toLE 1 (0x58 + s.pwr.smbAddr)))] }) ∧
    (s.smbAlert = false → exec .smbusAlertResponse s = .next s.smbNack) ∧
    (exec .smbusTimeout s = .next { s with smb := none })

/-! Rules of the spec stated whole. -/

/-- R199: a word whose stored parity does not match is never issued: at decode it stops the block with code 2 (IMEM_PARITY), naming
its stream and program counter, before any effect; the word stays. Every word that a load writes carries its parity. -/
def Obligations.ParityErrorStopsBeforeIssue : Prop :=
  (∀ (s : State) (n : Nat) (q : Seq),
    n < 144 → s.canIssue n = true → (s.block n).ended q = false → ((s.block n).seqr q).word = none →
    ((s.block n).iword q ((s.block n).seqr q).pc).ok = false →
    ∃ t : State, exec (.instructionDecode n q) s = .next t ∧ (t.block n).st = .faulted ∧ (t.block n).fault = 2 ∧
      (∃ d, (t.block n).lastFault = some (2, 0, d) ∧ d % 4096 = ((s.block n).seqr q).pc % 4096 ∧ d / 16384 % 4 = srcOf q) ∧
      ((t.block n).seqr q).word = none ∧ (t.block n).imA = (s.block n).imA ∧ (t.block n).imX = (s.block n).imX ∧
      (t.block n).spad = (s.block n).spad ∧ (t.block n).acc = (s.block n).acc ∧ (t.block n).descs = (s.block n).descs ∧
      (t.block n).toks = (s.block n).toks ∧ (t.block n).qs = (s.block n).qs ∧ (∀ m, m ≠ n → t.block m = s.block m)) ∧
  (∀ (s : State) (n : Nat) (q : Seq), ((s.block n).seqr q).word ≠ none → n < 144 → exec (.instructionDecode n q) s = .next s) ∧
  (∀ (bs : List Byte) (off k : Nat), ∀ w ∈ imageWords bs off k, w.ok = true)

/-- R168: CTX.MARK writes its 16-bit immediate into the marker of its context, and nothing else changes but that the instruction has
issued; PRG_STATUS returns both markers. -/
def Obligations.CtxMarkWritesItsMarker : Prop :=
  (∀ (s : State) (n : Nat) (c : Ctx) (w : Nat), s.ready n (seqOf c) w → opOf (seqOf c) w = .ctxMark →
    ∃ b1, exec (.ctxMark n c) s = .next (s.issued n b1) ∧
      b1.markF = (if c = .f then bits w 33 16 else (s.block n).markF) ∧
      b1.markB = (if c = .b then bits w 33 16 else (s.block n).markB) ∧
      b1 = { (s.block n).adv (seqOf c) with markF := b1.markF, markB := b1.markB }) ∧
  (∀ (s : State) (m : Nat) (c : Cmd), s.waitsRow m 0x0406 c → fld c.pars 0 2 < 144 → s.darkBlock (fld c.pars 0 2) = false →
    ∃ res, exec (.prgStatus m) s = .next ((s.began m).ok m res) ∧
      fld res 8 2 = (s.block (fld c.pars 0 2)).markF % 65536 ∧ fld res 10 2 = (s.block (fld c.pars 0 2)).markB % 65536)

/-- R390: a write to EVT_TAIL is accepted only from the current TAIL forward to EVT_HEAD, and any other is dropped and counted; an
event that arrives while the log is full is not entered, EVT_OVF adds 1 and LOG_OVF is set beside the event's own bits; EVSEQ
advances for every event. -/
def Obligations.EventLogLimits : Prop :=
  (∀ (s : State) (v : Nat), s.crustUp = true →
    ((v % 1024 + 1024 - s.host.tail) % 1024 ≤ (s.host.head + 1024 - s.host.tail) % 1024 →
      exec (.evtTailWrite v) s = .next { s with host := { s.host with tail := v % 1024 } }) ∧
    ((s.host.head + 1024 - s.host.tail) % 1024 < (v % 1024 + 1024 - s.host.tail) % 1024 →
      exec (.evtTailWrite v) s = .next { s with host := { s.host with late := min cntMax (s.host.late + 1) } })) ∧
  (∀ (s : State) (e : Ev), (s.host.head + 1) % 1024 = s.host.tail →
    (s.logEvent e).host.ring = s.host.ring ∧ (s.logEvent e).host.head = s.host.head ∧
    (s.logEvent e).host.ovf = min cntMax (s.host.ovf + 1) ∧ bit (s.logEvent e).host.summary 8 = true ∧
    (s.logEvent e).host.summary = s.host.summary ||| (summaryOf e + 256)) ∧
  (∀ (s : State) (e : Ev), (s.logEvent e).host.evseq = s.host.evseq + 1)

/-- R395: HEARTBEAT_AGE is 0 at a write of HOST_HB and adds 1 at each 50,000 CRUST_CLK cycles, a millisecond; once it is above the
threshold, HOST_SILENT is forwarded once, of class INFO, and its bit of FAULT_SUMMARY is set when it is entered; a threshold of 0,
the value at reset, disables this; and nothing else happens. -/
def Obligations.HostSilence : Prop :=
  (∀ (s : State) (v : Nat), s.crustUp = true → exec (.hostHbWrite v) s = .next { s with host := { s.host with
    hostHb := v % 2 ^ 32, hbAge := 0, hbPart := 0, silentDone := false } }) ∧
  (∀ (s : State), s.pending = [] → s.crustUp = true → ∃ t : State, step s = .next t ∧
    (s.host.hbPart + 1 < 50000 → t.host.hbAge = s.host.hbAge ∧ t.host.hbPart = s.host.hbPart + 1) ∧
    (50000 ≤ s.host.hbPart + 1 → t.host.hbAge = min 0xFFFFFFFF (s.host.hbAge + 1) ∧ t.host.hbPart = 0)) ∧
  (∀ (s : State), s.thallusUp = true → s.host.silent ≠ 0 → s.host.silent < s.host.hbAge → s.host.silentDone = false →
    s.boot.restart = false → s.boot.halted = false →
    exec .hostSilent s = .next { s with
      host := { s.host with silentDone := true }
      events := s.events ++ [⟨0x0603, 8, 0, s.host.hbAge, 0, s.now⟩] }) ∧
  (∀ (s : State), (s.host.silent = 0 ∨ s.host.hbAge ≤ s.host.silent ∨ s.host.silentDone = true) →
    exec .hostSilent s = .next s) ∧
  (∀ (s : State) (e : Ev), e.code = 0x0603 → classOf e.code e.level = 0 ∧ bit (s.logEvent e).host.summary 9 = true) ∧
  State.reset.host.silent = 0

/-! The statements that gather the claims above. -/

/-- On an empty queue a step advances STC by its increment and HEARTBEAT_AGE's part by one cycle where Crust runs, and leaves the state where it does not. That an empty queue ticks is the model's choice, log entry 1. -/
def Obligations.EmptyQueueTicks : Prop :=
  claimEmptyQueueTicks

/-- State.reset holds every unit of the part idle, off or untrained, the step counter at 0 in FREE, Crust's registers at their table values, an empty queue, and every store in canonical form. -/
def Obligations.ResetValues : Prop :=
  claimResetValues ∧ claimResetStoresWf

/-- Every command that names a unit the part has not, or bytes outside it, stops with noSuchUnit; every other command answers a next state in every state. -/
def Obligations.CommandsStopExactlyOutsideThePart : Prop :=
  claimIllFormedCommandsStop ∧ claimWellFormedCommandsComplete

/-- Where a block may not issue (issue paused, its clock off, not RUNNING, or stopping), the instructions of its compute sequences, CTX.MARK and DESC.SET change nothing. -/
def Obligations.NothingIssuesWhilePaused : Prop :=
  claimNothingIssuesWhilePaused

/-- From every state that holds the part's units, a step to a next state holds them still, and its queue is the queue without its front command. -/
def Obligations.StepKeepsShapeAndQueue : Prop :=
  claimStepKeepsShapeAndQueue

/-- No step of any state changes the fused serial number, device secret or vector-block map. -/
def Obligations.StepKeepsFusedIdentity : Prop :=
  claimStepKeepsFusedIdentity

/-- A loop is entered, skipped or refused by depth; a wait takes its count once the token holds it; a signal adds at once or stands fenced, and an overflow stops the block; a message adds at its destination. -/
def Obligations.LoopsAndTokens : Prop :=
  claimLoopEntersSkipsOrFaults ∧
  claimTokWaitTakesOrWaits ∧
  claimTokSigAddsOrStandsFenced ∧
  claimTokenMessageArrives

/-- Each form of DESC.SET writes its one field, address, loop count or immediate and nothing else; a write of VER releases and requests pins. -/
def Obligations.MarksAndDescriptorWrites : Prop :=
  claimMarksAndDescSetWriteOneRegister ∧ claimDescSetVersionRequestsAPin

/-- Each elementwise VOP on operands that resolve gives, element by element, its operation rounded once to the lane format; a masked-off lane is zeroed or keeps its destination. -/
def Obligations.ElementwiseVops : Prop :=
  claimElementwiseVopResult ∧ claimMaskedVopKeepsOrZeroes

/-- Each row reduction gives one value a row, the reduction in lane groups rounded once, poisoned where a lane taking part is. -/
def Obligations.RowReductions : Prop :=
  claimRowReductionResult

/-- The mask register takes 16 bytes; rows are added to a tile of their family; lanes are seeded or elements converted. -/
def Obligations.MasksAccumulateConvert : Prop :=
  claimMaskSetReadsSixteenBytes ∧ claimVopAccAddsRowsToTheTile ∧ claimCvtSeedsOrConverts

/-- The results and statistics of a normalised row; and a soft-maximum row with every element excluded gives zeros and statistics of minus infinity. -/
def Obligations.RowResults : Prop :=
  claimNormalisedRows ∧ claimSoftMaxOfExcludedRowIsZero

/-- A slot reads what was put in it and no other changes; ROW.SM.MRG, ROW.GET, ROW.ST and ROW.LD complete as described. -/
def Obligations.SideMemory : Prop :=
  claimSlotReadsWhatWasPut ∧ claimMergeKeepsStatisticsAndWritesWeights ∧ claimSlotCopiesIssue

/-- Each array mode issues on operands that match and leaves its slabs, packed rows or passes outstanding. -/
def Obligations.MatrixMultiplies : Prop :=
  claimStationaryMatrixMultiplyIssues ∧ claimStreamedMatrixMultiplyIssues

/-- A load of the shadow set starts, the sets exchange, a spill waits for its tile, a resume opens one. -/
def Obligations.SetsSpillsAndResumes : Prop :=
  claimBuildAndSwapStationarySets ∧ claimSpillAndResumeIssue

/-- A push reserves and fills an entry, a pop drops or copies the head, a commit completes its job. -/
def Obligations.QueuesPushPopCommit : Prop :=
  claimQueuePushAndPop ∧ claimEntryCommitCompletesItsJob

/-- Shadow loads, hold times, verdicts, spills, drains and stream passes change their own block. -/
def Obligations.ArrayEvents : Prop :=
  claimArrayEventsChangeTheirBlock ∧ claimStreamPassRunsNextTile

/-- A completion writes STATUS and the token, or stops the block on overflow; an error or a hang stops the block. -/
def Obligations.CompletionsAndErrors : Prop :=
  claimCompletionWritesStatusAndToken ∧ claimErrorsAndHangsStopTheBlock

/-- Where operands resolve and agree the access is in flight and starts. -/
def Obligations.AccessInstructionsIssue : Prop :=
  claimLoadAndStoreIssue ∧ claimGatherAndScatterIssue

/-- An access is refused, denied, waits or runs by its targets; a delivery writes its runs and every byte outside them in a local destination reads as before. -/
def Obligations.AccessesRun : Prop :=
  claimAccessStartsWaitsOrFails ∧ claimCopyWritesItsRuns

/-- Completion, the closing contribution, and the deadline. -/
def Obligations.CollectivesEnd : Prop :=
  claimCollectiveCompletes ∧ claimClosingContributesTheStep ∧ claimCollectiveDeadlineAbandons

/-- A transfer is delivered or discarded by sequence and check; the scrubber corrects or poisons one word; the wipe zeroes the secure partition. -/
def Obligations.MeshScrubAndWipe : Prop :=
  claimTransferDeliveredOrDiscarded ∧ claimScrubAndWipe

/-- A write lands and reads back, a byte outside is unchanged, an access waits during a move and aborts in OFF or RETAIN. -/
def Obligations.RegionStores : Prop :=
  claimRegionStoreReadsAndWrites ∧ claimRegionStoreWriteThenByte

/-- A start message applies the header where the region is ARMED or RUN; clocks ramp in order and gate when idle. -/
def Obligations.StartingABlock : Prop :=
  claimStartMessageStartsTheBlock ∧ claimStartAppliesTheHeader ∧ claimClocksRampAndGate

/-- Requests are answered by the binding; grants, refusals and releases take effect in the block. -/
def Obligations.Pins : Prop :=
  claimPinRequestIsAnswered ∧ claimPinGrantRefusalRelease

/-- Writes go through the buffer and the engine, requests queue in their class, a scatter row is applied. -/
def Obligations.StackWritesRequestsRows : Prop :=
  claimStackWritesAreAccepted ∧ claimStackRequestQueues ∧ claimScatterRowIsApplied

/-- Line timeouts, promotions, switches, refresh, temperature, scrub, self refresh and wake. -/
def Obligations.StackControllers : Prop :=
  claimStackControllersWork ∧ claimSelfRefreshEntryAndWake

/-- A trigger queues or is ignored, the first trigger that may run is served, a pass that ends publishes its version. -/
def Obligations.TriggersAndPasses : Prop :=
  claimTriggerQueuesOrIsIgnored ∧ claimPassStartServesTheFirstTrigger ∧ claimPassEndPublishes

/-- A step closes once its triggers have ended; the loss scale follows the flag; rollback and deadlines as described. -/
def Obligations.StepsScaleRollbackDeadlines : Prop :=
  claimStepClosesOnceTriggersEnd ∧ claimLossScaleFollowsTheFlag ∧ claimRollbackAndUpdateDeadlines

/-- Packets are sent, forwarded, dropped, numbered and committed in order. -/
def Obligations.LinksCarryPackets : Prop :=
  claimLinkSlotSendsTheChosenPacket ∧
  claimIngressForwardsOrDrops ∧
  claimControlSlotsKeepTheLink ∧
  claimInjectionNumbersAndKeeps ∧
  claimReceptionCommitsInOrder

/-- Copies are kept until acknowledged and sent again on timeout; answers and errors reach their job. -/
def Obligations.AcknowledgeAndAnswers : Prop :=
  claimAcknowledgeOrResend ∧ claimAnswersReachTheirJob

/-- Synchronisation rounds, seeding, relayed records and slice stops. -/
def Obligations.TimeAndRecords : Prop :=
  claimStepCounterSynchronises ∧ claimRecordsAndSliceStop

/-- The oldest event is entered with its number, record, summary bits and stop, and leaves the rest of the part; gaps end; corrections are summed. -/
def Obligations.EventsAreLogged : Prop :=
  claimEventIsEntered ∧ claimEntryOfAnEvent ∧ claimGapEnds ∧ claimCorrectionsAreSummed

/-- Host writes land or are counted; a handoff begins with its checks in order; a command ends with results, status and vector; a deadline marks or stops it. -/
def Obligations.MailboxesAndCommands : Prop :=
  claimMailboxWrites ∧ claimHandoffBegins ∧ claimCommandEnds

/-- Writes to Crust's registers, reads of STC_NOW, BAR2 accesses, FLR and the heartbeat. Which periods count is log entry 32's, the model's choice. -/
def Obligations.HostInterface : Prop :=
  claimHostRegisters ∧ claimReadsWindowAndFlr ∧ claimHeartbeat

/-- DEV and PWR commands answer or set the states they name on their way, and end when these are reached. -/
def Obligations.DeviceAndPowerCommands : Prop :=
  claimDeviceCommands ∧ claimPowerCommands ∧ claimPowerCommandsEnd

/-- MEM_MAP_WINDOW, MEM_SCRUB_SET, MEM_WIPE, MEM_FILL, MEM_COPY and MEM_READ_BACK. -/
def Obligations.MemoryCommands : Prop :=
  claimWindowScrubWipe ∧ claimFillCopyReadBack

/-- PRG_LOAD, PRG_START, PRG_STOP, PRG_STATUS and DESC_WRITE, and what a load writes. -/
def Obligations.ProgramCommands : Prop :=
  claimProgramCommands ∧ claimLoadWritesTheImage

/-- Sessions open, segments go out, missing ones are fetched, and the image is loaded; messages are relayed, answered and refused. -/
def Obligations.Sporecast : Prop :=
  claimCastCommands ∧ claimCastMessages

/-- FAB, STC and DEADLINE_POLICY commands. -/
def Obligations.FabricAndTimeCommands : Prop :=
  claimFabricCommands ∧ claimTimeCommands

/-- SUE_LOAD_RULE, SUE_BIND_LAYER with and without UNBIND, SUE_VERSION_STATE, SUE_SCALE_MODE, SUE_ROLLBACK and SUE_STATS_READ. -/
def Obligations.UpdateCommands : Prop :=
  claimUpdateCommands

/-- TEL_COUNTERS, TEL_SENSORS, TEL_CLEAR, FLT_READ, FLT_CLEAR, FLT_INJECT and BLK_GRADE_DOWN. -/
def Obligations.TelemetryAndFaultCommands : Prop :=
  claimTelemetryCommands ∧ claimFaultCommands

/-- SEC, FW and SET commands, what a life-cycle wipe leaves, and lockstep restarts. -/
def Obligations.SecurityFirmwareAndRestart : Prop :=
  claimSecurityCommands ∧ claimLifeCycleWipe ∧ claimFirmwareAndSettings ∧ claimThallusRestarts

/-- Moves of the chip, regions and links end when their time has come, one state at a time, the chip down only over regions at rest. -/
def Obligations.PowerSteps : Prop :=
  claimTransitionsComplete ∧ claimNextPowerStep

/-- What each reset leaves and what its end starts. -/
def Obligations.Resets : Prop :=
  claimCoreDieReset ∧ claimPackageReset

/-- Warnings pause issue and recovery resumes it; heat warns and trips; clocks that stop stop what they clock. -/
def Obligations.SuppliesHeatAndClocks : Prop :=
  claimSupplies ∧ claimTemperature ∧ claimClockLoss

/-- Stages 1 to 9, trainers, READY, block fetch and block test. -/
def Obligations.StartUp : Prop :=
  claimStartUpStages ∧ claimTraining ∧ claimReadyFetchTest

/-- Tamper empties the key store; debug ports are locked in the field and otherwise reach a block's scratchpad and control registers (their place is log entry 113's, the model's choice); cables train or drop links; SMBus answers its registers. What JTAG's other instructions give is log entry 41's, the model's choice. -/
def Obligations.TamperDebugAndPins : Prop :=
  claimTamper ∧ claimDebugPorts ∧ claimCables ∧ claimSmbus
end

