-- ==== Sys2Proof/Laws/Issue.lean ====
section
/-! SUPPORT. What an issue comes to: the three answers of an instruction's meaning, at a word that the block may issue. -/

namespace Sys2Proof.Machine

/-- The instruction issues. -/
theorem State.issue_go {s : State} {n : Nat} {q : Seq} {w : Nat} {isW : Nat → Bool} {f : Block → Nat → Iss Block}
    {b1 : Block} (h : s.ready n q w) (hw : isW w = true) (hf : f (s.block n) w = .go b1) :
    s.issue n q isW f = s.issued n b1 := by
  obtain ⟨_, h2, h3, h4⟩ := h
  simp [State.issue, h2, h3, h4, hw, hf, State.issued]

/-- The instruction faults before any effect but the count of the side-store words that it read (R142). -/
theorem State.issue_fault {s : State} {n : Nat} {q : Seq} {w : Nat} {isW : Nat → Bool} {f : Block → Nat → Iss Block}
    {e : ErrI} (h : s.ready n q w) (hw : isW w = true) (hf : f (s.block n) w = .fault e) :
    s.issue n q isW f = (if e.reads.isEmpty then s else s.putBlock n ((s.block n).touchSlots e.reads)).blockFault n (srcOf q)
      ((s.block n).seqr q).pc e := by
  obtain ⟨_, h2, h3, h4⟩ := h
  simp only [State.issue, h2, h3, h4, hw, hf]
  rfl

/-- The instruction waits. -/
theorem State.issue_hold {s : State} {n : Nat} {q : Seq} {w : Nat} {isW : Nat → Bool} {f : Block → Nat → Iss Block}
    (h : s.ready n q w) (hw : isW w = true) (hf : f (s.block n) w = .hold) : s.issue n q isW f = s := by
  obtain ⟨_, h2, h3, h4⟩ := h
  simp [State.issue, h2, h3, h4, hw, hf]

/-- Nothing issues where the block may not issue. -/
theorem State.issue_off {s : State} {n : Nat} (q : Seq) (isW : Nat → Bool) (f : Block → Nat → Iss Block)
    (h : s.canIssue n = false) : s.issue n q isW f = s := by
  unfold State.issue State.mayIssue
  simp only [h, Bool.false_and, Bool.false_eq_true, if_false]
  split <;> rfl

/-- A block that may issue is one the part has. -/
theorem State.canIssue_range {s : State} {n : Nat} (h : s.canIssue n = true) : n < s.blocks.length := by
  by_contra hn
  have hb : s.block n = Block.reset := by unfold State.block; rw [List.getD_eq_default]; omega
  have hs : Block.reset.st = .idle := rfl
  simp [State.canIssue, hb, hs] at h

/-- A block with work in flight stays as it is when the end of its run is looked for (R166). -/
theorem State.checkDone_busy (s : State) (n : Nat) (h : (s.block n).jobs ≠ []) (hc : (s.block n).clearing = false) :
    s.checkDone n = s := by
  unfold State.checkDone
  simp [Block.quiet, h, hc]

end Sys2Proof.Machine
end

