-- ==== Sys2Proof/Laws/Mem.lean ====
section
/-! SUPPORT. Laws of stores: every operation keeps the canonical form, a read after a write gives what was written, and a
write leaves every other place alone. -/

namespace Sys2Proof.Machine

/-- `rising` says that keys rise strictly from each entry to every later one. -/
theorem rising_iff {α : Type} (l : List (Nat × α)) :
    rising l = true ↔ l.Pairwise (fun a b => a.1 < b.1) := by
  induction l with
  | nil => simp [rising]
  | cons a l ih =>
    cases l with
    | nil => simp [rising]
    | cons b l =>
      have e : rising (a :: b :: l) = (decide (a.1 < b.1) && rising (b :: l)) := rfl
      rw [e, Bool.and_eq_true, ih, decide_eq_true_eq, List.pairwise_cons (a := a)]
      constructor
      · intro hh
        refine ⟨?_, hh.2⟩
        intro x hx
        rcases List.mem_cons.1 hx with hx | hx
        · rw [hx]; exact hh.1
        · exact Nat.lt_trans hh.1 ((List.pairwise_cons.1 hh.2).1 x hx)
      · intro hh
        exact ⟨hh.1 b (List.mem_cons_self ..), hh.2⟩

/-- The replaced range of a rising list, the new keys inside it, keeps it rising. -/
theorem rising_splice {α : Type} (l new : List (Nat × α)) (lo hi : Nat) (hl : rising l = true) (hn : rising new = true)
    (hr : ∀ c ∈ new, lo ≤ c.1 ∧ c.1 < hi) (hle : lo ≤ hi) : rising (splice l lo hi new) = true := by
  rw [rising_iff] at *
  unfold splice
  rw [List.pairwise_append, List.pairwise_append]
  refine ⟨⟨hl.filter _, hn, ?_⟩, hl.filter _, ?_⟩
  · intro a ha b hb
    have h1 := (List.mem_filter.1 ha).2
    have h2 := hr b hb
    simp at h1
    omega
  · intro a ha b hb
    have h3 := (List.mem_filter.1 hb).2
    simp at h3
    rcases List.mem_append.1 ha with ha | ha
    · have h1 := (List.mem_filter.1 ha).2
      simp at h1
      omega
    · have h2 := hr a ha
      omega

theorem all_splice {α : Type} (p : Nat × α → Bool) (l new : List (Nat × α)) (lo hi : Nat) (hl : l.all p = true)
    (hn : new.all p = true) : (splice l lo hi new).all p = true := by
  rw [List.all_eq_true] at *
  intro x hx
  unfold splice at hx
  rcases List.mem_append.1 hx with hx | hx
  · rcases List.mem_append.1 hx with hx | hx
    · exact hl x (List.mem_filter.1 hx).1
    · exact hn x hx
  · exact hl x (List.mem_filter.1 hx).1

theorem cellsOf_range (bs : List Byte) (off : Nat) : ∀ c ∈ cellsOf off bs, off ≤ c.1 ∧ c.1 < off + bs.length := by
  induction bs generalizing off with
  | nil => simp [cellsOf]
  | cons b bs ih =>
    intro c hc
    unfold cellsOf at hc
    split at hc
    · have := ih (off + 1) c hc
      simp; omega
    · rcases List.mem_cons.1 hc with rfl | hc
      · simp
      · have := ih (off + 1) c hc
        simp; omega

theorem cellsOf_rising (bs : List Byte) (off : Nat) : rising (cellsOf off bs) = true := by
  rw [rising_iff]
  induction bs generalizing off with
  | nil => simp [cellsOf]
  | cons b bs ih =>
    unfold cellsOf
    split
    · exact ih (off + 1)
    · rw [List.pairwise_cons]
      refine ⟨?_, ih (off + 1)⟩
      intro c hc
      have := cellsOf_range bs (off + 1) c hc
      simp; omega

theorem cellsOf_nonzero (bs : List Byte) (off : Nat) : (cellsOf off bs).all (fun c => c.2 != 0) = true := by
  induction bs generalizing off with
  | nil => simp [cellsOf]
  | cons b bs ih =>
    unfold cellsOf
    split
    · exact ih (off + 1)
    · rename_i h
      simp only [List.all_cons, Bool.and_eq_true]
      exact ⟨by simpa using h, ih (off + 1)⟩

theorem Mem.wf_iff (m : Mem) : m.wf = true ↔ rising m.cells = true ∧ m.cells.all (fun c => c.2 != 0) = true
    ∧ rising m.errs = true ∧ m.errs.all (fun c => c.2 != 0) = true := by
  unfold Mem.wf
  simp only [Bool.and_eq_true, and_assoc]

@[simp] theorem Mem.empty_wf : Mem.empty.wf = true := by decide

theorem Mem.put_wf (m : Mem) (off : Nat) (bs : List Byte) (h : m.wf = true) : (m.put off bs).wf = true := by
  rw [Mem.wf_iff] at *
  obtain ⟨h1, h2, h3, h4⟩ := h
  exact ⟨rising_splice _ _ _ _ h1 (cellsOf_rising bs off) (cellsOf_range bs off) (by omega),
    all_splice _ _ _ _ _ h2 (cellsOf_nonzero bs off), h3, h4⟩

theorem Mem.setDelta_wf (m : Mem) (w d : Nat) (h : m.wf = true) : (m.setDelta w d).wf = true := by
  rw [Mem.wf_iff] at *
  obtain ⟨h1, h2, h3, h4⟩ := h
  refine ⟨h1, h2, rising_splice _ _ _ _ h3 ?_ ?_ (by omega), all_splice _ _ _ _ _ h4 ?_⟩
  · split <;> simp [rising]
  · split <;> simp
  · split <;> simp_all

theorem Mem.poison_wf (m : Mem) (w : Nat) (h : m.wf = true) : (m.poison w).wf = true := m.setDelta_wf w _ h

theorem Mem.fix_wf (m : Mem) (w : Nat) (h : m.wf = true) : (m.fix w).wf = true :=
  Mem.setDelta_wf _ _ _ (Mem.put_wf _ _ _ h)

theorem Mem.touchPartial_wf (m : Mem) (w : Nat) (h : m.wf = true) : (m.touchPartial w).wf = true := by
  unfold Mem.touchPartial
  split
  · exact h
  · exact m.fix_wf w h
  · exact m.setDelta_wf w _ h

/-- A fold of operations that each keep the form keeps it. -/
theorem Mem.foldl_wf {α : Type} (f : Mem → α → Mem) (hf : ∀ m a, m.wf = true → (f m a).wf = true) (l : List α) (m : Mem)
    (h : m.wf = true) : (l.foldl f m).wf = true := by
  induction l generalizing m with
  | nil => exact h
  | cons a l ih => exact ih _ (hf m a h)

theorem Mem.write_wf (m : Mem) (off : Nat) (bs : List Byte) (h : m.wf = true) : (m.write off bs).wf = true := by
  unfold Mem.write
  apply Mem.put_wf
  apply Mem.foldl_wf _ _ _ _ h
  intro m a h
  split
  · exact m.setDelta_wf _ _ h
  · exact m.touchPartial_wf _ h

theorem Mem.writeP_wf (m : Mem) (off : Nat) (bs : List Byte) (bad : Bool) (h : m.wf = true) :
    (m.writeP off bs bad).wf = true := by
  unfold Mem.writeP
  have h1 := m.write_wf off bs h
  split
  · exact Mem.foldl_wf _ (fun m a => m.poison_wf a) _ _ h1
  · exact h1

theorem Mem.zero_wf (m : Mem) (off len : Nat) (h : m.wf = true) : (m.zero off len).wf = true := by
  unfold Mem.zero
  have h1 : ((m.listedIn off len).foldl (fun mm w =>
      if off ≤ 32 * w && 32 * w + 32 ≤ off + len then mm.setDelta w 0 else mm.touchPartial w) m).wf = true := by
    apply Mem.foldl_wf _ _ _ _ h
    intro m a h
    split
    · exact m.setDelta_wf _ _ h
    · exact m.touchPartial_wf _ h
  rw [Mem.wf_iff] at *
  obtain ⟨a, b, c, d⟩ := h1
  exact ⟨rising_splice _ _ _ _ a (by simp [rising]) (by simp) (by omega), all_splice _ _ _ _ _ b (by simp), c, d⟩

theorem Mem.flip_wf (m : Mem) (w k e : Nat) (h : m.wf = true) : (m.flip w k e).wf = true := by
  unfold Mem.flip
  split
  · exact Mem.setDelta_wf _ _ _ (Mem.put_wf _ _ _ h)
  · exact m.setDelta_wf _ _ h

theorem Mem.hit_wf (m : Mem) (w : Nat) (two : Bool) (v : Nat) (h : m.wf = true) : (m.hit w two v).wf = true := by
  unfold Mem.hit
  simp only []
  split
  · exact Mem.flip_wf _ _ _ _ (Mem.flip_wf _ _ _ _ h)
  · exact Mem.flip_wf _ _ _ _ h

theorem Mem.damage_wf (m : Mem) (k size : Nat) (h : m.wf = true) : (m.damage k size).wf = true :=
  Mem.foldl_wf _ (fun m _ h => m.flip_wf _ _ _ h) _ _ h

theorem lostMem_wf (k size : Nat) : (lostMem k size).wf = true := by
  unfold lostMem
  apply Mem.foldl_wf _ (fun m e h => m.setDelta_wf _ _ h)
  exact Mem.foldl_wf _ (fun m c h => m.put_wf _ _ h) _ _ Mem.empty_wf

/-! Reads after writes. -/

/-- The value of a key in a keyed list. -/
theorem find_splice_out {α : Type} (l new : List (Nat × α)) (lo hi a : Nat) (hr : ∀ c ∈ new, lo ≤ c.1 ∧ c.1 < hi)
    (hle : lo ≤ hi) (ha : a < lo ∨ hi ≤ a) :
    (splice l lo hi new).find? (fun c => c.1 == a) = l.find? (fun c => c.1 == a) := by
  have hnew : new.find? (fun c => c.1 == a) = none := by
    rw [List.find?_eq_none]
    intro c hc
    have := hr c hc
    simp; omega
  unfold splice
  rw [List.find?_append, List.find?_append, hnew, Option.or_none, List.find?_filter, List.find?_filter]
  rcases ha with h | h
  · have e1 : (fun c : Nat × α => decide (decide (c.1 < lo) = true ∧ (c.1 == a) = true)) = (fun c => c.1 == a) := by
      funext c
      by_cases hc : c.1 = a
      · simp [hc, h]
      · simp [hc]
    have e2 : (fun c : Nat × α => decide (decide (hi ≤ c.1) = true ∧ (c.1 == a) = true)) = (fun _ => false) := by
      funext c
      by_cases hc : c.1 = a
      · have : ¬ hi ≤ a := by omega
        simp [hc, this]
      · simp [hc]
    rw [show l.find? (fun c => decide (decide (hi ≤ c.1) = true ∧ (c.1 == a) = true)) = none by rw [e2]; simp,
      show l.find? (fun c => decide (decide (c.1 < lo) = true ∧ (c.1 == a) = true)) = l.find? (fun c => c.1 == a) by rw [e1], Option.or_none]
  · have e1 : (fun c : Nat × α => decide (decide (hi ≤ c.1) = true ∧ (c.1 == a) = true)) = (fun c => c.1 == a) := by
      funext c
      by_cases hc : c.1 = a
      · simp [hc, h]
      · simp [hc]
    have e2 : (fun c : Nat × α => decide (decide (c.1 < lo) = true ∧ (c.1 == a) = true)) = (fun _ => false) := by
      funext c
      by_cases hc : c.1 = a
      · have : ¬ a < lo := by omega
        simp [hc, this]
      · simp [hc]
    rw [show l.find? (fun c => decide (decide (c.1 < lo) = true ∧ (c.1 == a) = true)) = none by rw [e2]; simp,
      show l.find? (fun c => decide (decide (hi ≤ c.1) = true ∧ (c.1 == a) = true)) = l.find? (fun c => c.1 == a) by rw [e1], Option.none_or]

/-- The byte that a string laid at `off` puts at `a`. -/
theorem find_cellsOf (bs : List Byte) (off i : Nat) (hi : i < bs.length) :
    ((cellsOf off bs).find? (fun c => c.1 == off + i)) = if bs[i] = 0 then none else some (off + i, bs[i]) := by
  induction bs generalizing off i with
  | nil => simp at hi
  | cons b bs ih =>
    have e : cellsOf off (b :: bs) = if b = 0 then cellsOf (off + 1) bs else (off, b) :: cellsOf (off + 1) bs := rfl
    rw [e]
    cases i with
    | zero =>
      have hnone : (cellsOf (off + 1) bs).find? (fun c => c.1 == off + 0) = none := by
        rw [List.find?_eq_none]
        intro c hc
        have := cellsOf_range bs (off + 1) c hc
        simp; omega
      rw [List.getElem_cons_zero]
      split
      · exact hnone
      · rw [List.find?_cons]; simp
    | succ i =>
      have hi' : i < bs.length := by simpa using hi
      have h := ih (off + 1) i hi'
      rw [show off + 1 + i = off + (i + 1) by omega] at h
      rw [List.getElem_cons_succ]
      split
      · exact h
      · rw [List.find?_cons]
        have hne : (off == off + (i + 1)) = false := by simp
        simp only [hne]
        exact h

/-- A byte put down is the byte read there. -/
theorem Mem.get_put_in (m : Mem) (off i : Nat) (bs : List Byte) (hi : i < bs.length) :
    (m.put off bs).get (off + i) = bs[i] := by
  have hlow : (m.cells.filter (fun c => decide (c.1 < off))).find? (fun c => c.1 == off + i) = none := by
    rw [List.find?_eq_none]
    intro c hc
    have := (List.mem_filter.1 hc).2
    simp at this
    simp; omega
  have hhigh : (m.cells.filter (fun c => decide (off + bs.length ≤ c.1))).find? (fun c => c.1 == off + i) = none := by
    rw [List.find?_eq_none]
    intro c hc
    have := (List.mem_filter.1 hc).2
    simp at this
    simp; omega
  unfold Mem.put Mem.get splice
  simp only [List.find?_append, hlow, hhigh, find_cellsOf bs off i hi, Option.none_or, Option.or_none]
  split
  · rename_i h
    split at h
    · cases h
    · cases h; rfl
  · rename_i h
    split at h
    · rename_i hz; exact hz.symm
    · cases h

/-- Bytes outside what is put down stay. -/
theorem Mem.get_put_out (m : Mem) (off a : Nat) (bs : List Byte) (ha : a < off ∨ off + bs.length ≤ a) :
    (m.put off bs).get a = m.get a := by
  unfold Mem.put Mem.get
  simp only [find_splice_out m.cells (cellsOf off bs) off (off + bs.length) a (cellsOf_range bs off) (by omega) ha]

@[simp] theorem Mem.get_setDelta (m : Mem) (w d a : Nat) : (m.setDelta w d).get a = m.get a := rfl
@[simp] theorem Mem.delta_put (m : Mem) (off w : Nat) (bs : List Byte) : (m.put off bs).delta w = m.delta w := rfl

theorem Mem.delta_setDelta_self (m : Mem) (w d : Nat) : (m.setDelta w d).delta w = d := by
  have hlow : (m.errs.filter (fun c => decide (c.1 < w))).find? (fun c => c.1 == w) = none := by
    rw [List.find?_eq_none]
    intro c hc
    have := (List.mem_filter.1 hc).2
    simp at this
    simp; omega
  have hhigh : (m.errs.filter (fun c => decide (w + 1 ≤ c.1))).find? (fun c => c.1 == w) = none := by
    rw [List.find?_eq_none]
    intro c hc
    have := (List.mem_filter.1 hc).2
    simp at this
    simp; omega
  unfold Mem.setDelta Mem.delta splice
  by_cases hd : d = 0
  · subst hd; simp only [if_pos, List.append_nil, List.find?_append, hlow, hhigh, Option.none_or]
  · simp [List.find?_append, hlow, hd]

theorem Mem.delta_setDelta_other (m : Mem) (w v d : Nat) (h : v ≠ w) : (m.setDelta w d).delta v = m.delta v := by
  unfold Mem.setDelta Mem.delta
  rw [find_splice_out]
  · split <;> simp
  · omega
  · omega

end Sys2Proof.Machine
end

