-- ==== Sys2Proof/Laws/State.lean ====
section
/-! SUPPORT. What each update of State leaves as it was, one lemma per field, and what it reads back. -/

namespace Sys2Proof.Machine

@[simp] theorem length_updAt {α : Type} (l : List α) (i : Nat) (f : α → α) : (updAt l i f).length = l.length := by
  induction l generalizing i with
  | nil => rfl
  | cons a l ih => cases i with
    | zero => rfl
    | succ i => simp [updAt, ih]

@[simp] theorem length_mapNum {α β : Type} (f : Nat → α → β) (n : Nat) (l : List α) : (mapNum f n l).length = l.length := by
  induction l generalizing n with
  | nil => rfl
  | cons a l ih => simp [mapNum, ih]

theorem getD_updAt_self {α : Type} (l : List α) (i : Nat) (f : α → α) (d : α) (h : i < l.length) :
    (updAt l i f).getD i d = f (l.getD i d) := by
  induction l generalizing i with
  | nil => simp at h
  | cons a l ih => cases i with
    | zero => rfl
    | succ i => simpa [updAt] using ih i (by simpa using h)

theorem getD_updAt_other {α : Type} (l : List α) (i j : Nat) (f : α → α) (d : α) (h : j ≠ i) :
    (updAt l i f).getD j d = l.getD j d := by
  induction l generalizing i j with
  | nil => rfl
  | cons a l ih => cases i with
    | zero => cases j with
      | zero => exact absurd rfl h
      | succ j => rfl
    | succ i => cases j with
      | zero => rfl
      | succ j => simpa [updAt] using ih i j (by omega)

@[simp] theorem State.updBlock_regions (s : State) (n : Nat) (f : Block → Block) : (s.updBlock n f).regions = s.regions := rfl
@[simp] theorem State.updBlock_stks (s : State) (n : Nat) (f : Block → Block) : (s.updBlock n f).stks = s.stks := rfl
@[simp] theorem State.updBlock_time (s : State) (n : Nat) (f : Block → Block) : (s.updBlock n f).time = s.time := rfl
@[simp] theorem State.updBlock_host (s : State) (n : Nat) (f : Block → Block) : (s.updBlock n f).host = s.host := rfl
@[simp] theorem State.updBlock_pwr (s : State) (n : Nat) (f : Block → Block) : (s.updBlock n f).pwr = s.pwr := rfl
@[simp] theorem State.updBlock_boot (s : State) (n : Nat) (f : Block → Block) : (s.updBlock n f).boot = s.boot := rfl
@[simp] theorem State.updBlock_sec (s : State) (n : Nat) (f : Block → Block) : (s.updBlock n f).sec = s.sec := rfl
@[simp] theorem State.updBlock_fab (s : State) (n : Nat) (f : Block → Block) : (s.updBlock n f).fab = s.fab := rfl
@[simp] theorem State.updBlock_events (s : State) (n : Nat) (f : Block → Block) : (s.updBlock n f).events = s.events := rfl
@[simp] theorem State.updBlock_latest (s : State) (n : Nat) (f : Block → Block) : (s.updBlock n f).latest = s.latest := rfl
@[simp] theorem State.updBlock_tokMsgs (s : State) (n : Nat) (f : Block → Block) : (s.updBlock n f).tokMsgs = s.tokMsgs := rfl
@[simp] theorem State.updBlock_noc (s : State) (n : Nat) (f : Block → Block) : (s.updBlock n f).noc = s.noc := rfl
@[simp] theorem State.updBlock_nocFail (s : State) (n : Nat) (f : Block → Block) : (s.updBlock n f).nocFail = s.nocFail := rfl
@[simp] theorem State.updBlock_starts (s : State) (n : Nat) (f : Block → Block) : (s.updBlock n f).starts = s.starts := rfl
@[simp] theorem State.updBlock_smb (s : State) (n : Nat) (f : Block → Block) : (s.updBlock n f).smb = s.smb := rfl
@[simp] theorem State.updBlock_out (s : State) (n : Nat) (f : Block → Block) : (s.updBlock n f).out = s.out := rfl
@[simp] theorem State.updBlock_freeN (s : State) (n : Nat) (f : Block → Block) : (s.updBlock n f).freeN = s.freeN := rfl
@[simp] theorem State.updBlock_pending (s : State) (n : Nat) (f : Block → Block) : (s.updBlock n f).pending = s.pending := rfl

@[simp] theorem State.updStack_blocks (s : State) (n : Nat) (f : Stack → Stack) : (s.updStack n f).blocks = s.blocks := rfl
@[simp] theorem State.updStack_regions (s : State) (n : Nat) (f : Stack → Stack) : (s.updStack n f).regions = s.regions := rfl
@[simp] theorem State.updStack_time (s : State) (n : Nat) (f : Stack → Stack) : (s.updStack n f).time = s.time := rfl
@[simp] theorem State.updStack_host (s : State) (n : Nat) (f : Stack → Stack) : (s.updStack n f).host = s.host := rfl
@[simp] theorem State.updStack_pwr (s : State) (n : Nat) (f : Stack → Stack) : (s.updStack n f).pwr = s.pwr := rfl
@[simp] theorem State.updStack_boot (s : State) (n : Nat) (f : Stack → Stack) : (s.updStack n f).boot = s.boot := rfl
@[simp] theorem State.updStack_sec (s : State) (n : Nat) (f : Stack → Stack) : (s.updStack n f).sec = s.sec := rfl
@[simp] theorem State.updStack_fab (s : State) (n : Nat) (f : Stack → Stack) : (s.updStack n f).fab = s.fab := rfl
@[simp] theorem State.updStack_events (s : State) (n : Nat) (f : Stack → Stack) : (s.updStack n f).events = s.events := rfl
@[simp] theorem State.updStack_latest (s : State) (n : Nat) (f : Stack → Stack) : (s.updStack n f).latest = s.latest := rfl
@[simp] theorem State.updStack_tokMsgs (s : State) (n : Nat) (f : Stack → Stack) : (s.updStack n f).tokMsgs = s.tokMsgs := rfl
@[simp] theorem State.updStack_noc (s : State) (n : Nat) (f : Stack → Stack) : (s.updStack n f).noc = s.noc := rfl
@[simp] theorem State.updStack_nocFail (s : State) (n : Nat) (f : Stack → Stack) : (s.updStack n f).nocFail = s.nocFail := rfl
@[simp] theorem State.updStack_starts (s : State) (n : Nat) (f : Stack → Stack) : (s.updStack n f).starts = s.starts := rfl
@[simp] theorem State.updStack_smb (s : State) (n : Nat) (f : Stack → Stack) : (s.updStack n f).smb = s.smb := rfl
@[simp] theorem State.updStack_out (s : State) (n : Nat) (f : Stack → Stack) : (s.updStack n f).out = s.out := rfl
@[simp] theorem State.updStack_freeN (s : State) (n : Nat) (f : Stack → Stack) : (s.updStack n f).freeN = s.freeN := rfl
@[simp] theorem State.updStack_pending (s : State) (n : Nat) (f : Stack → Stack) : (s.updStack n f).pending = s.pending := rfl

@[simp] theorem State.updRegion_blocks (s : State) (n : Nat) (f : Region → Region) : (s.updRegion n f).blocks = s.blocks := rfl
@[simp] theorem State.updRegion_stks (s : State) (n : Nat) (f : Region → Region) : (s.updRegion n f).stks = s.stks := rfl
@[simp] theorem State.updRegion_time (s : State) (n : Nat) (f : Region → Region) : (s.updRegion n f).time = s.time := rfl
@[simp] theorem State.updRegion_host (s : State) (n : Nat) (f : Region → Region) : (s.updRegion n f).host = s.host := rfl
@[simp] theorem State.updRegion_pwr (s : State) (n : Nat) (f : Region → Region) : (s.updRegion n f).pwr = s.pwr := rfl
@[simp] theorem State.updRegion_boot (s : State) (n : Nat) (f : Region → Region) : (s.updRegion n f).boot = s.boot := rfl
@[simp] theorem State.updRegion_sec (s : State) (n : Nat) (f : Region → Region) : (s.updRegion n f).sec = s.sec := rfl
@[simp] theorem State.updRegion_fab (s : State) (n : Nat) (f : Region → Region) : (s.updRegion n f).fab = s.fab := rfl
@[simp] theorem State.updRegion_events (s : State) (n : Nat) (f : Region → Region) : (s.updRegion n f).events = s.events := rfl
@[simp] theorem State.updRegion_latest (s : State) (n : Nat) (f : Region → Region) : (s.updRegion n f).latest = s.latest := rfl
@[simp] theorem State.updRegion_tokMsgs (s : State) (n : Nat) (f : Region → Region) : (s.updRegion n f).tokMsgs = s.tokMsgs := rfl
@[simp] theorem State.updRegion_noc (s : State) (n : Nat) (f : Region → Region) : (s.updRegion n f).noc = s.noc := rfl
@[simp] theorem State.updRegion_nocFail (s : State) (n : Nat) (f : Region → Region) : (s.updRegion n f).nocFail = s.nocFail := rfl
@[simp] theorem State.updRegion_starts (s : State) (n : Nat) (f : Region → Region) : (s.updRegion n f).starts = s.starts := rfl
@[simp] theorem State.updRegion_smb (s : State) (n : Nat) (f : Region → Region) : (s.updRegion n f).smb = s.smb := rfl
@[simp] theorem State.updRegion_out (s : State) (n : Nat) (f : Region → Region) : (s.updRegion n f).out = s.out := rfl
@[simp] theorem State.updRegion_freeN (s : State) (n : Nat) (f : Region → Region) : (s.updRegion n f).freeN = s.freeN := rfl
@[simp] theorem State.updRegion_pending (s : State) (n : Nat) (f : Region → Region) : (s.updRegion n f).pending = s.pending := rfl

@[simp] theorem State.setFab_blocks (s : State) (f : FabS) : (s.setFab f).blocks = s.blocks := rfl
@[simp] theorem State.setFab_regions (s : State) (f : FabS) : (s.setFab f).regions = s.regions := rfl
@[simp] theorem State.setFab_stks (s : State) (f : FabS) : (s.setFab f).stks = s.stks := rfl
@[simp] theorem State.setFab_time (s : State) (f : FabS) : (s.setFab f).time = s.time := rfl
@[simp] theorem State.setFab_host (s : State) (f : FabS) : (s.setFab f).host = s.host := rfl
@[simp] theorem State.setFab_pwr (s : State) (f : FabS) : (s.setFab f).pwr = s.pwr := rfl
@[simp] theorem State.setFab_boot (s : State) (f : FabS) : (s.setFab f).boot = s.boot := rfl
@[simp] theorem State.setFab_sec (s : State) (f : FabS) : (s.setFab f).sec = s.sec := rfl
@[simp] theorem State.setFab_events (s : State) (f : FabS) : (s.setFab f).events = s.events := rfl
@[simp] theorem State.setFab_latest (s : State) (f : FabS) : (s.setFab f).latest = s.latest := rfl
@[simp] theorem State.setFab_tokMsgs (s : State) (f : FabS) : (s.setFab f).tokMsgs = s.tokMsgs := rfl
@[simp] theorem State.setFab_noc (s : State) (f : FabS) : (s.setFab f).noc = s.noc := rfl
@[simp] theorem State.setFab_nocFail (s : State) (f : FabS) : (s.setFab f).nocFail = s.nocFail := rfl
@[simp] theorem State.setFab_starts (s : State) (f : FabS) : (s.setFab f).starts = s.starts := rfl
@[simp] theorem State.setFab_smb (s : State) (f : FabS) : (s.setFab f).smb = s.smb := rfl
@[simp] theorem State.setFab_out (s : State) (f : FabS) : (s.setFab f).out = s.out := rfl
@[simp] theorem State.setFab_freeN (s : State) (f : FabS) : (s.setFab f).freeN = s.freeN := rfl
@[simp] theorem State.setFab_pending (s : State) (f : FabS) : (s.setFab f).pending = s.pending := rfl

@[simp] theorem State.updEndp_blocks (s : State) (n : Nat) (f : Endp → Endp) : (s.updEndp n f).blocks = s.blocks := rfl
@[simp] theorem State.updEndp_regions (s : State) (n : Nat) (f : Endp → Endp) : (s.updEndp n f).regions = s.regions := rfl
@[simp] theorem State.updEndp_stks (s : State) (n : Nat) (f : Endp → Endp) : (s.updEndp n f).stks = s.stks := rfl
@[simp] theorem State.updEndp_time (s : State) (n : Nat) (f : Endp → Endp) : (s.updEndp n f).time = s.time := rfl
@[simp] theorem State.updEndp_host (s : State) (n : Nat) (f : Endp → Endp) : (s.updEndp n f).host = s.host := rfl
@[simp] theorem State.updEndp_pwr (s : State) (n : Nat) (f : Endp → Endp) : (s.updEndp n f).pwr = s.pwr := rfl
@[simp] theorem State.updEndp_boot (s : State) (n : Nat) (f : Endp → Endp) : (s.updEndp n f).boot = s.boot := rfl
@[simp] theorem State.updEndp_sec (s : State) (n : Nat) (f : Endp → Endp) : (s.updEndp n f).sec = s.sec := rfl
@[simp] theorem State.updEndp_events (s : State) (n : Nat) (f : Endp → Endp) : (s.updEndp n f).events = s.events := rfl
@[simp] theorem State.updEndp_latest (s : State) (n : Nat) (f : Endp → Endp) : (s.updEndp n f).latest = s.latest := rfl
@[simp] theorem State.updEndp_tokMsgs (s : State) (n : Nat) (f : Endp → Endp) : (s.updEndp n f).tokMsgs = s.tokMsgs := rfl
@[simp] theorem State.updEndp_noc (s : State) (n : Nat) (f : Endp → Endp) : (s.updEndp n f).noc = s.noc := rfl
@[simp] theorem State.updEndp_nocFail (s : State) (n : Nat) (f : Endp → Endp) : (s.updEndp n f).nocFail = s.nocFail := rfl
@[simp] theorem State.updEndp_starts (s : State) (n : Nat) (f : Endp → Endp) : (s.updEndp n f).starts = s.starts := rfl
@[simp] theorem State.updEndp_smb (s : State) (n : Nat) (f : Endp → Endp) : (s.updEndp n f).smb = s.smb := rfl
@[simp] theorem State.updEndp_out (s : State) (n : Nat) (f : Endp → Endp) : (s.updEndp n f).out = s.out := rfl
@[simp] theorem State.updEndp_freeN (s : State) (n : Nat) (f : Endp → Endp) : (s.updEndp n f).freeN = s.freeN := rfl
@[simp] theorem State.updEndp_pending (s : State) (n : Nat) (f : Endp → Endp) : (s.updEndp n f).pending = s.pending := rfl
@[simp] theorem State.updEndp_fab_profile (s : State) (n : Nat) (f : Endp → Endp) : (s.updEndp n f).fab.profile = s.fab.profile := rfl
@[simp] theorem State.updEndp_fab_slice (s : State) (n : Nat) (f : Endp → Endp) : (s.updEndp n f).fab.slice = s.fab.slice := rfl
@[simp] theorem State.updEndp_fab_transit (s : State) (n : Nat) (f : Endp → Endp) : (s.updEndp n f).fab.transit = s.fab.transit := rfl
@[simp] theorem State.updEndp_fab_box (s : State) (n : Nat) (f : Endp → Endp) : (s.updEndp n f).fab.box = s.fab.box := rfl
@[simp] theorem State.updEndp_fab_over (s : State) (n : Nat) (f : Endp → Endp) : (s.updEndp n f).fab.overs = s.fab.overs := rfl
@[simp] theorem State.updEndp_fab_links (s : State) (n : Nat) (f : Endp → Endp) : (s.updEndp n f).fab.links = s.fab.links := rfl
@[simp] theorem State.updEndp_fab_acus (s : State) (n : Nat) (f : Endp → Endp) : (s.updEndp n f).fab.acus = s.fab.acus := rfl
@[simp] theorem State.updEndp_fab_ctrlq (s : State) (n : Nat) (f : Endp → Endp) : (s.updEndp n f).fab.ctrlq = s.fab.ctrlq := rfl
@[simp] theorem State.updEndp_fab_castq (s : State) (n : Nat) (f : Endp → Endp) : (s.updEndp n f).fab.castq = s.fab.castq := rfl
@[simp] theorem State.updEndp_fab_cast (s : State) (n : Nat) (f : Endp → Endp) : (s.updEndp n f).fab.cast = s.fab.cast := rfl
@[simp] theorem State.updEndp_fab_acks (s : State) (n : Nat) (f : Endp → Endp) : (s.updEndp n f).fab.acks = s.fab.acks := rfl
@[simp] theorem State.updEndp_fab_dirLost (s : State) (n : Nat) (f : Endp → Endp) : (s.updEndp n f).fab.dirLost = s.fab.dirLost := rfl
@[simp] theorem State.updEndp_fab_contrib (s : State) (n : Nat) (f : Endp → Endp) : (s.updEndp n f).fab.contrib = s.fab.contrib := rfl
@[simp] theorem State.updEndp_fab_stopQ (s : State) (n : Nat) (f : Endp → Endp) : (s.updEndp n f).fab.stopQ = s.fab.stopQ := rfl
@[simp] theorem State.updEndp_fab_lastStart (s : State) (n : Nat) (f : Endp → Endp) : (s.updEndp n f).fab.lastStart = s.fab.lastStart := rfl
@[simp] theorem State.updEndp_fab_stopOn (s : State) (n : Nat) (f : Endp → Endp) : (s.updEndp n f).fab.stopOn = s.fab.stopOn := rfl

@[simp] theorem State.updAcu_blocks (s : State) (n : Nat) (f : Acu → Acu) : (s.updAcu n f).blocks = s.blocks := rfl
@[simp] theorem State.updAcu_regions (s : State) (n : Nat) (f : Acu → Acu) : (s.updAcu n f).regions = s.regions := rfl
@[simp] theorem State.updAcu_stks (s : State) (n : Nat) (f : Acu → Acu) : (s.updAcu n f).stks = s.stks := rfl
@[simp] theorem State.updAcu_time (s : State) (n : Nat) (f : Acu → Acu) : (s.updAcu n f).time = s.time := rfl
@[simp] theorem State.updAcu_host (s : State) (n : Nat) (f : Acu → Acu) : (s.updAcu n f).host = s.host := rfl
@[simp] theorem State.updAcu_pwr (s : State) (n : Nat) (f : Acu → Acu) : (s.updAcu n f).pwr = s.pwr := rfl
@[simp] theorem State.updAcu_boot (s : State) (n : Nat) (f : Acu → Acu) : (s.updAcu n f).boot = s.boot := rfl
@[simp] theorem State.updAcu_sec (s : State) (n : Nat) (f : Acu → Acu) : (s.updAcu n f).sec = s.sec := rfl
@[simp] theorem State.updAcu_events (s : State) (n : Nat) (f : Acu → Acu) : (s.updAcu n f).events = s.events := rfl
@[simp] theorem State.updAcu_latest (s : State) (n : Nat) (f : Acu → Acu) : (s.updAcu n f).latest = s.latest := rfl
@[simp] theorem State.updAcu_tokMsgs (s : State) (n : Nat) (f : Acu → Acu) : (s.updAcu n f).tokMsgs = s.tokMsgs := rfl
@[simp] theorem State.updAcu_noc (s : State) (n : Nat) (f : Acu → Acu) : (s.updAcu n f).noc = s.noc := rfl
@[simp] theorem State.updAcu_nocFail (s : State) (n : Nat) (f : Acu → Acu) : (s.updAcu n f).nocFail = s.nocFail := rfl
@[simp] theorem State.updAcu_starts (s : State) (n : Nat) (f : Acu → Acu) : (s.updAcu n f).starts = s.starts := rfl
@[simp] theorem State.updAcu_smb (s : State) (n : Nat) (f : Acu → Acu) : (s.updAcu n f).smb = s.smb := rfl
@[simp] theorem State.updAcu_out (s : State) (n : Nat) (f : Acu → Acu) : (s.updAcu n f).out = s.out := rfl
@[simp] theorem State.updAcu_freeN (s : State) (n : Nat) (f : Acu → Acu) : (s.updAcu n f).freeN = s.freeN := rfl
@[simp] theorem State.updAcu_pending (s : State) (n : Nat) (f : Acu → Acu) : (s.updAcu n f).pending = s.pending := rfl
@[simp] theorem State.updAcu_fab_profile (s : State) (n : Nat) (f : Acu → Acu) : (s.updAcu n f).fab.profile = s.fab.profile := rfl
@[simp] theorem State.updAcu_fab_slice (s : State) (n : Nat) (f : Acu → Acu) : (s.updAcu n f).fab.slice = s.fab.slice := rfl
@[simp] theorem State.updAcu_fab_transit (s : State) (n : Nat) (f : Acu → Acu) : (s.updAcu n f).fab.transit = s.fab.transit := rfl
@[simp] theorem State.updAcu_fab_box (s : State) (n : Nat) (f : Acu → Acu) : (s.updAcu n f).fab.box = s.fab.box := rfl
@[simp] theorem State.updAcu_fab_over (s : State) (n : Nat) (f : Acu → Acu) : (s.updAcu n f).fab.overs = s.fab.overs := rfl
@[simp] theorem State.updAcu_fab_links (s : State) (n : Nat) (f : Acu → Acu) : (s.updAcu n f).fab.links = s.fab.links := rfl
@[simp] theorem State.updAcu_fab_endps (s : State) (n : Nat) (f : Acu → Acu) : (s.updAcu n f).fab.endps = s.fab.endps := rfl
@[simp] theorem State.updAcu_fab_ctrlq (s : State) (n : Nat) (f : Acu → Acu) : (s.updAcu n f).fab.ctrlq = s.fab.ctrlq := rfl
@[simp] theorem State.updAcu_fab_castq (s : State) (n : Nat) (f : Acu → Acu) : (s.updAcu n f).fab.castq = s.fab.castq := rfl
@[simp] theorem State.updAcu_fab_cast (s : State) (n : Nat) (f : Acu → Acu) : (s.updAcu n f).fab.cast = s.fab.cast := rfl
@[simp] theorem State.updAcu_fab_acks (s : State) (n : Nat) (f : Acu → Acu) : (s.updAcu n f).fab.acks = s.fab.acks := rfl
@[simp] theorem State.updAcu_fab_dirLost (s : State) (n : Nat) (f : Acu → Acu) : (s.updAcu n f).fab.dirLost = s.fab.dirLost := rfl
@[simp] theorem State.updAcu_fab_contrib (s : State) (n : Nat) (f : Acu → Acu) : (s.updAcu n f).fab.contrib = s.fab.contrib := rfl
@[simp] theorem State.updAcu_fab_stopQ (s : State) (n : Nat) (f : Acu → Acu) : (s.updAcu n f).fab.stopQ = s.fab.stopQ := rfl
@[simp] theorem State.updAcu_fab_lastStart (s : State) (n : Nat) (f : Acu → Acu) : (s.updAcu n f).fab.lastStart = s.fab.lastStart := rfl
@[simp] theorem State.updAcu_fab_stopOn (s : State) (n : Nat) (f : Acu → Acu) : (s.updAcu n f).fab.stopOn = s.fab.stopOn := rfl

@[simp] theorem State.updLink_blocks (s : State) (n : Nat) (f : Link → Link) : (s.updLink n f).blocks = s.blocks := rfl
@[simp] theorem State.updLink_regions (s : State) (n : Nat) (f : Link → Link) : (s.updLink n f).regions = s.regions := rfl
@[simp] theorem State.updLink_stks (s : State) (n : Nat) (f : Link → Link) : (s.updLink n f).stks = s.stks := rfl
@[simp] theorem State.updLink_time (s : State) (n : Nat) (f : Link → Link) : (s.updLink n f).time = s.time := rfl
@[simp] theorem State.updLink_host (s : State) (n : Nat) (f : Link → Link) : (s.updLink n f).host = s.host := rfl
@[simp] theorem State.updLink_pwr (s : State) (n : Nat) (f : Link → Link) : (s.updLink n f).pwr = s.pwr := rfl
@[simp] theorem State.updLink_boot (s : State) (n : Nat) (f : Link → Link) : (s.updLink n f).boot = s.boot := rfl
@[simp] theorem State.updLink_sec (s : State) (n : Nat) (f : Link → Link) : (s.updLink n f).sec = s.sec := rfl
@[simp] theorem State.updLink_events (s : State) (n : Nat) (f : Link → Link) : (s.updLink n f).events = s.events := rfl
@[simp] theorem State.updLink_latest (s : State) (n : Nat) (f : Link → Link) : (s.updLink n f).latest = s.latest := rfl
@[simp] theorem State.updLink_tokMsgs (s : State) (n : Nat) (f : Link → Link) : (s.updLink n f).tokMsgs = s.tokMsgs := rfl
@[simp] theorem State.updLink_noc (s : State) (n : Nat) (f : Link → Link) : (s.updLink n f).noc = s.noc := rfl
@[simp] theorem State.updLink_nocFail (s : State) (n : Nat) (f : Link → Link) : (s.updLink n f).nocFail = s.nocFail := rfl
@[simp] theorem State.updLink_starts (s : State) (n : Nat) (f : Link → Link) : (s.updLink n f).starts = s.starts := rfl
@[simp] theorem State.updLink_smb (s : State) (n : Nat) (f : Link → Link) : (s.updLink n f).smb = s.smb := rfl
@[simp] theorem State.updLink_out (s : State) (n : Nat) (f : Link → Link) : (s.updLink n f).out = s.out := rfl
@[simp] theorem State.updLink_freeN (s : State) (n : Nat) (f : Link → Link) : (s.updLink n f).freeN = s.freeN := rfl
@[simp] theorem State.updLink_pending (s : State) (n : Nat) (f : Link → Link) : (s.updLink n f).pending = s.pending := rfl
@[simp] theorem State.updLink_fab_profile (s : State) (n : Nat) (f : Link → Link) : (s.updLink n f).fab.profile = s.fab.profile := rfl
@[simp] theorem State.updLink_fab_slice (s : State) (n : Nat) (f : Link → Link) : (s.updLink n f).fab.slice = s.fab.slice := rfl
@[simp] theorem State.updLink_fab_transit (s : State) (n : Nat) (f : Link → Link) : (s.updLink n f).fab.transit = s.fab.transit := rfl
@[simp] theorem State.updLink_fab_box (s : State) (n : Nat) (f : Link → Link) : (s.updLink n f).fab.box = s.fab.box := rfl
@[simp] theorem State.updLink_fab_over (s : State) (n : Nat) (f : Link → Link) : (s.updLink n f).fab.overs = s.fab.overs := rfl
@[simp] theorem State.updLink_fab_endps (s : State) (n : Nat) (f : Link → Link) : (s.updLink n f).fab.endps = s.fab.endps := rfl
@[simp] theorem State.updLink_fab_acus (s : State) (n : Nat) (f : Link → Link) : (s.updLink n f).fab.acus = s.fab.acus := rfl
@[simp] theorem State.updLink_fab_ctrlq (s : State) (n : Nat) (f : Link → Link) : (s.updLink n f).fab.ctrlq = s.fab.ctrlq := rfl
@[simp] theorem State.updLink_fab_castq (s : State) (n : Nat) (f : Link → Link) : (s.updLink n f).fab.castq = s.fab.castq := rfl
@[simp] theorem State.updLink_fab_cast (s : State) (n : Nat) (f : Link → Link) : (s.updLink n f).fab.cast = s.fab.cast := rfl
@[simp] theorem State.updLink_fab_acks (s : State) (n : Nat) (f : Link → Link) : (s.updLink n f).fab.acks = s.fab.acks := rfl
@[simp] theorem State.updLink_fab_dirLost (s : State) (n : Nat) (f : Link → Link) : (s.updLink n f).fab.dirLost = s.fab.dirLost := rfl
@[simp] theorem State.updLink_fab_contrib (s : State) (n : Nat) (f : Link → Link) : (s.updLink n f).fab.contrib = s.fab.contrib := rfl
@[simp] theorem State.updLink_fab_stopQ (s : State) (n : Nat) (f : Link → Link) : (s.updLink n f).fab.stopQ = s.fab.stopQ := rfl
@[simp] theorem State.updLink_fab_lastStart (s : State) (n : Nat) (f : Link → Link) : (s.updLink n f).fab.lastStart = s.fab.lastStart := rfl
@[simp] theorem State.updLink_fab_stopOn (s : State) (n : Nat) (f : Link → Link) : (s.updLink n f).fab.stopOn = s.fab.stopOn := rfl

@[simp] theorem State.updCmd_blocks (s : State) (n : Nat) (f : Cmd → Cmd) : (s.updCmd n f).blocks = s.blocks := rfl
@[simp] theorem State.updCmd_regions (s : State) (n : Nat) (f : Cmd → Cmd) : (s.updCmd n f).regions = s.regions := rfl
@[simp] theorem State.updCmd_stks (s : State) (n : Nat) (f : Cmd → Cmd) : (s.updCmd n f).stks = s.stks := rfl
@[simp] theorem State.updCmd_time (s : State) (n : Nat) (f : Cmd → Cmd) : (s.updCmd n f).time = s.time := rfl
@[simp] theorem State.updCmd_pwr (s : State) (n : Nat) (f : Cmd → Cmd) : (s.updCmd n f).pwr = s.pwr := rfl
@[simp] theorem State.updCmd_boot (s : State) (n : Nat) (f : Cmd → Cmd) : (s.updCmd n f).boot = s.boot := rfl
@[simp] theorem State.updCmd_sec (s : State) (n : Nat) (f : Cmd → Cmd) : (s.updCmd n f).sec = s.sec := rfl
@[simp] theorem State.updCmd_fab (s : State) (n : Nat) (f : Cmd → Cmd) : (s.updCmd n f).fab = s.fab := rfl
@[simp] theorem State.updCmd_events (s : State) (n : Nat) (f : Cmd → Cmd) : (s.updCmd n f).events = s.events := rfl
@[simp] theorem State.updCmd_latest (s : State) (n : Nat) (f : Cmd → Cmd) : (s.updCmd n f).latest = s.latest := rfl
@[simp] theorem State.updCmd_tokMsgs (s : State) (n : Nat) (f : Cmd → Cmd) : (s.updCmd n f).tokMsgs = s.tokMsgs := rfl
@[simp] theorem State.updCmd_noc (s : State) (n : Nat) (f : Cmd → Cmd) : (s.updCmd n f).noc = s.noc := rfl
@[simp] theorem State.updCmd_nocFail (s : State) (n : Nat) (f : Cmd → Cmd) : (s.updCmd n f).nocFail = s.nocFail := rfl
@[simp] theorem State.updCmd_starts (s : State) (n : Nat) (f : Cmd → Cmd) : (s.updCmd n f).starts = s.starts := rfl
@[simp] theorem State.updCmd_smb (s : State) (n : Nat) (f : Cmd → Cmd) : (s.updCmd n f).smb = s.smb := rfl
@[simp] theorem State.updCmd_out (s : State) (n : Nat) (f : Cmd → Cmd) : (s.updCmd n f).out = s.out := rfl
@[simp] theorem State.updCmd_freeN (s : State) (n : Nat) (f : Cmd → Cmd) : (s.updCmd n f).freeN = s.freeN := rfl
@[simp] theorem State.updCmd_pending (s : State) (n : Nat) (f : Cmd → Cmd) : (s.updCmd n f).pending = s.pending := rfl

theorem State.block_updBlock_self (s : State) (n : Nat) (f : Block → Block) (h : n < s.blocks.length) :
    (s.updBlock n f).block n = f (s.block n) := getD_updAt_self _ _ _ _ h
theorem State.block_updBlock_other (s : State) (n m : Nat) (f : Block → Block) (h : m ≠ n) :
    (s.updBlock n f).block m = s.block m := getD_updAt_other _ _ _ _ _ h
theorem State.stack_updStack_self (s : State) (n : Nat) (f : Stack → Stack) (h : n < s.stks.length) :
    (s.updStack n f).stack n = f (s.stack n) := getD_updAt_self _ _ _ _ h
theorem State.stack_updStack_other (s : State) (n m : Nat) (f : Stack → Stack) (h : m ≠ n) :
    (s.updStack n f).stack m = s.stack m := getD_updAt_other _ _ _ _ _ h
theorem State.region_updRegion_self (s : State) (n : Nat) (f : Region → Region) (h : n < s.regions.length) :
    (s.updRegion n f).region n = f (s.region n) := getD_updAt_self _ _ _ _ h
theorem State.region_updRegion_other (s : State) (n m : Nat) (f : Region → Region) (h : m ≠ n) :
    (s.updRegion n f).region m = s.region m := getD_updAt_other _ _ _ _ _ h
theorem State.link_updLink_self (s : State) (n : Nat) (f : Link → Link) (h : n < s.fab.links.length) :
    (s.updLink n f).link n = f (s.link n) := getD_updAt_self _ _ _ _ h
theorem State.link_updLink_other (s : State) (n m : Nat) (f : Link → Link) (h : m ≠ n) :
    (s.updLink n f).link m = s.link m := getD_updAt_other _ _ _ _ _ h

/-- An event forwarded changes the queue of events only, or, while Thallus restarts, what Crust holds and counts (R485). -/
theorem State.emit_frame (s : State) (code level unit info detail : Nat) :
    s.emit code level unit info detail =
      { s with
        events := (s.emit code level unit info detail).events, boot := (s.emit code level unit info detail).boot
        host := (s.emit code level unit info detail).host } := by
  unfold State.emit
  dsimp only
  split
  · split <;> rfl
  · rfl

@[simp] theorem State.emit_blocks (s : State) (code level unit info detail : Nat) :
    (s.emit code level unit info detail).blocks = s.blocks := by rw [s.emit_frame]
@[simp] theorem State.emit_regions (s : State) (code level unit info detail : Nat) :
    (s.emit code level unit info detail).regions = s.regions := by rw [s.emit_frame]
@[simp] theorem State.emit_stks (s : State) (code level unit info detail : Nat) :
    (s.emit code level unit info detail).stks = s.stks := by rw [s.emit_frame]
@[simp] theorem State.emit_time (s : State) (code level unit info detail : Nat) :
    (s.emit code level unit info detail).time = s.time := by rw [s.emit_frame]
@[simp] theorem State.emit_pwr (s : State) (code level unit info detail : Nat) :
    (s.emit code level unit info detail).pwr = s.pwr := by rw [s.emit_frame]
@[simp] theorem State.emit_sec (s : State) (code level unit info detail : Nat) :
    (s.emit code level unit info detail).sec = s.sec := by rw [s.emit_frame]
@[simp] theorem State.emit_fab (s : State) (code level unit info detail : Nat) :
    (s.emit code level unit info detail).fab = s.fab := by rw [s.emit_frame]
@[simp] theorem State.emit_latest (s : State) (code level unit info detail : Nat) :
    (s.emit code level unit info detail).latest = s.latest := by rw [s.emit_frame]
@[simp] theorem State.emit_tokMsgs (s : State) (code level unit info detail : Nat) :
    (s.emit code level unit info detail).tokMsgs = s.tokMsgs := by rw [s.emit_frame]
@[simp] theorem State.emit_noc (s : State) (code level unit info detail : Nat) :
    (s.emit code level unit info detail).noc = s.noc := by rw [s.emit_frame]
@[simp] theorem State.emit_nocFail (s : State) (code level unit info detail : Nat) :
    (s.emit code level unit info detail).nocFail = s.nocFail := by rw [s.emit_frame]
@[simp] theorem State.emit_starts (s : State) (code level unit info detail : Nat) :
    (s.emit code level unit info detail).starts = s.starts := by rw [s.emit_frame]
@[simp] theorem State.emit_smb (s : State) (code level unit info detail : Nat) :
    (s.emit code level unit info detail).smb = s.smb := by rw [s.emit_frame]
@[simp] theorem State.emit_out (s : State) (code level unit info detail : Nat) :
    (s.emit code level unit info detail).out = s.out := by rw [s.emit_frame]
@[simp] theorem State.emit_freeN (s : State) (code level unit info detail : Nat) :
    (s.emit code level unit info detail).freeN = s.freeN := by rw [s.emit_frame]
@[simp] theorem State.emit_pending (s : State) (code level unit info detail : Nat) :
    (s.emit code level unit info detail).pending = s.pending := by rw [s.emit_frame]

/-- While Thallus neither restarts nor is halted, an event goes to the end of the queue (R478). -/
theorem State.emit_plain (s : State) (code level unit info detail : Nat) (h : (s.boot.restart || s.boot.halted) = false) :
    s.emit code level unit info detail = { s with events := s.events ++ [⟨code, level, unit, info, detail, s.now⟩] } := by
  unfold State.emit
  simp [h]


end Sys2Proof.Machine
end

