-- ==== Sys2Proof/Tests/Slice0.lean ====
section
/-! SUPPORT. Tests: ill-formed commands are refused, the spec's worked examples, a few single steps, and for the hypotheses of
every statement concrete states and operands that meet them together. A hypothesis about a free function (a digest, a
signature check) stands as a hypothesis of its witness. -/

open Sys2Proof Sys2Proof.Machine

namespace Sys2Proof.Tests

set_option Elab.async false
set_option linter.unusedVariables false

/-! Helpers: small states. -/

/-- A part that runs: READY in C3, every region RUN, every stack ACTIVE. -/
def on : State :=
  { State.reset with
    pwr := { State.reset.pwr with good := true, resetN := true, crust := true, chip := 3, chipGoal := 3, dieOn := [true, true] }
    boot := { State.reset.boot with boot := 8, ready := true }
    regions := State.reset.regions.map (fun g => { g with st := .run, goal := .run })
    stks := State.reset.stks.map (fun k => { k with st := .active }) }

/-- Block 0 of such a part runs a program of 64 words in each sequence. -/
def blk (f : Block → Block) : State :=
  on.updBlock 0 (fun b => f { b with st := .running, run := ⟨64, 64, 64, 0, false⟩ })

/-- A word waits at word 3 of sequence `q`. -/
def word (q : Seq) (w : Nat) (f : Block → Block := id) : State :=
  blk (fun b => f (b.setSeqr q { pc := 3, loops := [], word := some w }))

/-- Mailbox 3 holds a command that waits for its row. -/
def cmdOf (op : Nat) (pars : List Byte) : Cmd :=
  { m := 3, op := op, flags := 0, seq := 1, dl := 0, pars := pars, begun := false, late := false, ans := none, keep := [], t0 := 0 }

def cmd (op : Nat) (pars : List Byte) (f : State → State := id) : State :=
  f { on with host := { on.host with runs := [cmdOf op pars] } }

/-- What an issue check lets through. -/
def goOf {α : Type} (d : α) : Iss α → α
  | .go a => a
  | _ => d

/-- A descriptor of LOCAL or another space, rank 2, rows packed, its checksum made. -/
def desc (space addr fmt n0 rows : Nat) : Nat :=
  descFix (addr + space * 2 ^ 48 + fmt * 2 ^ 55 + 2 ^ 60 + (n0 - 1) * 2 ^ 128 + (rows - 1) * 2 ^ 152 + 2 ^ 256 + n0 * 2 ^ 272)

/-- Descriptors put under their handles. -/
def descs (l : List (Nat × Nat)) (b : Block) : Block := l.foldl (fun b x => b.setDesc x.1 x.2) b

/-- An instruction-memory word with its parity. -/
def iw (w : Nat) : IWord := ⟨w, parityOf w⟩

/-- Queue `n` enabled for context F, or for B, over `size` KiB-halves at `base`. -/
def queue (n size base : Nat) (ctxB : Bool := false) (b : Block) : Block := { b with qs := b.qs.set n ⟨⟨ctxB, true, size, base⟩, 0, []⟩ }

/-- A committed entry of zeros at the head of queue `n`. -/
def entry (n : Nat) (f : Fmt) (n0 rows : Nat) (b : Block) : Block :=
  let b1 := b.deliver (b.freshJob .f 0 .vec) (.queue n f) cVec (List.replicate rows (List.replicate n0 { v := .zero false }))
  { b1 with jobs := [], qs := b1.qs.map (fun q => { q with ents := q.ents.map (fun e => { e with done := true, job := none }) }) }

/-- An OPEN tile of `m` rows at row 0. -/
def tile (m : Nat) (af : AccF) (fam : Fam) (b : Block) : Block := b.openNew (Tile.fresh 0 m af fam .f)

/-- A word of the elementwise VOP or row reduction `k`: destination descriptor 2, sources descriptor 1. -/
def vopW (k : Nat) (rest : Nat := 0) : Nat :=
  let u := vopUse k
  let one (i lo : Nat) : Nat := if (u.getD i []).isEmpty then 0 else 0x101 * 2 ^ lo
  (0x40 + k) * 2 ^ 56 + 0x102 * 2 ^ 38 + one 1 27 + one 2 16 + one 3 5 + rest

/-- A job as an issue makes it. -/
def job (id : Nat) : Job := { Job.mk0 id .f 3 0 .vec with started := true }

/-- The word of ROW operation `k`: Y descriptor 2, X descriptor 1, its further operands 5 to 7, keys from immediate 0. -/
def rowW (k : Nat) : Nat :=
  (0x10 + k) * 2 ^ 56 + 2 * 2 ^ 40 + 2 ^ 31 + (if k = 0 || k = 2 then 5 else 6) * 2 ^ 23 + (if k ≤ 3 then 5 else 7) * 2 ^ 15

/-- Operands of ROW operations of four columns and two rows, and valid statistics of the kind that `k` looks up. -/
def rowB (k : Nat) (b : Block) : Block :=
  let kd := if k = 1 then kLN else if k = 3 then kRMS else kSM
  ((descs [(1, desc 0 0x1000 0 4 2), (2, desc 0 0x2000 0 4 2), (5, desc 0 0x3000 0 4 1), (6, desc 0 0x4000 0 4 2),
    (7, desc 0 0x5000 0 2 1)] b).putSlot 0 0 kd 0 0).putSlot 1 1 kd 0 0

/-- The word of an MM in array mode `mode`: E4M3 rows of queue 0 into two rows at 0, opening the tile. -/
def mmW (mode rest : Nat) : Nat := 3 * 2 ^ 62 + mode * 2 ^ 58 + 2 ^ 55 + 2 ^ 53 + 2 ^ 27 + rest

/-- A valid stationary set of E4M3 for a mode. -/
def setOf (mode : Nat) : TSet := ⟨true, .e4m3, .e4m3, mode != 0, false, 1, 8, [], false, false, [], [], [], 1⟩

/-- A streamed multiply under way. -/
def strmJob : Job :=
  { job 0 with kind := .mm, strm := some ⟨desc 0 0x1000 3 64 4, ⟨.mul, .e4m3, .e4m3, false⟩, 32, 4, 0, 2, 2, 0, 0⟩ }

def noTens : Tens := ⟨.fp32, 0, []⟩

/-- An AR of 128 elements among the parts 0 and 1, begun at part 0. -/
def coll0 : Coll :=
  { cseq := 0, b := 0, job := 0, kind := 2, op := 0, fmt := .fp32, form := .plain, root := 0, dir := 0, n := 128, chunk := 64
    members := [0, 1], pos := 0, wraps := true, step := 0, dl := none, src := 1, dst := desc 3 0x40000000 0 128 1, sq := false
    bind := none, own := List.replicate 512 (0, false), ownS := [], started := true, out := [], sent := [0, 0], come := [0, 0]
    part := [], done := 0, nf := false, flags := [], unsent := 0, bad := false, word := 0, words := [], axes := [] }

/-- Unit 0 with collectives and packets that wait. -/
def acu (cs : List Coll) (ps : List Packet) (s : State) : State := s.updAcu 0 (fun u => { u with colls := cs, inq := ps })

/-- A packet of part 1 to part 0. -/
def pkt (typ tag : Nat) (payload : List Byte) : Packet :=
  { dst := 0, src := 1, slice := 5, vc := 0, typ := typ, first := true, last := true, len := 64, tag := tag, seq := 0, payload := payload, crc := 0 }

/-- The part is node 0 of slice 5, two parts along axis 0, port 0 towards + and port 2 towards −, the links of port 0 UP. -/
def sliced (s : State) : State :=
  { s with fab := { s.fab with
    slice := 5, box := 64 :: List.replicate 7 0, links := s.fab.links.mapIdx (fun l k => if l < 4 then { k with st := .up, goal := .up } else k)
    profile := some ⟨0x80 + 0x88 * 2 ^ 16 + (2 ^ 15 + 64) * 2 ^ 128 + 8 * 2 ^ 256, 0⟩ } }

/-- A binding of layer 9: 32 elements in one row, its trigger word at 0x8010 and its statistics at 0x8040. -/
def bind0 : Bind :=
  { layer := 9, hd := 32 * 2 ^ 440 + 31 * 2 ^ 416 + 2 ^ 396 + 0x8010 * 2 ^ 316 + 0x8040 * 2 ^ 276, strs := [], pubVer := 0, pin0 := 0
    pin1 := 0, slot := 0, writing := false, last := 0, prev := 0, rbOk := false, trig := none, faulted := false, rolling := false, jFill := 0, jOver := false }

/-- The same in the split layout. -/
def bindS : Bind := { bind0 with hd := bind0.hd + 2 ^ 490 }

/-- A trigger of step 7 that is queued. -/
def trig7 : Trig := ⟨7, false, none, .queued, false, false⟩

/-- The SUE of stack 0 changed. -/
def sue (f : Sue → Sue) (s : State) : State := s.updStack 0 (fun k => { k with sue := f k.sue })

/-- The SUE of stack 0 with one binding. -/
def bound (b : Bind) (s : State) : State := sue (fun x => { x with binds := [b] }) s

/-- The step counter at `t` ticks. -/
def at_ (t : Nat) (s : State) : State := { s with time := { s.time with stc := t * 2 ^ 32 } }

/-- A region put into a state. -/
def region (r : Nat) (f : Region → Region) (s : State) : State := { s with regions := s.regions.set r (f (s.region r)) }

/-- A stack changed. -/
def stack (f : Stack → Stack) (s : State) : State := s.updStack 0 f

/-- Mailbox 3 has been handed to the part with a command. -/
def handed (op len dl : Nat) (pars : List Byte) (f : State → State := id) : State :=
  f { on with host := { on.host.putMbx 3 0 ([1, 1] ++ [0, 0] ++ toLE 2 op ++ [0, 0] ++ toLE 4 len ++ toLE 4 0 ++ toLE 8 dl ++ toLE 8 0 ++ pars) with hand := [3] } }

/-- A command that has its answer. -/
def ended (op : Nat) (f : Cmd → Cmd) : State :=
  { on with host := { on.host with runs := [f { cmdOf op [] with begun := true }] } }

/-- A settings block in force. -/
def setting (i : Nat) (body : List Byte) (s : State) : State :=
  { s with sec := { s.sec with sets := [(i, toLE 2 i ++ List.replicate 6 0 ++ toLE 4 body.length ++ List.replicate 116 0 ++ body)] } }

/-- A block image of one array-stream word and one descriptor. -/
def img : List Byte :=
  toLE 4 0x4B54494D ++ toLE 2 1 ++ toLE 2 0 ++ toLE 2 1 ++ toLE 2 0 ++ toLE 2 0 ++ toLE 2 1 ++ List.replicate 240 0
    ++ toLE 8 0 ++ toLE 8 7 ++ toLE 64 (desc 0 0x1000 0 4 2)

/-- The part acts as source or receiver of a Sporecast of one segment. -/
def session (src : Bool) (f : Cast → Cast) (s : State) : State :=
  { s with fab := { s.fab with cast := some (f ⟨src, 3, b2n !src, 1, 336, 2 ^ 143, 0, Mem.empty.put 0 img, [], [], [], [], false⟩) } }

/-- A CAST message of one packet that has come. -/
def castq (kind : Nat) : Packet := { pkt tCAST 0 (castHead kind 0 0 1 3 0 1 336 (if kind = 3 then 0 else 1) 0) with vc := 2 }

/-- A rule that adds the gradient to the master and writes weights. -/
def rule4 : List Nat := [0x18 * 2 ^ 26, 0x18 * 2 ^ 26 + 2 ^ 22 + 1, 0x19 * 2 ^ 26, 0x19 * 2 ^ 26 + 2]

def ruleBytes : List Byte :=
  toLE 2 1 ++ toLE 1 15 ++ toLE 1 4 ++ toLE 4 0 ++ rule4.flatMap (toLE 4) ++ List.replicate 112 0 ++ List.replicate 64 0
    ++ (List.replicate 4 (toLE 8 0x3FF0000000000000)).flatten

/-- Master, gradient and working streams of 32 elements. -/
def strs4 : List Nat :=
  [0x10000 * 2 ^ 88 + 3 * 2 ^ 42 + 2 ^ 40 + 2 ^ 38, 0x20000 * 2 ^ 88 + 2 ^ 42 + 3 * 2 ^ 40,
   0x30000 * 2 ^ 88 + 2 ^ 44 + 2 * 2 ^ 42 + 2 * 2 ^ 40] ++ List.replicate 5 0

def bindBytes : List Byte :=
  toLE 1 0 ++ toLE 1 0 ++ toLE 2 0 ++ toLE 4 0
    ++ toLE 64 (9 * 2 ^ 496 + 15 * 2 ^ 484 + 32 * 2 ^ 440 + 31 * 2 ^ 416 + 2 ^ 412 + 2 ^ 396 + 0x1000 * 2 ^ 356 + 0x8010 * 2 ^ 316 + 0x8040 * 2 ^ 276)
    ++ strs4.flatMap (toLE 16)

def rule15 : Rule := ⟨4, rule4 ++ List.replicate 28 0, List.replicate 16 0, [], []⟩

/-- Flash device 0 with a firmware header word, used as the running device. -/
def dir0 (s : State) : State := { s with boot := { s.boot with dev := some 0 } }

/-! Ill-formed terms: each check of `Instr.wf` refuses one. -/

theorem test_wf_refuses_blocks :
    [Instr.instructionDecode 144 .a, .loop 144 .b, .vopAdd 200 .f, .mmMul 144 .b, .tokenMessage 0 144, .tokenMessage 144 0,
     .nocTransferDelivery 0 144 false, .queueEntryCommit 0 8 0, .queueEntryCommit 144 0 0, .pinRequest 144 0,
     .hostDebugAccess 144 false 0 0 [], .hostDebugAccess 0 true (2 ^ 21 - 1) 0 [1, 2], .blockTest [(0, 1), (144, 1)]].all
      (fun i => !i.wf) = true := by decide

theorem test_wf_refuses_memory :
    [Instr.regionStoreAccess 4 false 0 1 [], .regionStoreAccess 0 true (2 ^ 24 - 1) 2 [], .triggerWrite 12 0 0,
     .stackRequest 12 0 false 0 1, .stackRequest 0 5 false 0 1, .stackRequest 0 0 false stackSize 1,
     .stackWriteAccept 12 0 [], .stackWriteAccept 0 (stackSize - 1) [1, 2], .writePromotion 0 32,
     .channelDirectionSwitch 12 0, .bar2Access false (2 ^ 36 - 1) 2 [], .mailboxWrite 16 0 [], .mbxHandoff 0 4095 [1, 2],
     .registerWrite 0x3FFFF 4 0].all (fun i => !i.wf) = true := by decide

theorem test_wf_refuses_units :
    [Instr.linkSlotTransmit 64, .packetInjection ⟨2, 0⟩, .collCompletion 8 0, .correctedSummary 1 144 0, .correctedSummary 0 0 0,
     .correctedSummary 9 0 0, .commandCompletion 16, .setWrite 16 none, .oscWaitExpiry [0, 8], .packageReset 10,
     .coreDieReset 8, .thermalSample [1, 2] [1, 2], .thermalSample [1, 2, 3, 4, 5] [1], .regionTransitionComplete 4,
     .memoryTrainingComplete 12 (.trained 0), .memoryTrainingComplete 0 (.failed 0), .memoryTrainingComplete 0 (.failed 7), .tamperEvent 5,
     .packetInjection ⟨0, 16⟩, .packetIngress 0 (pkt tWR 0 []) ⟨0, 0, [], 0⟩, .controlSlotReceive 0 [] ⟨0, 1, [], 0⟩,
     .cablePresent 16, .sidebandShort 16 0, .sidebandShort 0 4].all (fun i => !i.wf) = true := by decide

theorem test_wf_accepts_the_highest_units :
    [Instr.instructionDecode 143 .a, .queueEntryCommit 143 7 0, .regionStoreAccess 3 true (2 ^ 24 - 2) 2 [],
     .stackWriteAccept 11 (stackSize - 2) [1, 2], .linkSlotTransmit 63, .correctedSummary 8 15 0, .packageReset 9,
     .memoryTrainingComplete 11 (.failed 6), .packetIngress 63 (pkt tWR 0 []) ⟨0, 256, [], 15⟩, .sidebandShort 15 3, .ready].all (fun i => i.wf) = true := by decide

/-- Such a command faults by name. -/
theorem test_unknown_unit_faults :
    exec (.vopAdd 144 .f) on = .fault .noSuchUnit ∧ exec (.linkDown 64) on = .fault .noSuchUnit := ⟨rfl, rfl⟩

/-! Number formats: the worked examples of chapter 2. -/

/-- "Take x = 5.0 quantised to LG8F at a block scale of 32, that is E = 0x84": code 22 when the draw is below 9,705, else 21. -/
theorem test_stochastic_draw :
    (Fmt.lg8f.encode false (.draw 9704) 0x84 (fp32 0x40A00000)).code = 22 ∧
    (Fmt.lg8f.encode false (.draw 9705) 0x84 (fp32 0x40A00000)).code = 21 ∧
    (Fmt.lg8f.encode false .nearest 0x84 (fp32 0x40A00000)).code = 21 := by decide +kernel

/-- Table 2-7: the dominated block. -/
def dominated : List Val := [0x43960000, 0xBFC00000, 0x3F400000, 0xBF000000, 0x40A00000].map fp32

theorem test_dominated_block :
    (Fmt.lg8f.encBlock false (List.replicate 5 .nearest) dominated).1 = 0x84 ∧
    (Fmt.lg8f.encBlock false (List.replicate 5 .nearest) dominated).2.map Enc.code = [0x74, 0x81, 0, 0, 0x15] ∧
    (sumCnt (Fmt.lg8f.encBlock false (List.replicate 5 .nearest) dominated).2) = ⟨0, 2, 0⟩ := by decide +kernel

/-- R51: 460.0 gives 448 and counts nothing, 470.0 gives 448 and saturates. -/
theorem test_e4m3_beyond_range :
    ((roundTo .e4m3 false (fp32 0x43E60000)).code, (roundTo .e4m3 false (fp32 0x43E60000)).sat) = (0x7E, false) ∧
    ((roundTo .e4m3 false (fp32 0x43EB0000)).code, (roundTo .e4m3 false (fp32 0x43EB0000)).sat) = (0x7E, true) := by
  decide +kernel

/-- "The smallest LG8B magnitude under E = 0x00 … decodes to +0 and adds 1 to the flush count" in BF16. -/
theorem test_lg8b_flushes_in_bf16 :
    ((roundTo .bf16 false (Fmt.lg8b.decode 0 1)).code, (roundTo .bf16 false (Fmt.lg8b.decode 0 1)).flu) = (0, true) := by
  decide +kernel

/-! Stacks: the worked example of chapter 9. -/

/-- A = 0x0000_4000_0123 lies in stack 4 at L = 0x00_0555_5523: pseudo-channel 0, bank 33, row 37, quarter 1, burst 1. -/
theorem test_interleaved_address :
    toStack 0x40000123 = (4, 0x05555523) ∧ place 0x05555523 = ⟨0, 33, 37, 1, 1⟩ := by decide

/-! Instruction words. -/

/-- Table 8-22: 0xE320_0007_F804_1020 is MM.MUL of 256 rows, streamed, from h2. -/
theorem test_mm_word :
    opOf .f 0xE3200007F8041020 = .mm 0 ∧ bits 0xE3200007F8041020 61 1 = 1 ∧ bits 0xE3200007F8041020 27 10 = 255 ∧
    bits 0xE3200007F8041020 4 8 = 2 := by decide

/-- Chapter 13's sum of 2^24, 1, −2^24 and 1: the order of the + half of a wrapping group gives 2, that of a line 1. -/
theorem test_sum_order :
    let x0 := fp32 0x4B800000
    let x1 := fp32 0x3F800000
    let x2 := fp32 0xCB800000
    let add (a b : Val) : Val := fp32 (roundTo .fp32 false (a.add b)).code
    (roundTo .fp32 false (add (add (add x2 x1) x0) x1)).code = 0x40000000 ∧
    (roundTo .fp32 false (add (add x0 x1) (add x1 x2))).code = 0x3F800000 := by decide +kernel

/-! Single steps. -/

/-- R373: writing a 1 clears a bit of FAULT_SUMMARY, and the other bits stay. -/
theorem test_fault_summary_write :
    (match exec (.faultSummaryWrite 2) { on with host := { on.host with summary := 7 } } with
      | .next t => t.host.summary == 5 | _ => false) = true := by decide +kernel

/-- R537: the rise of PWR_GOOD latches the straps and starts the delay. -/
theorem test_pwr_good_rise :
    (match exec (.pwrGoodRise 3 5) State.reset with
      | .next t => t.pwr.good && t.pwr.osc && t.pwr.smbAddr == 5 && !t.pwr.crust | _ => false) = true := by decide +kernel

/-- R452: a supply warning pauses issue and is logged. -/
theorem test_supply_warn :
    (match exec (.supplyWarn 7) on with
      | .next t => t.pwr.pause == some 0 && t.events.map Ev.code == [0x0501] && !(t.canIssue 0) | _ => false) = true := by
  decide +kernel

/-- R403, Table 15-2: DEV_GRADE on a whole part answers 142 × 144 working arrays' grade record and ends OK. -/
theorem test_dev_grade_ends_ok :
    (match exec (.devGrade 3) (cmd 0x0101 []) with
      | .next t => (t.cmd 3).any (fun c => c.ans.any (fun a => a.1 == 0)) | _ => false) = true := by decide +kernel

/-- R379: a command of an unknown opcode ends with OPCODE. -/
theorem test_unknown_opcode :
    (match exec .thallusWake (handed 0x0999 0 0 []) with
      | .next t => (t.cmd 3).any (fun c => c.ans == some (2, [])) | _ => false) = true := by decide +kernel

/-- The queue: a step runs its front, and the rest waits. -/
theorem test_step_takes_the_front :
    (match step { State.reset with pending := [.pwrGoodRise 1 2, .heartbeat] } with
      | .next t => t.pwr.good && t.pending == [.heartbeat] | _ => false) = true := by decide +kernel

/-! Witnesses of the statements' hypotheses. -/

theorem test_meets_StepRunsFrontCommand :
    (let s : State := { on with pending := [.stcNowRead 0 4, .warmReset] };
      let c : Instr := .stcNowRead 0 4;
      let rest : List Instr := [.warmReset];
      (s.pending = c :: rest)) := by
  decide +kernel

theorem test_meets_DecodeHoldsFoldsOrFaults :
    (let s : State := blk (fun b => { b with imA := [iw 0xFF00000000000000] });
      let n : Nat := 0;
      let q : Seq := .a;
      (n < 144) ∧ (s.canIssue n = true) ∧ ((s.block n).ended q = false) ∧ (((s.block n).seqr q).word = none) ∧
      let b := s.block n;
      let iw := b.iword q (b.seqr q).pc;
      let e := ErrI.of 1;
      (decodeFault (s.vecBlock n) b q iw = some e)) ∧
    (let s : State := blk (fun b => { b with imX := [iw 0x0200000000000000], seqF := ⟨0, [⟨0, 0, 2⟩], none⟩ });
      let n : Nat := 0;
      let q : Seq := .f;
      (n < 144) ∧ (s.canIssue n = true) ∧ ((s.block n).ended q = false) ∧ (((s.block n).seqr q).word = none) ∧
      let b := s.block n;
      let iw := b.iword q (b.seqr q).pc;
      (decodeFault (s.vecBlock n) b q iw = none) ∧ (opOf q iw.w = .endl)) ∧
    (let s : State := blk (fun b => { b with imA := [iw 0x300000800000000] });
      let n : Nat := 0;
      let q : Seq := .a;
      (n < 144) ∧ (s.canIssue n = true) ∧ ((s.block n).ended q = false) ∧ (((s.block n).seqr q).word = none) ∧
      let b := s.block n;
      let iw := b.iword q (b.seqr q).pc;
      (decodeFault (s.vecBlock n) b q iw = none) ∧ (opOf q iw.w ≠ .endl)) := by
  refine ⟨?_, ?_, ?_⟩ <;> decide +kernel

theorem test_meets_LoopEntersSkipsOrFaults :
    (let s : State := word .a 0x100000000001000;
      let n : Nat := 0;
      let q : Seq := .a;
      let w : Nat := 0x100000000001000;
      (s.ready n q w) ∧ (opOf q w = .loop) ∧
      let b := s.block n;
      let cnt := if bit w 48 then b.lcr.getD (bits w 24 3) 0 else bits w 24 24;
      (cnt = 0)) ∧
    (let s : State := word .f 0x100ffffff001000 (fun b => { b with seqF := { b.seqF with loops := [⟨1, 9, 2⟩, ⟨1, 9, 2⟩, ⟨1, 9, 2⟩] } });
      let n : Nat := 0;
      let q : Seq := .f;
      let w : Nat := 0x100ffffff001000;
      (s.ready n q w) ∧ (opOf q w = .loop) ∧
      let b := s.block n;
      let r := b.seqr q;
      let cnt := if bit w 48 then b.lcr.getD (bits w 24 3) 0 else bits w 24 24;
      (cnt ≠ 0) ∧ (r.loops.length < 4)) ∧
    (let s : State := word .b 0x100000001001000 (fun b => { b with seqB := { b.seqB with loops := [⟨1, 9, 2⟩, ⟨1, 9, 2⟩, ⟨1, 9, 2⟩, ⟨1, 9, 2⟩] } });
      let n : Nat := 0;
      let q : Seq := .b;
      let w : Nat := 0x100000001001000;
      (s.ready n q w) ∧ (opOf q w = .loop) ∧
      let b := s.block n;
      let r := b.seqr q;
      let cnt := if bit w 48 then b.lcr.getD (bits w 24 3) 0 else bits w 24 24;
      (cnt ≠ 0) ∧ (4 ≤ r.loops.length)) := by
  refine ⟨?_, ?_, ?_⟩ <;> decide +kernel

theorem test_meets_TokWaitTakesOrWaits :
    (let s : State := word .f 0x300281000000000 (fun b => { b with toks := b.toks.set 5 2 });
      let n : Nat := 0;
      let q : Seq := .f;
      let w : Nat := 0x300281000000000;
      (s.ready n q w) ∧ (opOf q w = .tokWait) ∧
      let b := s.block n;
      let left := b.leftFor (bits w 43 6) q;
      (bits w 35 8 ≤ left)) ∧
    (let s : State := word .b 0x300281000000000 (fun b => { b with toks := b.toks.set 5 3, seqA := ⟨3, [], some 0x300281000000000⟩ });
      let n : Nat := 0;
      let q : Seq := .b;
      let w : Nat := 0x300281000000000;
      (s.ready n q w) ∧ (opOf q w = .tokWait) ∧
      let b := s.block n;
      let left := b.leftFor (bits w 43 6) q;
      (left < bits w 35 8)) ∧
    (let s : State := word .a 0x300281000000000;
      let n : Nat := 0;
      let q : Seq := .a;
      let w : Nat := 0x300281000000000;
      (s.ready n q w) ∧ (opOf q w = .tokWait) ∧
      (q = .a)) := by
  refine ⟨?_, ?_, ?_⟩ <;> decide +kernel

theorem test_meets_TokSigAddsOrStandsFenced :
    (let s : State := word .f 0x400380800000000 (fun b => { b with toks := b.toks.set 7 65534 });
      let n : Nat := 0;
      let q : Seq := .f;
      let w : Nat := 0x400380800000000;
      (s.ready n q w) ∧ (opOf q w = .tokSig) ∧
      let b := s.block n;
      let t := bits w 43 6;
      let k := bits w 35 8;
      let v := b.toks.getD t 0;
      (bit w 34 = false) ∧ (bit w 33 = false) ∧ (v + k ≤ 65535)) ∧
    (let s : State := word .f 0x400380800000000 (fun b => { b with toks := b.toks.set 7 65535 });
      let n : Nat := 0;
      let q : Seq := .f;
      let w : Nat := 0x400380800000000;
      (s.ready n q w) ∧ (opOf q w = .tokSig) ∧
      let b := s.block n;
      let t := bits w 43 6;
      let k := bits w 35 8;
      let v := b.toks.getD t 0;
      (bit w 34 = false) ∧ (bit w 33 = false) ∧ (65535 < v + k)) ∧
    (let s : State := word .f 0x400380b1e000000;
      let n : Nat := 0;
      let q : Seq := .f;
      let w : Nat := 0x400380b1e000000;
      (s.ready n q w) ∧ (opOf q w = .tokSig) ∧
      (bit w 34 = true ∨ bit w 33 = true)) := by
  refine ⟨?_, ?_, ?_⟩ <;> decide +kernel

theorem test_meets_TokenMessageArrives :
    (let s : State := { on.updBlock 143 (fun b => { b with toks := b.toks.set 7 65534 }) with tokMsgs := [⟨0, 143, 7, 1, 0⟩] };
      let src : Nat := 0;
      let dst : Nat := 143;
      let m : TokMsg := ⟨0, 143, 7, 1, 0⟩;
      (src < 144) ∧ (dst < 144) ∧ (s.pwr.stopped = false) ∧ (s.tokMsgs.find? (fun x => x.src == src && x.dst == dst) = some m) ∧
      let s1 := { s with tokMsgs := s.tokMsgs.erase m };
      let s2 := s1.updBlock src (fun b => b.endFence m.job);
      (s.regionGate (dst / 36) = .ok) ∧ ((s2.block dst).toks.getD m.tok 0 + m.n ≤ 65535)) ∧
    (let s : State := { on.updBlock 143 (fun b => { b with toks := b.toks.set 7 65535 }) with tokMsgs := [⟨0, 143, 7, 1, 0⟩] };
      let src : Nat := 0;
      let dst : Nat := 143;
      let m : TokMsg := ⟨0, 143, 7, 1, 0⟩;
      (src < 144) ∧ (dst < 144) ∧ (s.pwr.stopped = false) ∧ (s.tokMsgs.find? (fun x => x.src == src && x.dst == dst) = some m) ∧
      let s1 := { s with tokMsgs := s.tokMsgs.erase m };
      let s2 := s1.updBlock src (fun b => b.endFence m.job);
      (s.regionGate (dst / 36) = .ok) ∧ (65535 < (s2.block dst).toks.getD m.tok 0 + m.n)) ∧
    (let s : State := { region 3 (fun g => { g with st := .retain, goal := .run, move := some (.armed, 0) }) on with tokMsgs := [⟨0, 143, 7, 1, 0⟩] };
      let src : Nat := 0;
      let dst : Nat := 143;
      let m : TokMsg := ⟨0, 143, 7, 1, 0⟩;
      (src < 144) ∧ (dst < 144) ∧ (s.pwr.stopped = false) ∧ (s.tokMsgs.find? (fun x => x.src == src && x.dst == dst) = some m) ∧
      let s1 := { s with tokMsgs := s.tokMsgs.erase m };
      let s2 := s1.updBlock src (fun b => b.endFence m.job);
      (s.regionGate (dst / 36) = .wait)) ∧
    (let s : State := { region 3 (fun g => { g with st := .retain }) on with tokMsgs := [⟨0, 143, 7, 1, 0⟩] };
      let src : Nat := 0;
      let dst : Nat := 143;
      let m : TokMsg := ⟨0, 143, 7, 1, 0⟩;
      (src < 144) ∧ (dst < 144) ∧ (s.pwr.stopped = false) ∧ (s.tokMsgs.find? (fun x => x.src == src && x.dst == dst) = some m) ∧
      let s1 := { s with tokMsgs := s.tokMsgs.erase m };
      let s2 := s1.updBlock src (fun b => b.endFence m.job);
      (s.regionGate (dst / 36) = .refused)) := by
  refine ⟨?_, ?_, ?_, ?_⟩ <;> decide +kernel

theorem test_meets_MarksAndDescSetWriteOneRegister :
    (let s : State := word .b 0x501fffe00000000;
      let n : Nat := 0;
      let c : Ctx := .b;
      let w : Nat := 0x501fffe00000000;
      (s.ready n (seqOf c) w) ∧ (opOf (seqOf c) w = .ctxMark)) ∧
    (let s : State := word .a 0x25000bfc00000009;
      let n : Nat := 0;
      let w : Nat := 0x25000bfc00000009;
      let f : Fd := (setField 2).getD fAddr;
      (s.ready n .a w) ∧ (opOf .a w = .descSet) ∧ (bits w 47 2 = 0) ∧ (bits w 42 5 ≠ 12) ∧ (setField (bits w 42 5) = some f)) ∧
    (let s : State := word .a 0x250083fcffffffff;
      let n : Nat := 0;
      let w : Nat := 0x250083fcffffffff;
      (s.ready n .a w) ∧ (opOf .a w = .descSet) ∧ (bits w 47 2 = 1)) ∧
    (let s : State := word .a 0x2501041cffffffff;
      let n : Nat := 0;
      let w : Nat := 0x2501041cffffffff;
      (s.ready n .a w) ∧ (opOf .a w = .descSet) ∧ (bits w 47 2 = 2)) ∧
    (let s : State := word .a 0x2501803cffffffff;
      let n : Nat := 0;
      let w : Nat := 0x2501803cffffffff;
      (s.ready n .a w) ∧ (opOf .a w = .descSet) ∧ (bits w 47 2 = 3)) := by
  refine ⟨?_, ?_, ?_, ?_, ?_⟩ <;> decide +kernel

theorem test_meets_DescSetVersionRequestsAPin :
    (let s : State := word .a 0x2500302400000001 (fun b => { b with pinq := ((List.range 16).map (fun i => PinReq.mk i 9 4 true .a 0 .waiting)), pins := [⟨9, false, true, 0, 4, 1, 16⟩] });
      let n : Nat := 0;
      let w : Nat := 0x2500302400000001;
      (s.ready n .a w) ∧ (opOf .a w = .descSet) ∧ (bits w 47 2 = 0) ∧ (bits w 42 5 = 12) ∧
      let b := s.block n;
      let h := bits w 34 8;
      let p := b.pin h;
      ((p.pending = true ∧ 16 ≤ b.superseded))) ∧
    (let s : State := word .a 0x2500302400000001 (fun b => { b with pinq := ((List.range 16).map (fun i => PinReq.mk i 9 4 true .a 0 .waiting)).drop 1, pins := [⟨9, false, true, 0, 4, 1, 16⟩] });
      let n : Nat := 0;
      let w : Nat := 0x2500302400000001;
      (s.ready n .a w) ∧ (opOf .a w = .descSet) ∧ (bits w 47 2 = 0) ∧ (bits w 42 5 = 12) ∧
      let b := s.block n;
      let h := bits w 34 8;
      let p := b.pin h;
      (¬ (p.pending = true ∧ 16 ≤ b.superseded))) ∧
    (let s : State := word .a 0x2500302400000001;
      let n : Nat := 0;
      let w : Nat := 0x2500302400000001;
      (s.ready n .a w) ∧ (opOf .a w = .descSet) ∧ (bits w 47 2 = 0) ∧ (bits w 42 5 = 12) ∧
      let b := s.block n;
      let h := bits w 34 8;
      let v := bits w 0 32;
      let p := b.pin h;
      (¬ (p.pending = true ∧ 16 ≤ b.superseded)) ∧ (v = 1)) := by
  refine ⟨?_, ?_, ?_⟩ <;> decide +kernel

theorem test_meets_ElementwiseVopResult :
    (∀ ik ∈ elementwiseVops,
      let s : State := word .f (vopW ik.2) (descs [(1, desc 0 0x1000 0 4 2), (2, desc 0 0x2000 0 4 2)]);
      let n : Nat := 0;
      let c : Ctx := .f;
      let w : Nat := vopW ik.2;
      let bf : Bool := false;
      let x : Option VSrc := goOf none ((s.block n).vsrc (vopSrcFmts bf) (bits w 27 11));
      let y : Option VSrc := goOf none ((s.block n).vsrc (vopSrcFmts bf) (bits w 16 11));
      let z : Option VSrc := goOf none ((s.block n).vsrc (vopSrcFmts bf) (bits w 5 11));
      let dst : VDst := goOf .nothing ((s.block n).vdst (vopDstFmts bf) (laneFmt bf) (bits w 38 11));
      let sh : Shape := ⟨4, [2], false⟩;
      let q := seqOf c;
      let b := s.block n;
      (s.ready n q w) ∧ (opOf q w = .vop ik.2 bf) ∧ (bit w 4 = false) ∧ (b.vsrc (vopSrcFmts bf) (bits w 27 11) = .go x) ∧ (b.vsrc (vopSrcFmts bf) (bits w 16 11) = .go y) ∧ (b.vsrc (vopSrcFmts bf) (bits w 5 11) = .go z) ∧ (b.vdst (vopDstFmts bf) (laneFmt bf) (bits w 38 11) = .go dst) ∧
      let srcs := [x, y, z].filterMap id;
      let shapes := srcs.filterMap VSrc.shape;
      let dsh := match dst with | .desc _ d => some (descShape d) | _ => none;
      ((shapes ++ dsh.toList).head? = some sh) ∧ ((∀ t ∈ shapes ++ dsh.toList, t.same sh = true)) ∧ ((∀ o ∈ srcs, o.fits sh = true)) ∧ (b.room dst sh.n0 sh.rows = .go ())) := by
  decide +kernel

theorem test_meets_MaskedVopKeepsOrZeroes :
    (∀ ik ∈ elementwiseVops,
      let s : State := word .b (vopW ik.2 30) (descs [(1, desc 0 0x1000 0 4 2), (2, desc 0 0x2000 0 4 2)]);
      let n : Nat := 0;
      let c : Ctx := .b;
      let w : Nat := vopW ik.2 30;
      let bf : Bool := false;
      let x : Option VSrc := goOf none ((s.block n).vsrc (vopSrcFmts bf) (bits w 27 11));
      let y : Option VSrc := goOf none ((s.block n).vsrc (vopSrcFmts bf) (bits w 16 11));
      let z : Option VSrc := goOf none ((s.block n).vsrc (vopSrcFmts bf) (bits w 5 11));
      let h : Nat := 2;
      let d : Nat := desc 0 0x2000 0 4 2;
      let sh : Shape := ⟨4, [2], false⟩;
      let q := seqOf c;
      let b := s.block n;
      (s.ready n q w) ∧ (opOf q w = .vop ik.2 bf) ∧ (bit w 4 = true) ∧ (b.vsrc (vopSrcFmts bf) (bits w 27 11) = .go x) ∧ (b.vsrc (vopSrcFmts bf) (bits w 16 11) = .go y) ∧ (b.vsrc (vopSrcFmts bf) (bits w 5 11) = .go z) ∧ (b.vdst (vopDstFmts bf) (laneFmt bf) (bits w 38 11) = .go (.desc h d)) ∧
      let srcs := [x, y, z].filterMap id;
      let shapes := srcs.filterMap VSrc.shape;
      ((shapes ++ [descShape d]).head? = some sh) ∧ ((∀ t ∈ shapes ++ [descShape d], t.same sh = true)) ∧ ((∀ o ∈ srcs, o.fits sh = true))) := by
  decide +kernel

theorem test_meets_RowReductionResult :
    (∀ ik ∈ reductionVops,
      let s : State := word .f (vopW ik.2) (descs [(1, desc 0 0x1000 0 4 2), (2, desc 0 0x2000 0 1 2)]);
      let n : Nat := 0;
      let c : Ctx := .f;
      let w : Nat := vopW ik.2;
      let bf : Bool := false;
      let x : VSrc := .tens (desc 0 0x1000 0 4 2) true ⟨4, [2], false⟩;
      let dst : VDst := .desc 2 (desc 0 0x2000 0 1 2);
      let sh : Shape := ⟨4, [2], false⟩;
      let q := seqOf c;
      let b := s.block n;
      (s.ready n q w) ∧ (opOf q w = .vop ik.2 bf) ∧ (spKind (bits w 16 11) = 0) ∧ (spKind (bits w 5 11) = 0) ∧ (b.vsrc (vopSrcFmts bf) (bits w 27 11) = .go (some x)) ∧ (x.shape = some sh) ∧ (b.vdst (vopDstFmts bf) (laneFmt bf) (bits w 38 11) = .go dst) ∧ (sh.same sh = true) ∧ (x.fits sh = true) ∧ ((match dst with | .desc _ d => (descShape d).same ⟨1, sh.outer, sh.queue⟩ | _ => true) = true) ∧ (b.room dst 1 sh.rows = .go ())) := by
  decide +kernel

theorem test_meets_DeliveryWritesOrFillsAnEntry :
    (let b : Block := Block.reset;
      let rows : List (List RElem) := List.replicate 2 (List.replicate 4 { v := .zero false });
      ((∀ r ∈ rows, ∀ e ∈ r, e.keep = false)) ∧ (b.spad.errs = [])) ∧
    (let b : Block := queue 6 1 0x8000 false Block.reset;
      let j : Job := job 0;
      let q : Nat := 6;
      let f : Fmt := .fp32;
      let rows : List (List RElem) := List.replicate 2 (List.replicate 4 { v := .zero false });
      let b2 : Block := ((queue 6 1 0x8000 false Block.reset).reserve 6 (entWords .fp32 4 2) (some 0)).getD Block.reset;
      (q < b.qs.length) ∧ (∀ e ∈ (b.q q).ents, e.job ≠ some j.id) ∧ (b.reserve q (entWords f ((rows.head?.map List.length).getD 0) rows.length) (some j.id) = some b2)) := by
  refine ⟨?_, ?_⟩ <;> decide +kernel

theorem test_meets_MaskSetReadsSixteenBytes :
    (let s : State := word .f 0x5c0000080800000e (descs [(1, desc 0 0x1000 0 4 1)]);
      let n : Nat := 0;
      let c : Ctx := .f;
      let w : Nat := 0x5c0000080800000e;
      let d : Nat := desc 0 0x1000 0 4 1;
      let bf : Bool := false;
      let q := seqOf c;
      let b := s.block n;
      let h := spVal (bits w 27 11);
      (s.ready n q w) ∧ (opOf q w = .vop 28 bf) ∧ (b.operandNow (localSrc allFmts) h = .go d) ∧ (128 ≤ (dMaxOff d + 1) * (dF d).width) ∧ (c = .f)) ∧
    (let s : State := word .b 0x5c0000080800000e (descs [(1, desc 0 0x1000 0 4 1)]);
      let n : Nat := 0;
      let c : Ctx := .b;
      let w : Nat := 0x5c0000080800000e;
      let d : Nat := desc 0 0x1000 0 4 1;
      let bf : Bool := false;
      let q := seqOf c;
      let b := s.block n;
      let h := spVal (bits w 27 11);
      (s.ready n q w) ∧ (opOf q w = .vop 28 bf) ∧ (b.operandNow (localSrc allFmts) h = .go d) ∧ (128 ≤ (dMaxOff d + 1) * (dF d).width) ∧ (c = .b)) := by
  refine ⟨?_, ?_⟩ <;> decide +kernel

theorem test_meets_VopAccAddsRowsToTheTile :
    (let s : State := word .f 0x5b00404000044000 (descs [(1, desc 0 0x1000 0 32 2), (2, desc 0 0x2000 0 32 2)]);
      let n : Nat := 0;
      let c : Ctx := .f;
      let w : Nat := 0x5b00404000044000;
      let bf : Bool := false;
      let o : VSrc := .tens (desc 0 0x1000 0 32 2) true ⟨32, [2], false⟩;
      let sh : Shape := ⟨32, [2], false⟩;
      let ds : List (Nat × Nat) := [];
      let b1 : Block := goOf Block.reset ((s.block 0).takeTile (accF w).init 0 2 .fp32 .sum .f);
      let q := seqOf c;
      let b := s.block n;
      let f := accF w;
      let fam := if f.fam = 0 then Fam.sum else if f.fam = 1 then Fam.ssq else Fam.wel;
      let af := if f.fam = 2 then AccF.wel else afOf f.ext;
      (s.ready n q w) ∧ (opOf q w = .vop 27 bf) ∧ (b.spilling f.base = false) ∧ (b.partialsDue f.base = false) ∧ (b.vsrc [.fp32, .bf16] f.a = .go (some o)) ∧ (o.shape = some sh) ∧ (sh.n0 = 32) ∧ (sh.rows = f.m) ∧ (b.drainDescs f.last f.chn f.out f.m (f.fam == 2) = .go ds) ∧ (b.takeTile f.init f.base f.m af fam c = .go b1)) ∧
    (let s : State := word .f 0x5b00404000042010 (fun b => tile 2 .fp32 .sum (descs [(1, desc 0 0x1000 0 32 2), (2, desc 0 0x2000 0 32 2)] b));
      let n : Nat := 0;
      let c : Ctx := .f;
      let w : Nat := 0x5b00404000042010;
      let bf : Bool := false;
      let o : VSrc := .tens (desc 0 0x1000 0 32 2) true ⟨32, [2], false⟩;
      let sh : Shape := ⟨32, [2], false⟩;
      let ds : List (Nat × Nat) := [(2, desc 0 0x2000 0 32 2)];
      let b1 : Block := goOf Block.reset ((s.block 0).takeTile (accF w).init 0 2 .fp32 .sum .f);
      let q := seqOf c;
      let b := s.block n;
      let f := accF w;
      let fam := if f.fam = 0 then Fam.sum else if f.fam = 1 then Fam.ssq else Fam.wel;
      let af := if f.fam = 2 then AccF.wel else afOf f.ext;
      (s.ready n q w) ∧ (opOf q w = .vop 27 bf) ∧ (b.spilling f.base = false) ∧ (b.partialsDue f.base = false) ∧ (b.vsrc [.fp32, .bf16] f.a = .go (some o)) ∧ (o.shape = some sh) ∧ (sh.n0 = 32) ∧ (sh.rows = f.m) ∧ (b.drainDescs f.last f.chn f.out f.m (f.fam == 2) = .go ds) ∧ (b.takeTile f.init f.base f.m af fam c = .go b1)) := by
  refine ⟨?_, ?_⟩ <;> decide +kernel

theorem test_meets_CvtSeedsOrConverts :
    (let s : State := word .f 0xc00000003e00000;
      let n : Nat := 0;
      let c : Ctx := .f;
      let w : Nat := 0xc00000003e00000;
      (s.ready n (seqOf c) w) ∧ (opOf (seqOf c) w = .cvt) ∧ (spKind (bits w 27 11) = 0)) ∧
    (let s : State := word .b 0xc0040880c000000 (descs [(1, desc 0 0x1000 0 4 2), (2, desc 0 0x2000 1 4 2)]);
      let n : Nat := 0;
      let c : Ctx := .b;
      let w : Nat := 0xc0040880c000000;
      let o : VSrc := .tens (desc 0 0x1000 0 4 2) true ⟨4, [2], false⟩;
      let dst : VDst := .desc 2 (desc 0 0x2000 1 4 2);
      let sh : Shape := ⟨4, [2], false⟩;
      let q := seqOf c;
      let b := s.block n;
      let sv := bits w 27 11;
      let dsh := match dst with | .desc h d => some (h, descShape d) | _ => none;
      let sf := match o with
        | .tens d _ _ | .rowB d | .colB d => dF d
        | .queue qn _ => (match b.headFields qn with | some (some (f, _, _, _)) => f | _ => .fp32)
        | .imm _ => .fp32;
      (s.ready n q w) ∧ (opOf q w = .cvt) ∧ (b.vsrc allFmts sv = .go (some o)) ∧
      (b.vdst allFmts ((Fmt.ofCode (bits w 13 4)).getD .fp32) (bits w 38 11) = .go dst) ∧
      (vecShape [(spVal sv, o)] dsh false = some sh) ∧ (cvtPath sf dst.fmt = true) ∧ (vecFault [(spVal sv, o)] dsh false sh = none) ∧
      (b.room dst sh.n0 sh.rows = .go ())) ∧
    (let s : State := word .f 0xc0040880c100000 (descs [(1, desc 0 0x1000 0 4 2), (2, desc 0 0x2000 1 4 2)]);
      let n : Nat := 0;
      let c : Ctx := .f;
      let w : Nat := 0xc0040880c100000;
      let o : VSrc := .tens (desc 0 0x1000 0 4 2) true ⟨4, [2], false⟩;
      let dst : VDst := .desc 2 (desc 0 0x2000 1 4 2);
      let sh : Shape := ⟨4, [2], false⟩;
      let q := seqOf c;
      let b := s.block n;
      let sv := bits w 27 11;
      let dsh := match dst with | .desc h d => some (h, descShape d) | _ => none;
      let sf := match o with
        | .tens d _ _ | .rowB d | .colB d => dF d
        | .queue qn _ => (match b.headFields qn with | some (some (f, _, _, _)) => f | _ => .fp32)
        | .imm _ => .fp32;
      (s.ready n q w) ∧ (opOf q w = .cvt) ∧ (b.vsrc allFmts sv = .go (some o)) ∧
      (b.vdst allFmts ((Fmt.ofCode (bits w 13 4)).getD .fp32) (bits w 38 11) = .go dst) ∧
      (vecShape [(spVal sv, o)] dsh false = some sh) ∧ (cvtPath sf dst.fmt = true) ∧ (vecFault [(spVal sv, o)] dsh false sh = none) ∧
      (b.room dst sh.n0 sh.rows = .go ())) ∧
    (let s : State := word .f 0xc00409804000000 (descs [(1, desc 0 0x1000 0 4 2), (2, desc 0 0x2000 1 4 2)]);
      let n : Nat := 0;
      let c : Ctx := .f;
      let w : Nat := 0xc00409804000000;
      let o : VSrc := .imm 0;
      let dst : VDst := .desc 2 (desc 0 0x2000 1 4 2);
      let sh : Shape := ⟨4, [2], false⟩;
      let q := seqOf c;
      let b := s.block n;
      let sv := bits w 27 11;
      let dsh := match dst with | .desc h d => some (h, descShape d) | _ => none;
      let sf := match o with
        | .tens d _ _ | .rowB d | .colB d => dF d
        | .queue qn _ => (match b.headFields qn with | some (some (f, _, _, _)) => f | _ => .fp32)
        | .imm _ => .fp32;
      (s.ready n q w) ∧ (opOf q w = .cvt) ∧ (b.vsrc allFmts sv = .go (some o)) ∧
      (b.vdst allFmts ((Fmt.ofCode (bits w 13 4)).getD .fp32) (bits w 38 11) = .go dst) ∧
      (vecShape [(spVal sv, o)] dsh false = some sh) ∧ (cvtPath sf dst.fmt = true) ∧ (vecFault [(spVal sv, o)] dsh false sh = none) ∧
      (b.room dst sh.n0 sh.rows = .go ())) ∧
    (let s : State := word .f 0xc0040a00c000000 (descs [(1, desc 0 0x1000 0 2 1), (2, desc 0 0x2000 1 4 2)]);
      let n : Nat := 0;
      let c : Ctx := .f;
      let w : Nat := 0xc0040a00c000000;
      let o : VSrc := .rowB (desc 0 0x1000 0 2 1);
      let dst : VDst := .desc 2 (desc 0 0x2000 1 4 2);
      let sh : Shape := ⟨4, [2], false⟩;
      let q := seqOf c;
      let b := s.block n;
      let sv := bits w 27 11;
      let dsh := match dst with | .desc h d => some (h, descShape d) | _ => none;
      let sf := match o with
        | .tens d _ _ | .rowB d | .colB d => dF d
        | .queue qn _ => (match b.headFields qn with | some (some (f, _, _, _)) => f | _ => .fp32)
        | .imm _ => .fp32;
      (s.ready n q w) ∧ (opOf q w = .cvt) ∧ (b.vsrc allFmts sv = .go (some o)) ∧
      (b.vdst allFmts ((Fmt.ofCode (bits w 13 4)).getD .fp32) (bits w 38 11) = .go dst) ∧
      (vecShape [(spVal sv, o)] dsh false = some sh) ∧ (cvtPath sf dst.fmt = true) ∧ (vecFault [(spVal sv, o)] dsh false sh = none) ∧
      (b.room dst sh.n0 sh.rows = .go ())) ∧
    (let s : State := word .f 0xc0040a80c000000 (descs [(1, desc 0 0x1000 0 4 1), (2, desc 0 0x2000 1 4 2)]);
      let n : Nat := 0;
      let c : Ctx := .f;
      let w : Nat := 0xc0040a80c000000;
      let o : VSrc := .colB (desc 0 0x1000 0 4 1);
      let dst : VDst := .desc 2 (desc 0 0x2000 1 4 2);
      let sh : Shape := ⟨4, [2], false⟩;
      let q := seqOf c;
      let b := s.block n;
      let sv := bits w 27 11;
      let dsh := match dst with | .desc h d => some (h, descShape d) | _ => none;
      let sf := match o with
        | .tens d _ _ | .rowB d | .colB d => dF d
        | .queue qn _ => (match b.headFields qn with | some (some (f, _, _, _)) => f | _ => .fp32)
        | .imm _ => .fp32;
      (s.ready n q w) ∧ (opOf q w = .cvt) ∧ (b.vsrc allFmts sv = .go (some o)) ∧
      (b.vdst allFmts ((Fmt.ofCode (bits w 13 4)).getD .fp32) (bits w 38 11) = .go dst) ∧
      (vecShape [(spVal sv, o)] dsh false = some sh) ∧ (cvtPath sf dst.fmt = true) ∧ (vecFault [(spVal sv, o)] dsh false sh = none) ∧
      (b.room dst sh.n0 sh.rows = .go ())) := by
  refine ⟨?_, ?_, ?_, ?_, ?_, ?_⟩ <;> decide +kernel

theorem test_meets_RowOperationsIssueOrMiss :
    (∀ ik ∈ tensorRows,
      let s : State := word .f (rowW ik.2) (rowB ik.2);
      let n : Nat := 0;
      let c : Ctx := .f;
      let w : Nat := rowW ik.2;
      let o : RowOps := goOf ⟨.imm 0, ⟨0, [], false⟩, 0, 0, 0, 0, 0, .nothing⟩ ((s.block n).rowOps w ik.2);
      let q := seqOf c;
      let b := s.block n;
      (s.ready n q w) ∧ (opOf q w = .row ik.2) ∧ (b.rowOps w ik.2 = .go o) ∧
      (b.rowMissK ik.2 0 (bits w 11 4) o.s.rows (bit w 4) (q == .b) = none) ∧ (∀ x ∈ b.jobs, x.id ≠ b.nextJob) ∧ ((match o.dst with | .desc 2 _ => true | _ => false) = true)) ∧
    (∃ ik ∈ tensorRows,
      let s : State := word .b (rowW ik.2) (rowB 0);
      let n : Nat := 0;
      let c : Ctx := .b;
      let w : Nat := rowW ik.2;
      let o : RowOps := goOf ⟨.imm 0, ⟨0, [], false⟩, 0, 0, 0, 0, 0, .nothing⟩ ((s.block n).rowOps w ik.2);
      let q := seqOf c;
      let b := s.block n;
      (s.ready n q w) ∧ (opOf q w = .row ik.2) ∧ (b.rowOps w ik.2 = .go o) ∧
      let e := (b.rowMissK ik.2 0 (bits w 11 4) o.s.rows (bit w 4) (q == .b)).getD (ErrI.of 0);
      (b.rowMissK ik.2 0 (bits w 11 4) o.s.rows (bit w 4) (q == .b) = some e)) ∧
    (let sl : Slot := ⟨5, kSM, true, 0, 0, true, false⟩;
      (sl.tagBad = true)) := by
  refine ⟨?_, ?_, ?_⟩ <;> decide +kernel

theorem test_meets_SlotReadsWhatWasPut :
    (let b : Block := Block.reset;
      let key : Nat := 2 ^ 32 - 1;
      let kind : Nat := 3;
      let v0 : Nat := 2 ^ 32 - 1;
      let v1 : Nat := 0;
      (b.sideT.errs = []) ∧ (b.sideV.errs = []) ∧ (key < 2 ^ 32) ∧ (kind < 4) ∧ (v0 < 2 ^ 32) ∧ (v1 < 2 ^ 32)) ∧
    (let b : Block := Block.reset;
      let i : Nat := 0;
      let key : Nat := 0;
      let kind : Nat := 0;
      let v0 : Nat := 0;
      let v1 : Nat := 0;
      (b.sideT.errs = []) ∧ (b.sideV.errs = []) ∧ (key < 2 ^ 32) ∧ (kind < 4) ∧ (v0 < 2 ^ 32) ∧ (v1 < 2 ^ 32) ∧
      let k := 8191;
      (k ≠ i)) := by
  refine ⟨?_, ?_⟩ <;> decide +kernel

theorem test_meets_MergeKeepsStatisticsAndWritesWeights :
    (let s : State := word .f 0x1700020080018000 (fun b => ((descs [(1, desc 0 0x1000 0 2 2), (2, desc 0 0x2000 0 2 1), (3, desc 0 0x3000 0 2 1)] b).putSlot 0 0 kSM 0 0).putSlot 1 1 kSM 0 0);
      let n : Nat := 0;
      let c : Ctx := .f;
      let w : Nat := 0x1700020080018000;
      let d : Nat := desc 0 0x1000 0 2 2;
      let ad : Nat := desc 0 0x2000 0 2 1;
      let bd : Nat := desc 0 0x3000 0 2 1;
      let q := seqOf c;
      let b := s.block n;
      (s.ready n q w) ∧ (opOf q w = .row 7) ∧ (b.operandNow (localSrc [.fp32]) (bits w 31 8) = .go d) ∧ (dN0 d = 2) ∧ (b.rowVec (bits w 40 8) (dOuter d) = .go ad) ∧ (b.rowVec (bits w 15 8) (dOuter d) = .go bd) ∧ (b.rowMissK 7 0 (bits w 11 4) (dOuter d) false (q == .b) = none)) := by
  decide +kernel

theorem test_meets_SlotCopiesIssue :
    (let s : State := word .f 0x1800020000000008 (fun b => ((descs [(2, desc 0 0x2000 0 1 2)] b).putSlot 0 0 kSM 0 0).putSlot 1 1 kSM 0 0);
      let n : Nat := 0;
      let c : Ctx := .f;
      let w : Nat := 0x1800020000000008;
      let d : Nat := desc 0 0x2000 0 1 2;
      let q := seqOf c;
      let b := s.block n;
      let kr := bits w 11 4;
      (s.ready n q w) ∧ (opOf q w = .row 8) ∧ (b.operandNow (localDst fromLane) (bits w 40 8) = .go d) ∧ (dN0 d = 1) ∧ (b.rowMissK 8 (bits w 2 2) kr (dOuter d) false (q == .b) = none)) ∧
    (let s : State := word .b 0x1900020000000000 (descs [(2, desc 0 0x2000 11 4 2)]);
      let n : Nat := 0;
      let c : Ctx := .b;
      let w : Nat := 0x1900020000000000;
      let d : Nat := desc 0 0x2000 11 4 2;
      let q := seqOf c;
      let b := s.block n;
      (s.ready n q w) ∧ (opOf q w = .row 9) ∧ (b.operandNow (localDst allFmts) (bits w 40 8) = .go d) ∧ (recordRow d = true)) ∧
    (let s : State := word .f 0x1a00000100000000 (descs [(2, desc 0 0x2000 11 4 2)]);
      let n : Nat := 0;
      let c : Ctx := .f;
      let w : Nat := 0x1a00000100000000;
      let d : Nat := desc 0 0x2000 11 4 2;
      let q := seqOf c;
      let b := s.block n;
      (s.ready n q w) ∧ (opOf q w = .row 10) ∧ (b.operandNow (localSrc allFmts) (bits w 31 8) = .go d) ∧ (recordRow d = true)) := by
  refine ⟨?_, ?_, ?_⟩ <;> decide +kernel

theorem test_meets_StationaryMatrixMultiplyIssues :
    (∀ ik ∈ arrayModes,
      let s : State := word .f (mmW ik.2 0x1CC) (fun b => { entry 0 .e4m3 8 2 (queue 0 4 0x8000 false b) with active := setOf ik.2 });
      let n : Nat := 0;
      let c : Ctx := .f;
      let w : Nat := mmW ik.2 0x1CC;
      let ds : List (Nat × Nat) := [];
      let b1 : Block := goOf Block.reset ((s.block n).takeTile true 0 2 .fp32 (modeOf ik.2).fam .f);
      let b2 : Block := ((b1.popEntry 0).getD (noTens, b1)).2;
      let t : Tens := ((b1.popEntry 0).getD (noTens, b1)).1;
      let q := seqOf c;
      let b := s.block n;
      let f := mmF w;
      let mode := modeOf ik.2;
      let bf := (Fmt.ofCode f.bfmt).getD .lg8f;
      (s.ready n q w) ∧ (opOf q w = .mm ik.2) ∧ (f.strm = false) ∧ (b.streaming = false) ∧ (b.spilling f.base = false) ∧ (b.drainDescs f.last f.chn f.out f.m false = .go ds) ∧ (b.active.valid = true) ∧ (b.active.pa = f.afmt) ∧ (b.active.pb = bf) ∧ (b.active.mirror = (mode != .mul)) ∧ (b.headIs f.aq f.afmt f.k f.m = .go ()) ∧ (b.takeTile f.init f.base f.m (afOf f.ext) mode.fam c = .go b1) ∧ (b1.popEntry f.aq = some (t, b2)) ∧
      ((f.m ≤ 7 ∧ b.arrCtl % 2 = 1))) ∧
    (∀ ik ∈ arrayModes,
      let s : State := word .f (mmW ik.2 0x1CC) (fun b => { entry 0 .e4m3 8 2 (queue 0 4 0x8000 false b) with active := setOf ik.2, arrCtl := 0 });
      let n : Nat := 0;
      let c : Ctx := .f;
      let w : Nat := mmW ik.2 0x1CC;
      let ds : List (Nat × Nat) := [];
      let b1 : Block := goOf Block.reset ((s.block n).takeTile true 0 2 .fp32 (modeOf ik.2).fam .f);
      let b2 : Block := ((b1.popEntry 0).getD (noTens, b1)).2;
      let t : Tens := ((b1.popEntry 0).getD (noTens, b1)).1;
      let q := seqOf c;
      let b := s.block n;
      let f := mmF w;
      let mode := modeOf ik.2;
      let bf := (Fmt.ofCode f.bfmt).getD .lg8f;
      (s.ready n q w) ∧ (opOf q w = .mm ik.2) ∧ (f.strm = false) ∧ (b.streaming = false) ∧ (b.spilling f.base = false) ∧ (b.drainDescs f.last f.chn f.out f.m false = .go ds) ∧ (b.active.valid = true) ∧ (b.active.pa = f.afmt) ∧ (b.active.pb = bf) ∧ (b.active.mirror = (mode != .mul)) ∧ (b.headIs f.aq f.afmt f.k f.m = .go ()) ∧ (b.takeTile f.init f.base f.m (afOf f.ext) mode.fam c = .go b1) ∧ (b1.popEntry f.aq = some (t, b2)) ∧
      (¬ (f.m ≤ 7 ∧ b.arrCtl % 2 = 1))) := by
  refine ⟨?_, ?_⟩ <;> decide +kernel

theorem test_meets_StreamedMatrixMultiplyIssues :
    (∀ ik ∈ arrayModes,
      let s : State := word .f (mmW ik.2 (2 ^ 61 + 16)) (fun b => entry 0 .e4m3 (if ik.2 = 0 then 32 else 8) 2 (queue 0 4 0x8000 false (descs [(1, desc 0 0x1000 3 64 4)] b)));
      let n : Nat := 0;
      let c : Ctx := .f;
      let w : Nat := mmW ik.2 (2 ^ 61 + 16);
      let d : Nat := desc 0 0x1000 3 64 4;
      let r : Option Nat := none;
      let ds : List (Nat × Nat) := [];
      let b1 : Block := goOf Block.reset ((s.block n).takeTile true 0 2 .fp32 (modeOf ik.2).fam .f);
      let q := seqOf c;
      let b := s.block n;
      let f := mmF w;
      let mode := modeOf ik.2;
      let mirror := mode != .mul;
      let ks := if mirror then kStepD f.afmt else kStep f.afmt (dF d);
      (s.ready n q w) ∧ (opOf q w = .mm ik.2) ∧ (f.strm = true) ∧ (b.streaming = false) ∧ (b.spilling f.base = false) ∧ (b.operand (localSrc [.bf16, .e4m3, .e5m2, .mx4, .mx5, .lg4, .lg8f, .lg8b]) f.bh = .go (d, r)) ∧ ((if mirror then dF d == f.afmt else pairOk f.afmt (dF d)) = true) ∧ (dN0 d ≤ 2 ^ 20) ∧ (dOuter d ≤ 32) ∧ (b.drainDescs f.last f.chn f.out f.m false = .go ds) ∧ (entWords f.afmt ks f.m ≤ ringWords (b.q f.aq).cfg) ∧ (b.headIs f.aq f.afmt ks f.m = .go ()) ∧ (b.takeTile f.init f.base f.m (afOf f.ext) mode.fam c = .go b1)) := by
  decide +kernel

theorem test_meets_BuildAndSwapStationarySets :
    (let s : State := word .f 0x800022000000000 (descs [(1, desc 0 0x1000 3 32 32)]);
      let n : Nat := 0;
      let c : Ctx := .f;
      let w : Nat := 0x800022000000000;
      let d : Nat := desc 0 0x1000 3 32 32;
      let r : Option Nat := none;
      let q := seqOf c;
      let b := s.block n;
      let bh := bits w 41 8;
      let pa := arrFmt (bits w 37 3);
      (s.ready n q w) ∧ (opOf q w = .bld) ∧ (b.streaming = false) ∧ (b.loading = none) ∧ (b.operand (localSrc [.bf16, .e4m3, .e5m2, .mx4, .mx5, .lg4, .lg8f, .lg8b]) bh = .go (d, r)) ∧ ((if bit w 40 then pa == dF d && pa != .lg4 else pairOk pa (dF d)) = true) ∧ (dRank d = 2) ∧ (dN0 d ≤ (if bit w 40 then kStepD (dF d) else kStep pa (dF d))) ∧ (dSize d 1 ≤ 32) ∧ (r = none)) ∧
    (let s : State := word .f 0x800022000000000 (fun b => { descs [(1, descFix (desc 0 0x1000 3 32 32 + 2 ^ 121))] b with pins := [⟨1, false, true, 0, 4, 1, 16⟩] });
      let n : Nat := 0;
      let c : Ctx := .f;
      let w : Nat := 0x800022000000000;
      let d : Nat := descFix (desc 0 0x1000 3 32 32 + 2 ^ 121);
      let r : Option Nat := some 16;
      let q := seqOf c;
      let b := s.block n;
      let bh := bits w 41 8;
      let pa := arrFmt (bits w 37 3);
      (s.ready n q w) ∧ (opOf q w = .bld) ∧ (b.streaming = false) ∧ (b.loading = none) ∧ (b.operand (localSrc [.bf16, .e4m3, .e5m2, .mx4, .mx5, .lg4, .lg8f, .lg8b]) bh = .go (d, r)) ∧ ((if bit w 40 then pa == dF d && pa != .lg4 else pairOk pa (dF d)) = true) ∧ (dRank d = 2) ∧ (dN0 d ≤ (if bit w 40 then kStepD (dF d) else kStep pa (dF d))) ∧ (dSize d 1 ≤ 32) ∧ (r ≠ none)) ∧
    (let s : State := word .b 0x900000000000000;
      let n : Nat := 0;
      let c : Ctx := .b;
      let w : Nat := 0x900000000000000;
      let q := seqOf c;
      let b := s.block n;
      (s.ready n q w) ∧ (opOf q w = .swp) ∧ (b.streaming = false) ∧ (b.loading = none)) ∧
    (let s : State := word .b 0x800022000000000 (fun b => { b with loading := some (0, TSet.invalid) });
      let n : Nat := 0;
      let c : Ctx := .b;
      let w : Nat := 0x800022000000000;
      (s.ready n (seqOf c) w) ∧ ((s.block n).streaming = true ∨ (s.block n).loading.isSome = true) ∧ (opOf (seqOf c) w = .bld)) ∧
    (let s : State := word .b 0x900000000000000 (fun b => { b with jobs := [strmJob] });
      let n : Nat := 0;
      let c : Ctx := .b;
      let w : Nat := 0x900000000000000;
      (s.ready n (seqOf c) w) ∧ ((s.block n).streaming = true ∨ (s.block n).loading.isSome = true) ∧ (opOf (seqOf c) w = .swp)) := by
  refine ⟨?_, ?_, ?_, ?_, ?_⟩ <;> decide +kernel

theorem test_meets_SpillAndResumeIssue :
    (let s : State := word .f 0xa00000020020000 (fun b => tile 2 .fp32 .sum (descs [(1, desc 0 0x1000 2 32 2)] b));
      let n : Nat := 0;
      let c : Ctx := .f;
      let w : Nat := 0xa00000020020000;
      let d : Nat := desc 0 0x1000 2 32 2;
      let t : Tile := Tile.fresh 0 2 .fp32 .sum .f;
      let q := seqOf c;
      let b := s.block n;
      let h := bits w 17 8;
      (s.ready n q w) ∧ (opOf q w = .spl) ∧ (b.spilling (bits w 39 10) = false) ∧ (b.openTile (bits w 39 10) (bits w 29 10 + 1) (afOf (bit w 28)) (splFam (bits w 26 2)) c = .go t) ∧ (b.wideDesc h (some (bits w 29 10 + 1)) true = .go d)) ∧
    (let s : State := word .f 0xb00000040000000 (fun b => { descs [(1, desc 0 0x1000 2 32 2)] b with spad := b.spad.put 0x1000 (toLE 8 (2 ^ 62 + 3 * 2 ^ 59)) });
      let n : Nat := 0;
      let c : Ctx := .f;
      let w : Nat := 0xb00000040000000;
      let d : Nat := desc 0 0x1000 2 32 2;
      let fam : Fam := .ssq;
      let q := seqOf c;
      let b := s.block n;
      let h := bits w 30 8;
      let base := bits w 39 10;
      let af := afOf (bit w 38);
      let hd := b.wideHdr (dAddr d);
      (s.ready n q w) ∧ (opOf q w = .rsm) ∧ (b.spilling base = false) ∧ (b.wideDesc h none false = .go d) ∧ (base + accRows af (dSize d 1) ≤ 1024) ∧ (hd.valid = true) ∧ (famOf hd.fam = some fam) ∧ (b.canOpen base (accRows af (dSize d 1)) = .go ())) ∧
    (let s : State := word .f 0xa00000020020000 (fun b => { tile 2 .fp32 .sum b with jobs := [{ job 0 with kind := .spl, word := 0xa00000020020000, rem := 1 }] });
      let n : Nat := 0;
      let c : Ctx := .f;
      let w : Nat := 0xa00000020020000;
      (s.ready n (seqOf c) w) ∧ ((s.block n).spilling (bits w 39 10) = true) ∧ (opOf (seqOf c) w = .spl)) ∧
    (let s : State := word .f 0xb00000040000000 (fun b => { tile 2 .fp32 .sum b with jobs := [{ job 0 with kind := .spl, word := 0xa00000020020000, rem := 1 }] });
      let n : Nat := 0;
      let c : Ctx := .f;
      let w : Nat := 0xb00000040000000;
      (s.ready n (seqOf c) w) ∧ ((s.block n).spilling (bits w 39 10) = true) ∧ (opOf (seqOf c) w = .rsm)) := by
  refine ⟨?_, ?_, ?_, ?_⟩ <;> decide +kernel

theorem test_meets_QueuePushAndPop :
    (let s : State := word .f 0xd01804000000000 (fun b => queue 6 1 0x8000 false (descs [(1, desc 0 0x1000 0 4 2)] b));
      let n : Nat := 0;
      let c : Ctx := .f;
      let w : Nat := 0xd01804000000000;
      let d : Nat := desc 0 0x1000 0 4 2;
      let b1 : Block := (((s.block n).touch (dRuns d)).reserve 6 (entWords .fp32 4 2) (some (s.block n).nextJob)).getD Block.reset;
      let q := seqOf c;
      let b := s.block n;
      let qn := bits w 46 3;
      let h := bits w 38 8;
      (s.ready n q w) ∧ (opOf q w = .qPush) ∧ (b.operandNow (localSrc allFmts) h = .go d) ∧ (b.room (.queue qn (dF d)) (dN0 d) (dOuter d) = .go ()) ∧ ((b.touch (dRuns d)).reserve qn (entWords (dF d) (dN0 d) (dOuter d)) (some b.nextJob) = some b1)) ∧
    (let s : State := word .f 0xe00002000000000 (fun b => entry 0 .fp32 4 2 (queue 0 4 0x8000 false b));
      let n : Nat := 0;
      let c : Ctx := .f;
      let w : Nat := 0xe00002000000000;
      let x : Option (Fmt × Nat × Nat × Bool) := some (.fp32, 4, 2, false);
      let q := seqOf c;
      let b := s.block n;
      (s.ready n q w) ∧ (opOf q w = .qPop) ∧ (b.headFields (bits w 46 3) = some x) ∧ (bit w 37 = true)) ∧
    (let s : State := word .f 0xe00004000000000 (fun b => entry 0 .fp32 4 2 (queue 0 4 0x8000 false (descs [(1, desc 0 0x1000 0 4 2)] b)));
      let n : Nat := 0;
      let c : Ctx := .f;
      let w : Nat := 0xe00004000000000;
      let d : Nat := desc 0 0x1000 0 4 2;
      let n0 : Nat := 4;
      let n1 : Nat := 2;
      let f : Fmt := .fp32;
      let p : Bool := false;
      let t : Tens := (((s.block n).popEntry 0).getD (noTens, Block.reset)).1;
      let b1 : Block := (((s.block n).popEntry 0).getD (noTens, Block.reset)).2;
      let q := seqOf c;
      let b := s.block n;
      let h := bits w 38 8;
      (s.ready n q w) ∧ (opOf q w = .qPop) ∧ (b.headFields (bits w 46 3) = some (some (f, n0, n1, p))) ∧ (bit w 37 = false) ∧ (b.operandNow (localDst allFmts) h = .go d) ∧ (f = dF d) ∧ (n0 = dN0 d) ∧ (n1 = dOuter d) ∧ (b.popEntry (bits w 46 3) = some (t, b1))) ∧
    (let s : State := word .f 0xe00004000000000 (queue 0 4 0x8000 false);
      let n : Nat := 0;
      let c : Ctx := .f;
      let w : Nat := 0xe00004000000000;
      (s.ready n (seqOf c) w) ∧ (opOf (seqOf c) w = .qPop) ∧ ((s.block n).headFields (bits w 46 3) = none)) := by
  refine ⟨?_, ?_, ?_, ?_⟩ <;> decide +kernel

theorem test_meets_ArrayEventsChangeTheirBlock :
    (let s : State := blk (fun b => { b with loading := some (7, setOf 0), jobs := [job 7] });
      let n : Nat := 0;
      (n < 144) ∧ (s.works n = true) ∧
      let b := s.block n;
      let id := 7;
      let set := setOf 0;
      (b.loading = some (id, set)) ∧ (set.valid = true)) ∧
    (let s : State := at_ 1000 (blk (fun b => { b with packed := [⟨0, 0, 0, [], [], false, 0⟩], packT := 0 }));
      let n : Nat := 0;
      (n < 144) ∧ (s.works n = true) ∧
      let b := s.block n;
      (b.packed ≠ []) ∧ (s.holdOver n = true)) ∧
    (let s : State := blk (fun b => { b with arrCtl := 65472, packed := [⟨0, 0, 0, [], [], false, 0⟩] });
      let n : Nat := 0;
      (n < 144) ∧ (s.works n = true) ∧
      let b := s.block n;
      (s.holdOver n = false)) ∧
    (let s : State := blk (fun b => { b with slabs := [⟨[(0, 0, 1)], 0, 0, none⟩] });
      let n : Nat := 0;
      (n < 144) ∧ (s.works n = true) ∧
      let b := s.block n;
      let sl := ⟨[(0, 0, 1)], 0, 0, none⟩;
      let rest := [];
      (b.slabs = sl :: rest) ∧ (sl.fail = none)) ∧
    (let s : State := blk (fun b => { tile 2 .fp32 .sum b with jobs := [{ job 0 with kind := .spl, word := 0xa00000020020000, descs := [(1, desc 0 0x1000 2 32 2)], rem := 1 }] });
      let n : Nat := 0;
      (n < 144) ∧ (s.works n = true) ∧
      let b := s.block n;
      let k := (s.block n).spillDone.getD Block.reset;
      (b.spillDone = some k)) ∧
    (let s : State := blk (fun b => { tile 2 .fp32 .sum b with drains := [0], jobs := [{ job 0 with kind := .mm, drain := some (1, 0), descs := [(1, desc 0 0x1000 0 32 2)] }], slabs := [⟨[(0, 0, 1)], 0, 0, none⟩] });
      let n : Nat := 0;
      (n < 144) ∧ (s.works n = true) ∧
      let b := s.block n;
      let id := 0;
      let rest := [];
      let j := { job 0 with kind := .mm, drain := some (1, 0), descs := [(1, desc 0 0x1000 0 32 2)] };
      let t := Tile.fresh 0 2 .fp32 .sum .f;
      (b.drains = id :: rest) ∧ (b.job id = some j) ∧ (b.tileAt (jobBase j) = some t) ∧
      let r := b.drainJob j t;
      (b.slabsOpen (jobBase j) = true)) ∧
    (let s : State := blk (fun b => { tile 2 .fp32 .sum b with drains := [0], jobs := [{ job 0 with kind := .mm, drain := some (1, 0), descs := [(1, desc 0 0x1000 0 32 2)] }] });
      let n : Nat := 0;
      (n < 144) ∧ (s.works n = true) ∧
      let b := s.block n;
      let id := 0;
      let rest := [];
      let j := { job 0 with kind := .mm, drain := some (1, 0), descs := [(1, desc 0 0x1000 0 32 2)] };
      let t := Tile.fresh 0 2 .fp32 .sum .f;
      (b.drains = id :: rest) ∧ (b.job id = some j) ∧ (b.tileAt (jobBase j) = some t) ∧
      let r := b.drainJob j t;
      (b.slabsOpen (jobBase j) = false) ∧ (r.2 = [])) ∧
    (let s : State := region 1 (fun g => { g with st := .retain, goal := .run, move := some (.armed, 0) }) (blk (fun b => { tile 2 .fp32 .sum b with drains := [0], jobs := [{ job 0 with kind := .mm, drain := some (1, 2), descs := [(1, desc 4 (2 ^ 21 * 37) 8 32 2)] }] }));
      let n : Nat := 0;
      (n < 144) ∧ (s.works n = true) ∧
      let b := s.block n;
      let id := 0;
      let rest := [];
      let j := { job 0 with kind := .mm, drain := some (1, 2), descs := [(1, desc 4 (2 ^ 21 * 37) 8 32 2)] };
      let t := Tile.fresh 0 2 .fp32 .sum .f;
      (b.drains = id :: rest) ∧ (b.job id = some j) ∧ (b.tileAt (jobBase j) = some t) ∧
      let r := b.drainJob j t;
      let x := (r.2.head?).getD default;
      let more := r.2.tail;
      (b.slabsOpen (jobBase j) = false) ∧ (r.2 = x :: more) ∧ (s.regionGate (x.1 / 2 ^ 21 / 36) = .wait)) ∧
    (let s : State := blk (fun b => { tile 2 .fp32 .sum b with drains := [0], jobs := [{ job 0 with kind := .mm, drain := some (1, 2), descs := [(1, desc 4 (2 ^ 21 * 37) 8 32 2)] }] });
      let n : Nat := 0;
      (n < 144) ∧ (s.works n = true) ∧
      let b := s.block n;
      let id := 0;
      let rest := [];
      let j := { job 0 with kind := .mm, drain := some (1, 2), descs := [(1, desc 4 (2 ^ 21 * 37) 8 32 2)] };
      let t := Tile.fresh 0 2 .fp32 .sum .f;
      (b.drains = id :: rest) ∧ (b.job id = some j) ∧ (b.tileAt (jobBase j) = some t) ∧
      let r := b.drainJob j t;
      let x := (r.2.head?).getD default;
      let more := r.2.tail;
      (b.slabsOpen (jobBase j) = false) ∧ (r.2 = x :: more) ∧ (s.regionGate (x.1 / 2 ^ 21 / 36) = .ok)) ∧
    (let s : State := region 1 (fun g => { g with st := .retain }) (blk (fun b => { tile 2 .fp32 .sum b with drains := [0], jobs := [{ job 0 with kind := .mm, drain := some (1, 2), descs := [(1, desc 4 (2 ^ 21 * 37) 8 32 2)] }] }));
      let n : Nat := 0;
      (n < 144) ∧ (s.works n = true) ∧
      let b := s.block n;
      let id := 0;
      let rest := [];
      let j := { job 0 with kind := .mm, drain := some (1, 2), descs := [(1, desc 4 (2 ^ 21 * 37) 8 32 2)] };
      let t := Tile.fresh 0 2 .fp32 .sum .f;
      (b.drains = id :: rest) ∧ (b.job id = some j) ∧ (b.tileAt (jobBase j) = some t) ∧
      let r := b.drainJob j t;
      let x := (r.2.head?).getD default;
      let more := r.2.tail;
      (b.slabsOpen (jobBase j) = false) ∧ (r.2 = x :: more) ∧ (s.regionGate (x.1 / 2 ^ 21 / 36) = .refused)) := by
  refine ⟨?_, ?_, ?_, ?_, ?_, ?_, ?_, ?_, ?_, ?_⟩ <;> decide +kernel

theorem test_meets_FailedVerdictStopsTheBlock :
    (let s : State := blk (fun b => { b with slabs := [⟨[(0, 0, 1)], 1023, 65536, some 3⟩] });
      let n : Nat := 0;
      let g : Nat := 3;
      let sl : Slab := ⟨[(0, 0, 1)], 1023, 65536, some 3⟩;
      let rest : List Slab := [];
      (n < 144) ∧ (s.works n = true) ∧ ((s.block n).slabs = sl :: rest) ∧ (sl.fail = some g) ∧
      let m := 143;
      (m ≠ n)) := by
  decide +kernel

theorem test_meets_StreamPassRunsNextTile :
    (let s : State := blk (fun b => { entry 0 .e4m3 32 2 (queue 0 4 0x8000 false b) with jobs := [strmJob] });
      let n : Nat := 0;
      let j : Job := strmJob;
      let x : Strm := ⟨desc 0 0x1000 3 64 4, ⟨.mul, .e4m3, .e4m3, false⟩, 32, 4, 0, 2, 2, 0, 0⟩;
      let t : Tens := (((s.block n).popEntry 0).getD (noTens, Block.reset)).1;
      let b1 : Block := (((s.block n).popEntry 0).getD (noTens, Block.reset)).2;
      (n < 144) ∧ (s.works n = true) ∧
      let b := s.block n;
      (b.jobs.find? (fun j => match j.strm with | some x => decide (x.pass < x.passes) | none => false) = some j) ∧ (b.loading = none) ∧ (j.strm = some x) ∧ (j.started = true) ∧ (b.headIs x.aq x.key.afmt x.k x.m = .go ()) ∧ (b.popEntry x.aq = some (t, b1))) := by
  decide +kernel

theorem test_meets_EntryCommitCompletesItsJob :
    (let s : State := blk (fun b => { b with qs := b.qs.set 7 ⟨⟨false, true, 1, 0x8000⟩, 3, [⟨0, 3, false, some 5⟩]⟩, jobs := [{ job 5 with rem := 1 }] });
      let n : Nat := 0;
      let qn : Nat := 7;
      let i : Nat := 0;
      let id : Nat := 5;
      let e : QEnt := ⟨0, 3, false, some 5⟩;
      let j : Job := { job 5 with rem := 1 };
      (n < 144) ∧ (qn < 8) ∧ (s.works n = true) ∧
      let b := s.block n;
      ((b.q qn).ents[i]? = some e) ∧ (e.job = some id) ∧ (b.job id = some j) ∧ (e.done = false) ∧ (j.started = true) ∧ (j.rem = 1) ∧ (j.done = false) ∧ (j.err = none)) := by
  decide +kernel

theorem test_meets_CompletionWritesStatusAndToken :
    (let s : State := blk (fun b => { b with jobs := [{ job 4 with kind := .mm, packed := true }, { job 5 with kind := .mm, packed := true, done := true }] });
      let n : Nat := 0;
      let id : Nat := 5;
      let j : Job := { job 5 with kind := .mm, packed := true, done := true };
      (n < 144) ∧ (s.pwr.stopped = false) ∧
      let b := s.block n;
      let first := ¬ (j.packed = true ∧ ∃ x ∈ b.jobs, x.packed = true ∧ x.id < j.id);
      (b.job id = some j) ∧ (j.done = true) ∧ (j.err = none) ∧ (j.kind ≠ .sig) ∧
      (¬ first)) ∧
    (let s : State := blk (fun b => { b with jobs := [{ job 5 with done := true, dst := some 2 }] });
      let n : Nat := 0;
      let id : Nat := 5;
      let j : Job := { job 5 with done := true, dst := some 2 };
      (n < 144) ∧ (s.pwr.stopped = false) ∧
      let b := s.block n;
      let first := ¬ (j.packed = true ∧ ∃ x ∈ b.jobs, x.packed = true ∧ x.id < j.id);
      (b.job id = some j) ∧ (j.done = true) ∧ (j.err = none) ∧ (j.kind ≠ .sig) ∧
      (first) ∧ (j.tok = none)) ∧
    (let s : State := blk (fun b => { b with toks := b.toks.set 63 65534, jobs := [{ job 5 with done := true, tok := some 63 }] });
      let n : Nat := 0;
      let id : Nat := 5;
      let j : Job := { job 5 with done := true, tok := some 63 };
      (n < 144) ∧ (s.pwr.stopped = false) ∧
      let b := s.block n;
      let first := ¬ (j.packed = true ∧ ∃ x ∈ b.jobs, x.packed = true ∧ x.id < j.id);
      (b.job id = some j) ∧ (j.done = true) ∧ (j.err = none) ∧ (j.kind ≠ .sig) ∧
      let t := 63;
      (first) ∧ (j.tok = some t) ∧ (b.toks.getD t 0 + 1 ≤ 65535)) ∧
    (let s : State := blk (fun b => { b with toks := b.toks.set 63 65535, jobs := [{ job 5 with done := true, tok := some 63 }] });
      let n : Nat := 0;
      let id : Nat := 5;
      let j : Job := { job 5 with done := true, tok := some 63 };
      (n < 144) ∧ (s.pwr.stopped = false) ∧
      let b := s.block n;
      let first := ¬ (j.packed = true ∧ ∃ x ∈ b.jobs, x.packed = true ∧ x.id < j.id);
      (b.job id = some j) ∧ (j.done = true) ∧ (j.err = none) ∧ (j.kind ≠ .sig) ∧
      let t := 63;
      (first) ∧ (j.tok = some t) ∧ (65535 < b.toks.getD t 0 + 1)) := by
  refine ⟨?_, ?_, ?_, ?_⟩ <;> decide +kernel

theorem test_meets_ErrorsAndHangsStopTheBlock :
    (let s : State := blk (fun b => { b with jobs := [{ job 5 with err := some (ErrI.of 0x18) }] });
      let n : Nat := 0;
      let id : Nat := 5;
      let j : Job := { job 5 with err := some (ErrI.of 0x18) };
      let e : ErrI := ErrI.of 0x18;
      (n < 144) ∧ (s.pwr.stopped = false) ∧ ((s.block n).job id = some j) ∧ (j.err = some e)) ∧
    (let s : State := blk (fun b => { b with run := { b.run with wdog := 100 }, wd := 100, imA := [iw 0x300000800000000] });
      let n : Nat := 0;
      (n < 144) ∧ ((s.block n).st = .running) ∧ ((s.block n).run.wdog ≠ 0) ∧ ((s.block n).run.wdog ≤ (s.block n).wd) ∧ (s.wdHeld n = false)) := by
  refine ⟨?_, ?_⟩ <;> decide +kernel

theorem test_meets_BlockFaultStopsAndFences :
    (let s : State := blk (fun b => { b with jobs := [job 5] });
      let n : Nat := 0;
      ((s.block n).st = .running) ∧
      let b := s.block n;
      (s.boot.restart = false) ∧ (s.boot.halted = false) ∧ (b.evs = [])) ∧
    (let s : State := blk (fun b => { b with jobs := [job 5] });
      let n : Nat := 0;
      ((s.block n).st = .running) ∧
      let m := 143;
      (m ≠ n)) := by
  refine ⟨?_, ?_⟩ <;> decide +kernel

theorem test_meets_LoadAndStoreIssue :
    (let s : State := word .a 0x2000004020000000 (descs [(1, desc 4 0x1000 0 4 2), (2, desc 0 0x2000 0 4 2)]);
      let n : Nat := 0;
      let w : Nat := 0x2000004020000000;
      let sd : Nat := desc 4 0x1000 0 4 2;
      let dd : Nat := desc 0 0x2000 0 4 2;
      let j1 : Job := (goOf (0, job 0) ((s.block n).aOperand accessSrc (bits w 29 8) { (s.block n).freshJob .a w .copy with started := false })).2;
      let j2 : Job := (goOf (0, job 0) ((s.block n).aOperand accessDst (bits w 37 8) j1)).2;
      let b := s.block n;
      let j0 : Job := { b.freshJob .a w .copy with started := false };
      (s.ready n .a w) ∧ (bit w 48 = false) ∧ (b.aOperand accessSrc (bits w 29 8) j0 = .go (sd, j1)) ∧ (b.aOperand accessDst (bits w 37 8) j1 = .go (dd, j2)) ∧ (dF dd = dF sd) ∧ (dN0 dd = dN0 sd) ∧ (dOuter dd = dOuter sd) ∧
      (opOf .a w = .ld)) ∧
    (let s : State := word .a 0x2100004020000000 (descs [(1, desc 4 0x1000 0 4 2), (2, desc 0 0x2000 0 4 2)]);
      let n : Nat := 0;
      let w : Nat := 0x2100004020000000;
      let sd : Nat := desc 4 0x1000 0 4 2;
      let dd : Nat := desc 0 0x2000 0 4 2;
      let j1 : Job := (goOf (0, job 0) ((s.block n).aOperand accessSrc (bits w 29 8) { (s.block n).freshJob .a w .copy with started := false })).2;
      let j2 : Job := (goOf (0, job 0) ((s.block n).aOperand accessDst (bits w 37 8) j1)).2;
      let b := s.block n;
      let j0 : Job := { b.freshJob .a w .copy with started := false };
      (s.ready n .a w) ∧ (bit w 48 = false) ∧ (b.aOperand accessSrc (bits w 29 8) j0 = .go (sd, j1)) ∧ (b.aOperand accessDst (bits w 37 8) j1 = .go (dd, j2)) ∧ (dF dd = dF sd) ∧ (dN0 dd = dN0 sd) ∧ (dOuter dd = dOuter sd) ∧
      (opOf .a w = .st)) ∧
    (let s : State := word .a 0x2001a00020000000 (fun b => queue 5 1 0x8000 false (descs [(1, desc 4 0x1000 0 4 2), (2, desc 0 0x2000 0 4 2)] b));
      let n : Nat := 0;
      let w : Nat := 0x2001a00020000000;
      let sd : Nat := desc 4 0x1000 0 4 2;
      let j1 : Job := (goOf (0, job 0) ((s.block n).aOperand accessSrc (bits w 29 8) { (s.block n).freshJob .a w .copy with started := false })).2;
      let b1 : Block := ((s.block n).reserve 5 (entWords .fp32 4 2) (some (s.block n).nextJob)).getD Block.reset;
      let b := s.block n;
      let qn := bits w 45 3;
      (s.ready n .a w) ∧ (opOf .a w = .ld) ∧ (bit w 48 = true) ∧ (queueBound b .a qn false = true) ∧ (b.aOperand accessSrc (bits w 29 8) { b.freshJob .a w .copy with started := false } = .go (sd, j1)) ∧ (b.room (.queue qn (dF sd)) (dN0 sd) (dOuter sd) = .go ()) ∧ (b.reserve qn (entWords (dF sd) (dN0 sd) (dOuter sd)) (some b.nextJob) = some b1)) ∧
    (let s : State := word .a 0x2101c04000000000 (fun b => entry 6 .fp32 4 2 (queue 6 1 0x8000 false (descs [(1, desc 4 0x1000 0 4 2), (2, desc 0 0x2000 0 4 2)] b)));
      let n : Nat := 0;
      let w : Nat := 0x2101c04000000000;
      let dd : Nat := desc 0 0x2000 0 4 2;
      let n0 : Nat := 4;
      let n1 : Nat := 2;
      let f : Fmt := .fp32;
      let p : Bool := false;
      let j1 : Job := (goOf (0, job 0) ((s.block n).aOperand accessDst (bits w 37 8) { (s.block n).freshJob .a w .copy with started := false })).2;
      let t : Tens := (((s.block n).popEntry 6).getD (noTens, Block.reset)).1;
      let b1 : Block := (((s.block n).popEntry 6).getD (noTens, Block.reset)).2;
      let b := s.block n;
      let qn := bits w 45 3;
      (s.ready n .a w) ∧ (opOf .a w = .st) ∧ (bit w 48 = true) ∧ (queueBound b .a qn true = true) ∧ (b.headFields qn = some (some (f, n0, n1, p))) ∧ (b.aOperand accessDst (bits w 37 8) { b.freshJob .a w .copy with started := false } = .go (dd, j1)) ∧ (f = dF dd) ∧ (n0 = dN0 dd) ∧ (n1 = dOuter dd) ∧ (b.popEntry qn = some (t, b1))) := by
  refine ⟨?_, ?_, ?_, ?_⟩ <;> decide +kernel

theorem test_meets_GatherAndScatterIssue :
    (let s : State := word .a 0x2200004020000000 (descs [(1, descFix (desc 4 0x1000 0 4 2 + 3 * 2 ^ 112 + 2 ^ 120)), (2, desc 0 0x2000 0 4 3), (3, descFix (0x3000 + 11 * 2 ^ 55 + 2 ^ 59 + 2 * 2 ^ 128 + 2 ^ 256))]);
      let n : Nat := 0;
      let w : Nat := 0x2200004020000000;
      let sd : Nat := descFix (desc 4 0x1000 0 4 2 + 3 * 2 ^ 112 + 2 ^ 120);
      let ix : Nat := descFix (0x3000 + 11 * 2 ^ 55 + 2 ^ 59 + 2 * 2 ^ 128 + 2 ^ 256);
      let dd : Nat := desc 0 0x2000 0 4 3;
      let j1 : Job := (goOf (0, job 0) ((s.block n).aOperand { accessSrc with indexed := true } (bits w 29 8) { (s.block n).freshJob .a w .copy with started := false })).2;
      let j2 : Job := (goOf (0, job 0) ((s.block n).aIndex sd j1)).2;
      let j3 : Job := (goOf (0, job 0) ((s.block n).aOperand accessDst (bits w 37 8) j2)).2;
      let b := s.block n;
      (s.ready n .a w) ∧ (opOf .a w = .gth) ∧ (bit w 48 = false) ∧ (b.aOperand { accessSrc with indexed := true } (bits w 29 8) { b.freshJob .a w .copy with started := false } = .go (sd, j1)) ∧ (b.aIndex sd j1 = .go (ix, j2)) ∧ (¬ (dRank sd = 1 ∧ (dF sd).scaled = true)) ∧ (b.aOperand accessDst (bits w 37 8) j2 = .go (dd, j3)) ∧ (dF dd = dF sd) ∧ (dN0 dd = (idxShape sd (dN0 ix)).1) ∧ (dOuter dd = (idxShape sd (dN0 ix)).2)) ∧
    (let s : State := word .a 0x2300004080000000 (descs [(1, descFix (desc 4 0x1000 0 4 2 + 3 * 2 ^ 112 + 2 ^ 120)), (2, desc 0 0x2000 0 4 3), (3, descFix (0x3000 + 11 * 2 ^ 55 + 2 ^ 59 + 2 * 2 ^ 128 + 2 ^ 256))]);
      let n : Nat := 0;
      let w : Nat := 0x2300004080000000;
      let dd : Nat := descFix (desc 4 0x1000 0 4 2 + 3 * 2 ^ 112 + 2 ^ 120);
      let ix : Nat := descFix (0x3000 + 11 * 2 ^ 55 + 2 ^ 59 + 2 * 2 ^ 128 + 2 ^ 256);
      let sd : Nat := desc 0 0x2000 0 4 3;
      let j1 : Job := (goOf (0, job 0) ((s.block n).aOperand { spaces := [3, 4, 5], fmts := scaFmts, indexed := true, dest := true } (bits w 38 8) { (s.block n).freshJob .a w .sca with started := false })).2;
      let j2 : Job := (goOf (0, job 0) ((s.block n).aIndex dd j1)).2;
      let j3 : Job := (goOf (0, job 0) ((s.block n).aOperand { spaces := aSpaces, fmts := scaFmts } (bits w 30 8) j2)).2;
      let b := s.block n;
      (s.ready n .a w) ∧ (opOf .a w = .sca) ∧ (bit w 46 = false) ∧ (b.aOperand { spaces := [3, 4, 5], fmts := scaFmts, indexed := true, dest := true } (bits w 38 8)
      { b.freshJob .a w .sca with started := false } = .go (dd, j1)) ∧ (b.aIndex dd j1 = .go (ix, j2)) ∧ ((dISpace dd = 3 ∨ dISpace dd = 4)) ∧ (b.aOperand { spaces := aSpaces, fmts := scaFmts } (bits w 30 8) j2 = .go (sd, j3)) ∧ (dF sd = dF dd) ∧ (dSizes sd = (if dRank dd = 1 then [dN0 ix] else (dSizes dd).dropLast ++ [dN0 ix]))) := by
  refine ⟨?_, ?_⟩ <;> decide +kernel

theorem test_meets_AccessStartsWaitsOrFails :
    (let s : State := { blk (fun b => { b with jobs := [{ Job.mk0 7 .a 3 0x2000004020000000 .copy with started := false, descs := [(1, desc 4 0x1000 0 4 2), (2, desc 0 0x2000 0 4 2)] }] }) with stks := on.stks.set 0 { on.stack 0 with st := .failed } };
      let n : Nat := 0;
      let id : Nat := 7;
      let j : Job := { Job.mk0 7 .a 3 0x2000004020000000 .copy with started := false, descs := [(1, desc 4 0x1000 0 4 2), (2, desc 0 0x2000 0 4 2)] };
      ((s.block n).job id = some j) ∧ (j.started = false) ∧ (j.awaits = []) ∧ ((opOf j.seq j.word = .ld ∨ opOf j.seq j.word = .st)) ∧ (j.desc 256 = none) ∧
      let hd := (1, desc 4 0x1000 0 4 2);
      (j.descs.find? (fun hd => s.descGate n hd.2 == .refused) = some hd)) ∧
    (let s : State := { blk (fun b => { b with jobs := [{ Job.mk0 7 .a 3 0x2000004020000000 .copy with started := false, descs := [(1, desc 4 0x1000 0 4 2), (2, desc 0 0x2000 0 4 2)] }] }) with stks := on.stks.set 0 { on.stack 0 with st := .selfRefresh } };
      let n : Nat := 0;
      let id : Nat := 7;
      let j : Job := { Job.mk0 7 .a 3 0x2000004020000000 .copy with started := false, descs := [(1, desc 4 0x1000 0 4 2), (2, desc 0 0x2000 0 4 2)] };
      ((s.block n).job id = some j) ∧ (j.started = false) ∧ (j.awaits = []) ∧ ((opOf j.seq j.word = .ld ∨ opOf j.seq j.word = .st)) ∧ (j.desc 256 = none) ∧
      (j.descs.find? (fun hd => s.descGate n hd.2 == .refused) = none) ∧ (j.descs.any (fun hd => s.descGate n hd.2 == .wait) = true)) ∧
    (let s : State := (blk (fun b => { b with sec := true, jobs := [{ Job.mk0 7 .a 3 0x2000004020000000 .copy with started := false, descs := [(1, desc 1 0x1C1000 0 4 2), (2, desc 0 0x2000 0 4 2)] }] }));
      let n : Nat := 0;
      let id : Nat := 7;
      let j : Job := { Job.mk0 7 .a 3 0x2000004020000000 .copy with started := false, descs := [(1, desc 1 0x1C1000 0 4 2), (2, desc 0 0x2000 0 4 2)] };
      ((s.block n).job id = some j) ∧ (j.started = false) ∧ (j.awaits = []) ∧ ((opOf j.seq j.word = .ld ∨ opOf j.seq j.word = .st)) ∧ (j.desc 256 = none) ∧
      let hd := (1, desc 1 0x1C1000 0 4 2);
      (j.descs.find? (fun hd => s.descGate n hd.2 == .refused) = none) ∧ (j.descs.any (fun hd => s.descGate n hd.2 == .wait) = false) ∧ (j.descs.find? (fun hd => s.descDenied hd.2) = some hd)) ∧
    (let s : State := blk (fun b => { b with jobs := [{ Job.mk0 7 .a 3 0x2000004020000000 .copy with started := false, descs := [(1, desc 4 0x1000 0 4 2), (2, desc 0 0x2000 0 4 2)] }] });
      let n : Nat := 0;
      let id : Nat := 7;
      let j : Job := { Job.mk0 7 .a 3 0x2000004020000000 .copy with started := false, descs := [(1, desc 4 0x1000 0 4 2), (2, desc 0 0x2000 0 4 2)] };
      ((s.block n).job id = some j) ∧ (j.started = false) ∧ (j.awaits = []) ∧ ((opOf j.seq j.word = .ld ∨ opOf j.seq j.word = .st)) ∧ (j.desc 256 = none) ∧
      (j.descs.find? (fun hd => s.descGate n hd.2 == .refused) = none) ∧ (j.descs.any (fun hd => s.descGate n hd.2 == .wait) = false) ∧ (j.descs.find? (fun hd => s.descDenied hd.2) = none)) := by
  refine ⟨?_, ?_, ?_, ?_⟩ <;> decide +kernel

theorem test_meets_CopyWritesItsRuns :
    (let d : Nat := desc 4 0x2000 0 4 2;
      let j : Job := { job 7 with word := 0x2000004020000000, seq := .a, descs := [(2, desc 4 0x2000 0 4 2)] };
      ((bit j.word 48 = false ∨ opOf j.seq j.word = .st)) ∧ (j.desc (bits j.word 37 8) = some d) ∧ (dSpace d ≠ 1) ∧ (dSpace d ≠ 5)) ∧
    (let s : State := blk id;
      let n : Nat := 0;
      let d : Nat := desc 0 0x2000 0 4 2;
      let j : Job := { job 7 with word := 0x2000004020000000, seq := .a, descs := [(2, desc 0 0x2000 0 4 2)] };
      let t : Tens := (s.block 0).readT (desc 0 0x1000 0 4 2);
      let a : Nat := 0x2020;
      ((bit j.word 48 = false ∨ opOf j.seq j.word = .st)) ∧ (j.desc (bits j.word 37 8) = some d) ∧ (dSpace d = 0) ∧ ((s.block n).spad.errs = []) ∧ ((∀ r ∈ tensWrites d t, r.2.any Prod.snd = false)) ∧ ((∀ r ∈ tensWrites d t, a < r.1 ∨ r.1 + r.2.length ≤ a))) := by
  refine ⟨?_, ?_⟩ <;> decide +kernel

theorem test_meets_CollectiveIssues :
    (∀ ik ∈ collKinds,
      let s : State := acu (List.replicate 16 coll0) [] (word .a (0x24 * 2 ^ 56 + ik.2 * 2 ^ 46 + 2 ^ 24 + 2 * 2 ^ 16));
      let n : Nat := 0;
      let w : Nat := (0x24 * 2 ^ 56 + ik.2 * 2 ^ 46 + 2 ^ 24 + 2 * 2 ^ 16);
      (s.ready n .a w) ∧ (opOf .a w = .coll) ∧ (bits w 46 3 = ik.2) ∧
      let u := s.acu (bits w 40 3);
      (16 ≤ u.colls.length)) ∧
    (∀ ik ∈ collKinds,
      let s : State := acu (List.replicate 15 coll0) [] (word .a (0x24 * 2 ^ 56 + ik.2 * 2 ^ 46 + 2 ^ 24 + 2 * 2 ^ 16));
      let n : Nat := 0;
      let w : Nat := (0x24 * 2 ^ 56 + ik.2 * 2 ^ 46 + 2 ^ 24 + 2 * 2 ^ 16);
      (s.ready n .a w) ∧ (opOf .a w = .coll) ∧ (bits w 46 3 = ik.2) ∧
      let u := s.acu (bits w 40 3);
      (u.colls.length < 16) ∧ (profDef s.fab.prof (bits w 40 3) = false)) ∧
    (∀ ik ∈ collKinds,
      let s : State := sliced (word .a (0x24 * 2 ^ 56 + ik.2 * 2 ^ 46 + 2 ^ 24 + 2 * 2 ^ 16) (descs [(1, desc 3 0x1000 0 128 1), (2, desc 3 0x8000 0 (if ik.2 = 0 then 64 else if ik.2 = 1 then 256 else 128) 1)]));
      let n : Nat := 0;
      let w : Nat := (0x24 * 2 ^ 56 + ik.2 * 2 ^ 46 + 2 ^ 24 + 2 * 2 ^ 16);
      let transit : List (Nat × Nat) := [];
      (s.ready n .a w) ∧ (opOf .a w = .coll) ∧ (bits w 46 3 = ik.2) ∧
      let b1 := (goOf (Block.reset, 0, coll0) (s.prepColl (s.block n) w n transit)).1;
      let a := (goOf (Block.reset, 0, coll0) (s.prepColl (s.block n) w n transit)).2.1;
      let c := (goOf (Block.reset, 0, coll0) (s.prepColl (s.block n) w n transit)).2.2;
      (s.prepColl (s.block n) w n transit = .go (b1, a, c)) ∧ (c.form ≠ .close)) ∧
    (∃ ik ∈ collKinds,
      let s : State := sliced ((word .a (0x24 * 2 ^ 56 + 2 * 2 ^ 46 + 2 ^ 43 + 2 ^ 24 + 2 * 2 ^ 16) (descs [(1, desc 4 0x1000 12 1 1), (2, desc 4 0x8000 12 1 1)])).updStack 0 (fun k => { k with sue := { k.sue with stepOff := some 0x8000 } }));
      let n : Nat := 0;
      let w : Nat := (0x24 * 2 ^ 56 + 2 * 2 ^ 46 + 2 ^ 43 + 2 ^ 24 + 2 * 2 ^ 16);
      let transit : List (Nat × Nat) := [];
      (s.ready n .a w) ∧ (opOf .a w = .coll) ∧ (bits w 46 3 = ik.2) ∧
      let b1 := (goOf (Block.reset, 0, coll0) (s.prepColl (s.block n) w n transit)).1;
      let a := (goOf (Block.reset, 0, coll0) (s.prepColl (s.block n) w n transit)).2.1;
      let c := (goOf (Block.reset, 0, coll0) (s.prepColl (s.block n) w n transit)).2.2;
      (s.prepColl (s.block n) w n transit = .go (b1, a, c)) ∧ (c.form = .close)) := by
  refine ⟨?_, ?_, ?_, ?_⟩ <;> decide +kernel

set_option synthInstance.maxSize 1024 in
theorem test_meets_CollectivePacketsAreTaken :
    (let s : State := acu [coll0] [pkt tCOLL (collTag 0 0 0 0) (headPayload (coll0.headWord 2) 1)] on;
      let a : Nat := 0;
      let u : Nat := 0;
      let p : Packet := pkt tCOLL (collTag 0 0 0 0) (headPayload (coll0.headWord 2) 1);
      let rest : List Packet := [];
      let c : Coll := coll0;
      (a < 8) ∧ (s.pwr.stopped = false) ∧
      let s1 := (s.freeSlot p).updAcu a (fun u => { u with inq := rest });
      let q := tagCseq p.tag;
      (takeable 0 (s.known a) [] (s.acu a).inq = some (p, rest)) ∧ (s1.findColl a q = some (u, c)) ∧ (headNoPos p.payload = c.headWord c.p)) ∧
    (let s : State := acu [coll0] [pkt tCOLL (collTag 0 0 0 0) (headPayload (coll0.headWord 2 + 2 ^ 48) 1)] on;
      let a : Nat := 0;
      let u : Nat := 0;
      let p : Packet := pkt tCOLL (collTag 0 0 0 0) (headPayload (coll0.headWord 2 + 2 ^ 48) 1);
      let rest : List Packet := [];
      let c : Coll := coll0;
      (a < 8) ∧ (s.pwr.stopped = false) ∧
      let s1 := (s.freeSlot p).updAcu a (fun u => { u with inq := rest });
      let q := tagCseq p.tag;
      (takeable 0 (s.known a) [] (s.acu a).inq = some (p, rest)) ∧ (s1.findColl a q = some (u, c)) ∧ (headNoPos p.payload ≠ c.headWord c.p)) ∧
    (let s : State := acu [coll0] [pkt tCOLL (collTag 0 1 0 0) (List.replicate 64 0)] on;
      let a : Nat := 0;
      let u : Nat := 0;
      let p : Packet := pkt tCOLL (collTag 0 1 0 0) (List.replicate 64 0);
      let rest : List Packet := [];
      let c : Coll := coll0;
      (a < 8) ∧ (s.pwr.stopped = false) ∧
      let s1 := (s.freeSlot p).updAcu a (fun u => { u with inq := rest });
      let q := tagCseq p.tag;
      (takeable 1 (s.dataReady a) [] (s.acu a).inq = some (p, rest)) ∧ (s1.findColl a q = some (u, c)) ∧
      let c1 := ((c.onData p).getD (coll0, none)).1;
      let wr := ((c.onData p).getD (coll0, none)).2;
      (c.onData p = some (c1, wr)) ∧ (s1.runsGate (dSpace c.dst) (fStack.get c.dst) (c.writesOf wr) = .ok)) ∧
    (let s : State := acu [coll0] [pkt tCOLL (collTag 0 3 0 0) (flagPayload false 1 1 0)] on;
      let a : Nat := 0;
      let u : Nat := 0;
      let p : Packet := pkt tCOLL (collTag 0 3 0 0) (flagPayload false 1 1 0);
      let rest : List Packet := [];
      let c : Coll := coll0;
      (a < 8) ∧ (s.pwr.stopped = false) ∧
      let s1 := (s.freeSlot p).updAcu a (fun u => { u with inq := rest });
      let q := tagCseq p.tag;
      (takeable 3 (s.known a) [] (s.acu a).inq = some (p, rest)) ∧ (s1.findColl a q = some (u, c)) ∧ (fld p.payload 2 1 ≤ 1)) ∧
    (let s : State := acu [coll0] [pkt tCOLL (collTag 0 3 0 0) (flagPayload true 1 2 0)] on;
      let a : Nat := 0;
      let u : Nat := 0;
      let p : Packet := pkt tCOLL (collTag 0 3 0 0) (flagPayload true 1 2 0);
      let rest : List Packet := [];
      let c : Coll := coll0;
      (a < 8) ∧ (s.pwr.stopped = false) ∧
      let s1 := (s.freeSlot p).updAcu a (fun u => { u with inq := rest });
      let q := tagCseq p.tag;
      (takeable 3 (s.known a) [] (s.acu a).inq = some (p, rest)) ∧ (s1.findColl a q = some (u, c)) ∧ (1 < fld p.payload 2 1)) ∧
    (let s : State := acu [{ coll0 with form := .close, axes := [⟨0, 0, 0, true, [0, 1], true⟩] }] [pkt tCOLL (collTag 0 4 0 0) (closePayload 0 1 1 0)] on;
      let a : Nat := 0;
      let u : Nat := 0;
      let p : Packet := pkt tCOLL (collTag 0 4 0 0) (closePayload 0 1 1 0);
      let rest : List Packet := [];
      let c : Coll := { coll0 with form := .close, axes := [⟨0, 0, 0, true, [0, 1], true⟩] };
      (a < 8) ∧ (s.pwr.stopped = false) ∧
      let s1 := (s.freeSlot p).updAcu a (fun u => { u with inq := rest });
      let q := tagCseq p.tag;
      let x := ⟨0, 0, 0, true, [0, 1], true⟩;
      (takeable 4 (s.known a) [] (s.acu a).inq = some (p, rest)) ∧ (s1.findClose a q = some (u, c, x)) ∧ (fld p.payload 9 1 ≤ 1)) ∧
    (let s : State := acu [{ coll0 with form := .close, axes := [⟨0, 0, 0, true, [0, 1], true⟩] }] [pkt tCOLL (collTag 0 4 0 0) (closePayload 0 1 2 0)] on;
      let a : Nat := 0;
      let u : Nat := 0;
      let p : Packet := pkt tCOLL (collTag 0 4 0 0) (closePayload 0 1 2 0);
      let rest : List Packet := [];
      let c : Coll := { coll0 with form := .close, axes := [⟨0, 0, 0, true, [0, 1], true⟩] };
      (a < 8) ∧ (s.pwr.stopped = false) ∧
      let s1 := (s.freeSlot p).updAcu a (fun u => { u with inq := rest });
      let q := tagCseq p.tag;
      let x := ⟨0, 0, 0, true, [0, 1], true⟩;
      (takeable 4 (s.known a) [] (s.acu a).inq = some (p, rest)) ∧ (s1.findClose a q = some (u, c, x)) ∧ (1 < fld p.payload 9 1)) ∧
    (let s : State := acu [coll0] [pkt tCOLL (collTag 0 5 0 0) (abortPayload 4 1 0 1)] on;
      let a : Nat := 0;
      let u : Nat := 0;
      let p : Packet := pkt tCOLL (collTag 0 5 0 0) (abortPayload 4 1 0 1);
      let rest : List Packet := [];
      let c : Coll := coll0;
      (a < 8) ∧ (s.pwr.stopped = false) ∧
      let s1 := (s.freeSlot p).updAcu a (fun u => { u with inq := rest });
      let q := tagCseq p.tag;
      (abortIn (s.known a) [] (s.acu a).inq = some (p, rest)) ∧ (s1.findColl a q = some (u, c)) ∧ (fld p.payload 0 1 ≠ 7)) ∧
    (let s : State := acu [coll0] [pkt tCOLL (collTag 0 5 0 0) (abortPayload 7 2 0 1)] on;
      let a : Nat := 0;
      let u : Nat := 0;
      let p : Packet := pkt tCOLL (collTag 0 5 0 0) (abortPayload 7 2 0 1);
      let rest : List Packet := [];
      let c : Coll := coll0;
      (a < 8) ∧ (s.pwr.stopped = false) ∧
      let s1 := (s.freeSlot p).updAcu a (fun u => { u with inq := rest });
      let q := tagCseq p.tag;
      (abortIn (s.known a) [] (s.acu a).inq = some (p, rest)) ∧ (s1.findColl a q = some (u, c)) ∧ (fld p.payload 0 1 = 7)) ∧
    (let s : State := (acu [] [pkt tCOLL (collTag 0 5 0 0) (abortPayload 4 2 0 1)] on).updAcu 0 (fun u => { u with cseq := 1, past := [⟨0, [0, 1], 0, true⟩] });
      let a : Nat := 0;
      let u : Nat := 0;
      let p : Packet := pkt tCOLL (collTag 0 5 0 0) (abortPayload 4 2 0 1);
      let rest : List Packet := [];
      let c : Coll := coll0;
      (a < 8) ∧ (s.pwr.stopped = false) ∧
      let s1 := (s.freeSlot p).updAcu a (fun u => { u with inq := rest });
      let q := tagCseq p.tag;
      let x := ⟨0, [0, 1], 0, true⟩;
      (abortIn (s.known a) [] (s.acu a).inq = some (p, rest)) ∧ (s1.findColl a q = none) ∧ (s1.findClose a q = none) ∧ ((s1.acu a).past.find? (fun x => x.cseq == q) = some x)) := by
  refine ⟨?_, ?_, ?_, ?_, ?_, ?_, ?_, ?_, ?_, ?_⟩ <;> decide +kernel

theorem test_meets_CollectiveCompletes :
    (let s : State := acu [{ coll0 with flags := [(0, false), (1, false)], sent := [coll0.total 0 (coll0.sends 0), coll0.total 1 (coll0.sends 1)], come := [coll0.total 0 (coll0.recvs 0), coll0.total 1 (coll0.recvs 1)] }] [] on;
      let a : Nat := 0;
      let q : Nat := 0;
      let c : Coll := { coll0 with flags := [(0, false), (1, false)], sent := [coll0.total 0 (coll0.sends 0), coll0.total 1 (coll0.sends 1)], come := [coll0.total 0 (coll0.recvs 0), coll0.total 1 (coll0.recvs 1)] };
      (a < 8) ∧ (s.pwr.stopped = false) ∧ (s.coll a q = some c) ∧ (c.form = .plain) ∧ (c.started = true) ∧ (c.allSent = true) ∧ (c.allCome = true) ∧ (c.unsent = 0) ∧ ((c.red = false ∨ c.flags.length = c.p))) := by
  decide +kernel

theorem test_meets_ClosingContributesTheStep :
    (let s : State := acu [{ coll0 with form := .close, started := false, step := 7 }] [] (sue (fun x => { x with binds := [{ bind0 with trig := some trig7 }] }) on);
      let u : Nat := 0;
      let c : Coll := { coll0 with form := .close, started := false, step := 7 };
      let more : List (Nat × Coll) := [];
      (s.pwr.stopped = false) ∧ ((List.range 8).flatMap (fun u => ((s.acu u).colls.filter (fun c => c.form == .close && !c.started)).map (fun c => (u, c)))
      = (u, c) :: more) ∧
      let open_ := s.stks.any (fun k => k.sue.binds.any (fun b => match b.trig with | some t => t.step == c.step | none => false));
      (open_ = true)) ∧
    (let s : State := acu [{ coll0 with form := .close, started := false, step := 7 }] [] (sue (fun x => { x with binds := [bind0] }) on);
      let u : Nat := 0;
      let c : Coll := { coll0 with form := .close, started := false, step := 7 };
      let more : List (Nat × Coll) := [];
      (s.pwr.stopped = false) ∧ ((List.range 8).flatMap (fun u => ((s.acu u).colls.filter (fun c => c.form == .close && !c.started)).map (fun c => (u, c)))
      = (u, c) :: more) ∧
      let open_ := s.stks.any (fun k => k.sue.binds.any (fun b => match b.trig with | some t => t.step == c.step | none => false));
      (open_ = false)) := by
  refine ⟨?_, ?_⟩ <;> decide +kernel

theorem test_meets_CollectiveDeadlineAbandons :
    (let s : State := acu [{ coll0 with dl := some 1 }] [] on;
      let a : Nat := 0;
      let q : Nat := 0;
      let dl : Nat := 1;
      let c : Coll := { coll0 with dl := some 1 };
      (a < 8) ∧ (s.pwr.stopped = false) ∧ (s.coll a q = some c) ∧ (c.dl = some dl) ∧
      let s0 := s.collComplete a q;
      let s1 := s.abandonColl a q 1;
      (s.now < dl ∨ s.dlOn 0 = false)) ∧
    (let s : State := acu [{ coll0 with dl := some 0, flags := [(0, false), (1, false)], sent := [coll0.total 0 (coll0.sends 0), coll0.total 1 (coll0.sends 1)], come := [coll0.total 0 (coll0.recvs 0), coll0.total 1 (coll0.recvs 1)] }] [] on;
      let a : Nat := 0;
      let q : Nat := 0;
      let dl : Nat := 0;
      let c : Coll := { coll0 with dl := some 0, flags := [(0, false), (1, false)], sent := [coll0.total 0 (coll0.sends 0), coll0.total 1 (coll0.sends 1)], come := [coll0.total 0 (coll0.recvs 0), coll0.total 1 (coll0.recvs 1)] };
      (a < 8) ∧ (s.pwr.stopped = false) ∧ (s.coll a q = some c) ∧ (c.dl = some dl) ∧
      let s0 := s.collComplete a q;
      let s1 := s.abandonColl a q 1;
      (dl ≤ s.now) ∧ (s.dlOn 0 = true) ∧ (s0.coll a q = none)) ∧
    (let s : State := acu [{ coll0 with dl := some 0 }] [] (blk id);
      let a : Nat := 0;
      let q : Nat := 0;
      let dl : Nat := 0;
      let c : Coll := { coll0 with dl := some 0 };
      (a < 8) ∧ (s.pwr.stopped = false) ∧ (s.coll a q = some c) ∧ (c.dl = some dl) ∧
      let s0 := s.collComplete a q;
      let s1 := s.abandonColl a q 1;
      (dl ≤ s.now) ∧ (s.dlOn 0 = true) ∧ (s0.coll a q ≠ none) ∧ ((s1.block c.b).st = .running)) ∧
    (let s : State := acu [{ coll0 with dl := some 0 }] [] on;
      let a : Nat := 0;
      let q : Nat := 0;
      let dl : Nat := 0;
      let c : Coll := { coll0 with dl := some 0 };
      (a < 8) ∧ (s.pwr.stopped = false) ∧ (s.coll a q = some c) ∧ (c.dl = some dl) ∧
      let s0 := s.collComplete a q;
      let s1 := s.abandonColl a q 1;
      (dl ≤ s.now) ∧ (s.dlOn 0 = true) ∧ (s0.coll a q ≠ none) ∧ ((s1.block c.b).st ≠ .running)) := by
  refine ⟨?_, ?_, ?_, ?_⟩ <;> decide +kernel

theorem test_meets_TransferDeliveredOrDiscarded :
    (let s : State := { (region 3 (fun g => { g with st := .retain, goal := .run, move := some (.armed, 0) }) on) with noc := [⟨0, 143, 0, 1, false, [(0x1000, [(5, false)])]⟩] };
      let src : Nat := 0;
      let dst : Nat := 143;
      let bad : Bool := false;
      let x : NocT := ⟨0, 143, 0, 1, false, [(0x1000, [(5, false)])]⟩;
      (src < 144) ∧ (dst < 144) ∧ (s.pwr.stopped = false) ∧ (s.noc.find? (fun t => t.src == src && t.dst == dst) = some x) ∧
      let b := s.block dst;
      let touches := x.rd = false ∧ ∃ r ∈ x.runs, inSecure r.1 r.2.length = true;
      (s.regionGate (dst / 36) = .wait)) ∧
    (let s : State := { (region 3 (fun g => { g with st := .retain }) on) with noc := [⟨0, 143, 0, 1, false, [(0x1000, [(5, false)])]⟩] };
      let src : Nat := 0;
      let dst : Nat := 143;
      let bad : Bool := false;
      let x : NocT := ⟨0, 143, 0, 1, false, [(0x1000, [(5, false)])]⟩;
      (src < 144) ∧ (dst < 144) ∧ (s.pwr.stopped = false) ∧ (s.noc.find? (fun t => t.src == src && t.dst == dst) = some x) ∧
      let b := s.block dst;
      let touches := x.rd = false ∧ ∃ r ∈ x.runs, inSecure r.1 r.2.length = true;
      (s.regionGate (dst / 36) = .refused)) ∧
    (let s : State := { (on.updBlock 143 (fun b => { b with wiping := true, sec := true })) with noc := [⟨0, 143, 0, 1, false, [(0x1C0000, [(5, false)])]⟩] };
      let src : Nat := 0;
      let dst : Nat := 143;
      let bad : Bool := false;
      let x : NocT := ⟨0, 143, 0, 1, false, [(0x1C0000, [(5, false)])]⟩;
      (src < 144) ∧ (dst < 144) ∧ (s.pwr.stopped = false) ∧ (s.noc.find? (fun t => t.src == src && t.dst == dst) = some x) ∧
      let b := s.block dst;
      let touches := x.rd = false ∧ ∃ r ∈ x.runs, inSecure r.1 r.2.length = true;
      (s.regionGate (dst / 36) = .ok) ∧ (b.wiping = true) ∧ (touches)) ∧
    (let s : State := { on with noc := [⟨0, 143, 0, 1, false, [(0x1000, [(5, false)])]⟩] };
      let src : Nat := 0;
      let dst : Nat := 143;
      let bad : Bool := true;
      let x : NocT := ⟨0, 143, 0, 1, false, [(0x1000, [(5, false)])]⟩;
      (src < 144) ∧ (dst < 144) ∧ (s.pwr.stopped = false) ∧ (s.noc.find? (fun t => t.src == src && t.dst == dst) = some x) ∧
      let b := s.block dst;
      let touches := x.rd = false ∧ ∃ r ∈ x.runs, inSecure r.1 r.2.length = true;
      (s.regionGate (dst / 36) = .ok) ∧ (¬ (b.wiping = true ∧ touches)) ∧ (bad = true ∨ seqFor b.nocIn src ≠ x.seq)) ∧
    (let s : State := { on with noc := [⟨0, 143, 0, 1, true, [(0x1000, [(5, false)])]⟩] };
      let src : Nat := 0;
      let dst : Nat := 143;
      let bad : Bool := false;
      let x : NocT := ⟨0, 143, 0, 1, true, [(0x1000, [(5, false)])]⟩;
      (src < 144) ∧ (dst < 144) ∧ (s.pwr.stopped = false) ∧ (s.noc.find? (fun t => t.src == src && t.dst == dst) = some x) ∧
      let b := s.block dst;
      let touches := x.rd = false ∧ ∃ r ∈ x.runs, inSecure r.1 r.2.length = true;
      (s.regionGate (dst / 36) = .ok) ∧ (¬ (b.wiping = true ∧ touches)) ∧ (bad = false) ∧ (seqFor b.nocIn src = x.seq) ∧ (x.rd = true)) ∧
    (let s : State := { (on.updBlock 143 (fun b => { b with sec := true })) with noc := [⟨0, 143, 0, 1, false, [(0x1C0000, [(5, false)])]⟩] };
      let src : Nat := 0;
      let dst : Nat := 143;
      let bad : Bool := false;
      let x : NocT := ⟨0, 143, 0, 1, false, [(0x1C0000, [(5, false)])]⟩;
      (src < 144) ∧ (dst < 144) ∧ (s.pwr.stopped = false) ∧ (s.noc.find? (fun t => t.src == src && t.dst == dst) = some x) ∧
      let b := s.block dst;
      let touches := x.rd = false ∧ ∃ r ∈ x.runs, inSecure r.1 r.2.length = true;
      (s.regionGate (dst / 36) = .ok) ∧ (¬ (b.wiping = true ∧ touches)) ∧ (bad = false) ∧ (seqFor b.nocIn src = x.seq) ∧ (x.rd = false) ∧ (b.sec = true) ∧ (touches)) ∧
    (let s : State := { on with noc := [⟨0, 143, 0, 1, false, [(0x1C0000, [(5, false)])]⟩] };
      let src : Nat := 0;
      let dst : Nat := 143;
      let bad : Bool := false;
      let x : NocT := ⟨0, 143, 0, 1, false, [(0x1C0000, [(5, false)])]⟩;
      (src < 144) ∧ (dst < 144) ∧ (s.pwr.stopped = false) ∧ (s.noc.find? (fun t => t.src == src && t.dst == dst) = some x) ∧
      let b := s.block dst;
      let touches := x.rd = false ∧ ∃ r ∈ x.runs, inSecure r.1 r.2.length = true;
      (s.regionGate (dst / 36) = .ok) ∧ (¬ (b.wiping = true ∧ touches)) ∧ (bad = false) ∧ (seqFor b.nocIn src = x.seq) ∧ (x.rd = false) ∧ (¬ (b.sec = true ∧ touches))) ∧
    (let s : State := { blk (fun b => { b with jobs := [job 1] }) with nocFail := [(0, 1, 143)] };
      let n : Nat := 0;
      let f : Nat × Nat × Nat := (0, 1, 143);
      let j : Job := job 1;
      (n < 144) ∧ (s.pwr.stopped = false) ∧ (s.nocFail.find? (fun f => f.1 == n) = some f) ∧ ((s.block n).job f.2.1 = some j)) := by
  refine ⟨?_, ?_, ?_, ?_, ?_, ?_, ?_, ?_⟩ <;> decide +kernel

theorem test_meets_RegionStoreReadsAndWrites :
    (let s : State := on;
      let r : Nat := 3;
      let off : Nat := 2 ^ 24 - 2;
      let len : Nat := 2;
      (r < 4) ∧ (off + len ≤ 2 ^ 24) ∧ (s.pwr.stopped = false) ∧ (s.regionGate r = .ok)) ∧
    (let s : State := region 3 (fun g => { g with st := .retain, move := some (.armed, 9) }) on;
      let r : Nat := 3;
      let off : Nat := 0;
      let len : Nat := 2 ^ 24;
      (r < 4) ∧ (off + len ≤ 2 ^ 24) ∧ (s.pwr.stopped = false) ∧
      (s.regionGate r = .wait)) ∧
    (let s : State := region 3 (fun g => { g with st := .off }) on;
      let r : Nat := 3;
      let off : Nat := 0;
      let len : Nat := 2 ^ 24;
      (r < 4) ∧ (off + len ≤ 2 ^ 24) ∧ (s.pwr.stopped = false) ∧
      (s.regionGate r = .refused)) := by
  refine ⟨?_, ?_, ?_⟩ <;> decide +kernel

theorem test_meets_RegionStoreWriteThenByte :
    (let s : State := on;
      let r : Nat := 3;
      let off : Nat := 2 ^ 24 - 2;
      let data : List Byte := [1, 2];
      (r < 4) ∧ (r < s.regions.length) ∧ (off + data.length ≤ 2 ^ 24) ∧ (s.pwr.stopped = false) ∧ (s.regionGate r = .ok) ∧ ((s.region r).store.errs = []) ∧
      let i := 1;
      (i < data.length)) ∧
    (let s : State := on;
      let r : Nat := 3;
      let off : Nat := 2 ^ 24 - 2;
      let data : List Byte := [1, 2];
      let a : Nat := 2 ^ 24 - 3;
      (r < 4) ∧ (r < s.regions.length) ∧ (off + data.length ≤ 2 ^ 24) ∧ (s.pwr.stopped = false) ∧ (s.regionGate r = .ok) ∧ ((s.region r).store.errs = []) ∧ ((a < off ∨ off + data.length ≤ a))) := by
  refine ⟨?_, ?_⟩ <;> decide +kernel

theorem test_meets_ScrubAndWipe :
    (let s : State := blk (fun b => { b with scrubAt := 65535, spad := b.spad });
      let n : Nat := 0;
      (n < 144) ∧ (s.scrubOn n = true) ∧
      let b := s.block n;
      let w := b.scrubAt;
      (b.spad.state w = .clean)) ∧
    (let s : State := blk (fun b => { b with scrubAt := 65535, spad := b.spad.flip 65535 0 1 });
      let n : Nat := 0;
      (n < 144) ∧ (s.scrubOn n = true) ∧
      let b := s.block n;
      let w := b.scrubAt;
      let p := match ((s.block 0).spad.state 65535) with | .corrected p _ => p | _ => 99;
      let e := match ((s.block 0).spad.state 65535) with | .corrected _ e => e | _ => 0;
      (b.spad.state w = .corrected p e)) ∧
    (let s : State := blk (fun b => { b with scrubAt := 65535, spad := (b.spad.flip 65535 0 1).flip 65535 1 1 });
      let n : Nat := 0;
      (n < 144) ∧ (s.scrubOn n = true) ∧
      let b := s.block n;
      let w := b.scrubAt;
      (b.spad.state w = .uncorrectable)) ∧
    (let s : State := blk (fun b => { b with wiping := true });
      let n : Nat := 0;
      (n < 144) ∧ (s.pwr.stopped = false) ∧ ((s.block n).wiping = true)) := by
  refine ⟨?_, ?_, ?_, ?_⟩ <;> decide +kernel

theorem test_meets_StartMessageStartsTheBlock :
    (let s : State := { on with starts := [143] };
      let n : Nat := 143;
      (n < 144) ∧ (s.pwr.stopped = false) ∧ (s.starts.contains n = true) ∧
      let r := n / 36;
      ((s.region r).st = .run)) ∧
    (let s : State := { region 3 (fun g => { g with st := .armed }) (on.updBlock 143 (fun b => { b with clk := .running })) with starts := [143] };
      let n : Nat := 143;
      (n < 144) ∧ (s.pwr.stopped = false) ∧ (s.starts.contains n = true) ∧
      let r := n / 36;
      ((s.region r).st = .armed) ∧ ((s.block n).clk = .running)) ∧
    (let s : State := { region 3 (fun g => { g with st := .armed }) on with starts := [143] };
      let n : Nat := 143;
      (n < 144) ∧ (s.pwr.stopped = false) ∧ (s.starts.contains n = true) ∧
      let r := n / 36;
      ((s.region r).st = .armed) ∧ ((s.block n).clk ≠ .running)) ∧
    (let s : State := { region 3 (fun g => { g with st := .retain }) on with starts := [143] };
      let n : Nat := 143;
      (n < 144) ∧ (s.pwr.stopped = false) ∧ (s.starts.contains n = true) ∧
      let r := n / 36;
      ((s.region r).st = .off ∨ (s.region r).st = .retain)) := by
  refine ⟨?_, ?_, ?_, ?_⟩ <;> decide +kernel

theorem test_meets_ClocksRampAndGate :
    (let s : State := region 3 (fun g => { g with st := .armed, waiting := [143] }) on;
      let n : Nat := 143;
      let rest : List Nat := [];
      (n < 144) ∧ ((s.region (n / 36)).waiting = n :: rest) ∧ (s.issueOn = true)) ∧
    (let s : State := { region 3 (fun g => { g with st := .armed, waiting := [143] }) on with pwr := { on.pwr with pause := some 0 } };
      let n : Nat := 143;
      let rest : List Nat := [];
      (n < 144) ∧ ((s.region (n / 36)).waiting = n :: rest) ∧ (s.issueOn = false)) ∧
    (let s : State := region 3 (fun g => { g with st := .armed }) (on.updBlock 143 (fun b => { b with st := .done, clk := .running, idle := 64 }));
      let n : Nat := 143;
      (n < 144) ∧ (s.pwr.stopped = false) ∧ ((s.region (n / 36)).st = .armed) ∧ ((s.block n).clk = .running) ∧ (((s.block n).st = .done ∨ (s.block n).st = .stopped ∨ (s.block n).st = .faulted)) ∧ ((s.block n).jobs = []) ∧ (64 ≤ (s.block n).idle)) := by
  refine ⟨?_, ?_, ?_⟩ <;> decide +kernel

theorem test_meets_PinRequestIsAnswered :
    (let s : State := blk (fun b => { b with pinq := [⟨0, 5, 9, false, .a, 3, .waiting⟩] });
      let n : Nat := 0;
      let h : Nat := 5;
      let r : PinReq := ⟨0, 5, 9, false, .a, 3, .waiting⟩;
      (n < 144) ∧ (s.pwr.stopped = false) ∧ ((s.block n).pinq.find? (fun r => r.h == h && r.ans == .waiting) = some r) ∧ (s.bindStack r.layer = none)) ∧
    (let s : State := bound { bindS with writing := true } (blk (fun b => { b with pinq := [⟨0, 5, 9, false, .a, 3, .waiting⟩] }));
      let n : Nat := 0;
      let h : Nat := 5;
      let r : PinReq := ⟨0, 5, 9, false, .a, 3, .waiting⟩;
      (n < 144) ∧ (s.pwr.stopped = false) ∧ ((s.block n).pinq.find? (fun r => r.h == h && r.ans == .waiting) = some r) ∧
      let k := 0;
      let b := { bindS with writing := true };
      (s.bindStack r.layer = some k) ∧ ((s.stack k).sue.bind r.layer = some b) ∧ (b.split = true ∧ (b.writing = true ∨ b.rolling = true))) ∧
    (let s : State := bound { bind0 with pin0 := 65535 } (blk (fun b => { b with pinq := [⟨0, 5, 9, false, .a, 3, .waiting⟩] }));
      let n : Nat := 0;
      let h : Nat := 5;
      let r : PinReq := ⟨0, 5, 9, false, .a, 3, .waiting⟩;
      (n < 144) ∧ (s.pwr.stopped = false) ∧ ((s.block n).pinq.find? (fun r => r.h == h && r.ans == .waiting) = some r) ∧
      let k := 0;
      let b := { bind0 with pin0 := 65535 };
      (s.bindStack r.layer = some k) ∧ ((s.stack k).sue.bind r.layer = some b) ∧ (¬ (b.split = true ∧ (b.writing = true ∨ b.rolling = true))) ∧ (65535 ≤ b.pins b.slot)) ∧
    (let s : State := bound { bind0 with pin0 := 65534 } (blk (fun b => { b with pinq := [⟨0, 5, 9, false, .a, 3, .waiting⟩] }));
      let n : Nat := 0;
      let h : Nat := 5;
      let r : PinReq := ⟨0, 5, 9, false, .a, 3, .waiting⟩;
      (n < 144) ∧ (s.pwr.stopped = false) ∧ ((s.block n).pinq.find? (fun r => r.h == h && r.ans == .waiting) = some r) ∧
      let k := 0;
      let b := { bind0 with pin0 := 65534 };
      (s.bindStack r.layer = some k) ∧ ((s.stack k).sue.bind r.layer = some b) ∧ (¬ (b.split = true ∧ (b.writing = true ∨ b.rolling = true))) ∧ (b.pins b.slot < 65535)) := by
  refine ⟨?_, ?_, ?_, ?_⟩ <;> decide +kernel

theorem test_meets_PinGrantRefusalRelease :
    (let s : State := blk (fun b => { b with pinq := [⟨0, 5, 9, false, .a, 3, .granted 0 1 4⟩] });
      let n : Nat := 0;
      let h : Nat := 5;
      let k : Nat := 0;
      let slot : Nat := 1;
      let ver : Nat := 4;
      let r : PinReq := ⟨0, 5, 9, false, .a, 3, .granted 0 1 4⟩;
      (n < 144) ∧ (s.pwr.stopped = false) ∧
      let b := s.block n;
      (b.pinq.find? (fun r => r.h == h && (match r.ans with | .granted _ _ _ => true | _ => false)) = some r) ∧ (r.ans = .granted k slot ver)) ∧
    (let s : State := blk (fun b => { b with pinq := [⟨0, 5, 9, false, .a, 3, .refused 2⟩] });
      let n : Nat := 0;
      let h : Nat := 5;
      let sub : Nat := 2;
      let r : PinReq := ⟨0, 5, 9, false, .a, 3, .refused 2⟩;
      (n < 144) ∧ (s.pwr.stopped = false) ∧
      let b := s.block n;
      (b.pinq.find? (fun r => r.h == h && (match r.ans with | .refused _ => true | _ => false)) = some r) ∧ (r.ans = .refused sub) ∧ (r.sup = false)) ∧
    (let s : State := bound { bind0 with pin0 := 1 } (blk (fun b => { b with rels := [⟨5, 9, 0, [7]⟩] }));
      let n : Nat := 0;
      let h : Nat := 5;
      let k : Nat := 0;
      let r : PinRel := ⟨5, 9, 0, [7]⟩;
      (n < 144) ∧ (s.pwr.stopped = false) ∧ ((s.block n).rels.find? (fun r => r.h == h && r.after.all (fun i => ((s.block n).job i).isNone)) = some r) ∧ (s.bindStack r.layer = some k)) := by
  refine ⟨?_, ?_, ?_⟩ <;> decide +kernel

theorem test_meets_StackWritesAreAccepted :
    (let s : State := on;
      let n : Nat := 11;
      (n < 12) ∧ (s.pwr.stopped = false) ∧
      let off := stackBytes - 2;
      let data : List Byte := [1, 2];
      (off + data.length ≤ stackBytes) ∧ (s.stackGate n = .ok)) ∧
    (let s : State := stack (fun k => { k with st := .selfRefresh }) on;
      let n : Nat := 0;
      (n < 12) ∧ (s.pwr.stopped = false) ∧
      let off := 0;
      let data : List Byte := [];
      (off + data.length ≤ stackBytes) ∧ (s.stackGate n = .wait)) ∧
    (let s : State := stack (fun k => { k with st := .failed }) on;
      let n : Nat := 0;
      (n < 12) ∧ (s.pwr.stopped = false) ∧
      let off := 0;
      let data : List Byte := [];
      (off + data.length ≤ stackBytes) ∧ (s.stackGate n = .refused)) ∧
    (let s : State := stack (fun k => { k with st := .selfRefresh }) (bound bind0 on);
      let n : Nat := 0;
      (n < 12) ∧ (s.pwr.stopped = false) ∧
      let layer := 9;
      let b := bind0;
      ((s.stack n).sue.bind layer = some b) ∧ (s.stackGate n = .wait)) ∧
    (let s : State := bound bind0 on;
      let n : Nat := 0;
      (n < 12) ∧ (s.pwr.stopped = false) ∧
      let layer := 9;
      let b := bind0;
      ((s.stack n).sue.bind layer = some b) ∧ (s.stackGate n = .ok)) ∧
    (let s : State := sue (fun x => { x with stepOff := some 0x8000 }) on;
      let n : Nat := 0;
      (n < 12) ∧ (s.pwr.stopped = false) ∧
      let o := 0x8000;
      ((s.stack n).sue.stepOff = some o) ∧ (s.stackGate n = .ok)) := by
  refine ⟨?_, ?_, ?_, ?_, ?_, ?_⟩ <;> decide +kernel

theorem test_meets_StackRequestQueues :
    (let s : State := stack (fun k => { k with st := .selfRefresh }) on;
      let n : Nat := 0;
      let cls : Nat := 4;
      let off : Nat := stackBytes - 32;
      let len : Nat := 32;
      (n < 12) ∧ (cls < 5) ∧ (off + len ≤ stackBytes) ∧ (s.pwr.stopped = false) ∧ (s.stackGate n ≠ .refused)) := by
  decide +kernel

theorem test_meets_StackControllersWork :
    (let s : State := stack (fun k => { k with wcb := [⟨3, 255, List.replicate 64 1, 0, false, 0⟩] }) (at_ 200 on);
      let n : Nat := 0;
      (n < 12) ∧ (s.pwr.stopped = false) ∧
      let k := s.stack n;
      let l := (⟨3, 255, List.replicate 64 1, 0, false, 0⟩ : WLine);
      (k.wcb.find? (fun x => x.line == l.line) = some l) ∧ (l.t + 200 ≤ s.now) ∧ (k.room l.line = true)) ∧
    (let s : State := stack (fun k => { k with reqs := [(⟨2, true, 0, 1, 0, false⟩ : SReq)], chans := k.chans.set 0 ⟨true, 0, 0⟩ }) (at_ 800 on);
      let n : Nat := 0;
      (n < 12) ∧ (s.pwr.stopped = false) ∧
      let k := s.stack n;
      let ch := 0;
      let r := (⟨2, true, 0, 1, 0, false⟩ : SReq);
      (ch < 32) ∧ (ch < k.chans.length) ∧ (n < s.stks.length) ∧ (k.reqs.find? (fun r => (place r.off).pc / 2 == ch && r.promoted s.now) = some r) ∧
      ((k.chans.getD ch ⟨false, 0, 0⟩).wr = r.wr)) ∧
    (let s : State := stack (fun k => { k with reqs := [(⟨2, true, 0, 1, 0, false⟩ : SReq)] }) (at_ 800 on);
      let n : Nat := 0;
      (n < 12) ∧ (s.pwr.stopped = false) ∧
      let k := s.stack n;
      let ch := 0;
      let r := (⟨2, true, 0, 1, 0, false⟩ : SReq);
      (ch < 32) ∧ (ch < k.chans.length) ∧ (n < s.stks.length) ∧ (k.reqs.find? (fun r => (place r.off).pc / 2 == ch && r.promoted s.now) = some r) ∧
      ((k.chans.getD ch ⟨false, 0, 0⟩).wr ≠ r.wr) ∧ (k.mustSwitch s.now ch = true)) ∧
    (let s : State := stack (fun k => { k with reqs := [(⟨2, true, 0, 1, 0, false⟩ : SReq), ⟨0, false, 0, 1, 800, true⟩] }) (at_ 800 on);
      let n : Nat := 0;
      (n < 12) ∧ (s.pwr.stopped = false) ∧
      let k := s.stack n;
      let ch := 0;
      let r := (⟨2, true, 0, 1, 0, false⟩ : SReq);
      (ch < 32) ∧ (ch < k.chans.length) ∧ (n < s.stks.length) ∧ (k.reqs.find? (fun r => (place r.off).pc / 2 == ch && r.promoted s.now) = some r) ∧
      ((k.chans.getD ch ⟨false, 0, 0⟩).wr ≠ r.wr) ∧ (k.mustSwitch s.now ch = false)) ∧
    (let s : State := stack (fun k => { k with reqs := [⟨2, true, 0, 1, 0, false⟩] }) (at_ 800 on);
      let n : Nat := 0;
      (n < 12) ∧ (s.pwr.stopped = false) ∧
      let k := s.stack n;
      let ch := 0;
      (ch < 32) ∧ (n < s.stks.length) ∧ (k.mustSwitch s.now ch = true)) ∧
    (let s : State := on;
      let n : Nat := 11;
      (n < 12) ∧ (s.pwr.stopped = false) ∧
      let k := s.stack n;
      (n < s.stks.length) ∧ (k.st = .active)) ∧
    (let s : State := on;
      let n : Nat := 11;
      (n < 12) ∧ (s.pwr.stopped = false)) ∧
    (let s : State := on;
      let n : Nat := 11;
      (n < 12) ∧ (s.pwr.stopped = false) ∧
      let k := s.stack n;
      (k.st = .active)) := by
  refine ⟨?_, ?_, ?_, ?_, ?_, ?_, ?_, ?_⟩ <;> decide +kernel

theorem test_meets_SelfRefreshEntryAndWake :
    (let s : State := stack (fun k => { k with st := .entering }) on;
      let n : Nat := 0;
      (n < 12) ∧ (s.pwr.stopped = false) ∧ ((s.stack n).st = .entering)) ∧
    (let s : State := stack (fun k => { k with st := .waking, wake := 100, byReq := true }) (at_ 99 on);
      let n : Nat := 0;
      (n < 12) ∧ (s.pwr.stopped = false) ∧ ((s.stack n).st = .waking) ∧ (s.now < (s.stack n).wake)) ∧
    (let s : State := stack (fun k => { k with st := .waking, wake := 100, byReq := true }) (at_ 100 on);
      let n : Nat := 0;
      (n < 12) ∧ (s.pwr.stopped = false) ∧ ((s.stack n).st = .waking) ∧ ((s.stack n).wake ≤ s.now)) := by
  refine ⟨?_, ?_, ?_⟩ <;> decide +kernel

theorem test_meets_ScatterRowIsApplied :
    (let s : State := stack (fun k => { k with st := .selfRefresh, scas := [⟨.block 0 1, 0, .fp32, 0, false, false, [(0, 0x8000, 0, false)]⟩] }) (blk (fun b => { b with jobs := [job 1] }));
      let n : Nat := 0;
      let r : ScaRow := ⟨.block 0 1, 0, .fp32, 0, false, false, [(0, 0x8000, 0, false)]⟩;
      let rest : List ScaRow := [];
      (n < 12) ∧ (s.pwr.stopped = false) ∧ ((s.stack n).scas = r :: rest) ∧ (s.stackGate n = .wait)) ∧
    (let s : State := stack (fun k => { k with scas := [⟨.block 0 1, 0, .fp32, 0, false, false, [(0, 0x8000, 0, false)]⟩] }) (blk (fun b => { b with jobs := [job 1] }));
      let n : Nat := 0;
      let b : Nat := 0;
      let job : Nat := 1;
      let r : ScaRow := ⟨.block 0 1, 0, .fp32, 0, false, false, [(0, 0x8000, 0, false)]⟩;
      let rest : List ScaRow := [];
      (n < 12) ∧ (s.pwr.stopped = false) ∧ ((s.stack n).scas = r :: rest) ∧ (s.stackGate n = .ok) ∧ (r.who = .block b job) ∧
      (r.ret = false)) ∧
    (let s : State := stack (fun k => { k with scas := [⟨.block 0 1, 0, .fp32, 0, false, true, [(0, 0x8000, 0, false)]⟩] }) (blk (fun b => { b with jobs := [job 1] }));
      let n : Nat := 0;
      let b : Nat := 0;
      let job : Nat := 1;
      let r : ScaRow := ⟨.block 0 1, 0, .fp32, 0, false, true, [(0, 0x8000, 0, false)]⟩;
      let rest : List ScaRow := [];
      (n < 12) ∧ (s.pwr.stopped = false) ∧ ((s.stack n).scas = r :: rest) ∧ (s.stackGate n = .ok) ∧ (r.who = .block b job) ∧
      (r.ret = true)) := by
  refine ⟨?_, ?_, ?_⟩ <;> decide +kernel

theorem test_meets_TriggerQueuesOrIsIgnored :
    (let k : Stack := (bound bind0 on).stack 0;
      let l : Nat := 9;
      let w : Nat := 0xFFFFFFFF;
      let b : Bind := bind0;
      (k.sue.bind l = some b) ∧ (b.faulted = false) ∧
      let step := bits w 0 32;
      let stale := step = 0xFFFFFFFF ∨ step ≤ b.last ∨ step ≤ k.sue.closed;
      (stale)) ∧
    (let k : Stack := (bound { bind0 with last := 7 } on).stack 0;
      let l : Nat := 9;
      let w : Nat := 7;
      let b : Bind := { bind0 with last := 7 };
      (k.sue.bind l = some b) ∧ (b.faulted = false) ∧
      let step := bits w 0 32;
      let stale := step = 0xFFFFFFFF ∨ step ≤ b.last ∨ step ≤ k.sue.closed;
      (stale)) ∧
    (let k : Stack := (bound { bind0 with trig := some trig7 } on).stack 0;
      let l : Nat := 9;
      let w : Nat := 8;
      let b : Bind := { bind0 with trig := some trig7 };
      (k.sue.bind l = some b) ∧ (b.faulted = false) ∧
      let step := bits w 0 32;
      let stale := step = 0xFFFFFFFF ∨ step ≤ b.last ∨ step ≤ k.sue.closed;
      (¬ stale) ∧
      let t := trig7;
      (b.trig = some t)) ∧
    (let k : Stack := (bound bind0 on).stack 0;
      let l : Nat := 9;
      let w : Nat := 1 + 2 ^ 63;
      let b : Bind := bind0;
      (k.sue.bind l = some b) ∧ (b.faulted = false) ∧
      let step := bits w 0 32;
      let stale := step = 0xFFFFFFFF ∨ step ≤ b.last ∨ step ≤ k.sue.closed;
      (¬ stale) ∧ (b.trig = none) ∧ (bit w 63 = true)) := by
  refine ⟨?_, ?_, ?_, ?_⟩ <;> decide +kernel

theorem test_meets_PassStartServesTheFirstTrigger :
    (let s : State := sue (fun x => { x with binds := [{ bind0 with trig := some trig7, pin1 := 1 }], queue := [9], closed := 6 }) on;
      let n : Nat := 0;
      let l : Nat := 9;
      let b : Bind := { bind0 with trig := some trig7, pin1 := 1 };
      let t : Trig := trig7;
      (n < 12) ∧ (s.pwr.stopped = false) ∧
      let k := s.stack n;
      (k.sue.pass = none) ∧ (k.sue.queue.find? (fun l => match k.sue.bind l with
      | some b => (match b.trig with | some t => !(k.sue.heldT t) && !b.rolling | none => false)
      | none => false) = some l) ∧ (k.sue.bind l = some b) ∧ (b.trig = some t) ∧ (t.nf = false) ∧ (b.pins b.nextSlot ≠ 0)) ∧
    (let s : State := sue (fun x => { x with binds := [{ bind0 with trig := some trig7 }], queue := [9], closed := 6 }) on;
      let n : Nat := 0;
      let l : Nat := 9;
      let b : Bind := { bind0 with trig := some trig7 };
      let t : Trig := trig7;
      (n < 12) ∧ (s.pwr.stopped = false) ∧
      let k := s.stack n;
      (k.sue.pass = none) ∧ (k.sue.queue.find? (fun l => match k.sue.bind l with
      | some b => (match b.trig with | some t => !(k.sue.heldT t) && !b.rolling | none => false)
      | none => false) = some l) ∧ (k.sue.bind l = some b) ∧ (b.trig = some t) ∧ (t.nf = false) ∧ (b.pins b.nextSlot = 0)) ∧
    (let s : State := sue (fun x => { x with binds := [{ bind0 with trig := some { trig7 with nf := true } }], queue := [9], closed := 6 }) on;
      let n : Nat := 0;
      let l : Nat := 9;
      let b : Bind := { bind0 with trig := some { trig7 with nf := true } };
      let t : Trig := { trig7 with nf := true };
      (n < 12) ∧ (s.pwr.stopped = false) ∧
      let k := s.stack n;
      (k.sue.pass = none) ∧ (k.sue.queue.find? (fun l => match k.sue.bind l with
      | some b => (match b.trig with | some t => !(k.sue.heldT t) && !b.rolling | none => false)
      | none => false) = some l) ∧ (k.sue.bind l = some b) ∧ (b.trig = some t) ∧ (t.nf = true) ∧ (b.rowsL = false)) := by
  refine ⟨?_, ?_, ?_⟩ <;> decide +kernel

theorem test_meets_PassEndPublishes :
    (let s : State := sue (fun x => { x with binds := [{ bind0 with trig := some trig7, writing := true }], pass := some ⟨9, 7, 1, 0, [], [], [], [], 0, 0, 32, 0, false, []⟩ }) on;
      let n : Nat := 0;
      let p : Pass := ⟨9, 7, 1, 0, [], [], [], [], 0, 0, 32, 0, false, []⟩;
      let b : Bind := { bind0 with trig := some trig7, writing := true };
      (n < 12) ∧ (s.issueOn = true) ∧
      let k := Stack.runGroups (s.stack n).passLeft (s.stack n) s.now none;
      (k.sue.pass = some p) ∧ (k.sue.bind p.layer = some b) ∧ (p.bads = []) ∧ (b.gatherB = false)) ∧
    (let s : State := sue (fun x => { x with binds := [{ bind0 with trig := some trig7, writing := true }], pass := some ⟨9, 7, 1, 0, [], [], [], [], 0, 0, 32, 0, false, [3, 5]⟩ }) on;
      let n : Nat := 0;
      let p : Pass := ⟨9, 7, 1, 0, [], [], [], [], 0, 0, 32, 0, false, [3, 5]⟩;
      let b : Bind := { bind0 with trig := some trig7, writing := true };
      (n < 12) ∧ (s.issueOn = true) ∧
      let k := Stack.runGroups (s.stack n).passLeft (s.stack n) s.now none;
      (k.sue.pass = some p) ∧ (k.sue.bind p.layer = some b) ∧ (p.bads = 3 :: [5])) := by
  refine ⟨?_, ?_⟩ <;> decide +kernel

theorem test_meets_StepClosesOnceTriggersEnd :
    (let s : State := sue (fun x => { x with closing := some (7, false), binds := [{ bind0 with trig := some trig7 }], queue := [9] }) on;
      let n : Nat := 0;
      let step : Nat := 7;
      let nf : Bool := false;
      (n < 12) ∧ (s.pwr.stopped = false) ∧
      let k := s.stack n;
      (k.sue.closing = some (step, nf)) ∧ (k.sue.canClose = false)) ∧
    (let s : State := sue (fun x => { x with closing := some (7, false) }) on;
      let n : Nat := 0;
      let step : Nat := 7;
      let nf : Bool := false;
      (n < 12) ∧ (s.pwr.stopped = false) ∧
      let k := s.stack n;
      (k.sue.closing = some (step, nf)) ∧ (k.sue.canClose = true)) := by
  refine ⟨?_, ?_⟩ <;> decide +kernel

theorem test_meets_LossScaleFollowsTheFlag :
    (let x : Sue := { Sue.reset with mode := 2, e := 1, clean := 0 };
      (x.mode ≠ 0)) ∧
    (let x : Sue := { Sue.reset with mode := 2, e := 1, clean := 0 };
      (x.mode ≠ 0) ∧ (x.emin < x.e)) ∧
    (let x : Sue := { Sue.reset with mode := 2, e := 0, clean := 0 };
      (x.mode ≠ 0) ∧ (x.e ≤ x.emin)) ∧
    (let x : Sue := { Sue.reset with mode := 2, e := 1, clean := 1998 };
      (x.mode ≠ 0) ∧ (x.clean + 1 < x.grow)) ∧
    (let x : Sue := { Sue.reset with mode := 2, e := 31, clean := 1999 };
      (x.mode ≠ 0) ∧ (x.grow ≤ x.clean + 1) ∧ (x.e < x.emax)) ∧
    (let x : Sue := { Sue.reset with mode := 2, e := 32, clean := 1999 };
      (x.mode ≠ 0) ∧ (x.grow ≤ x.clean + 1) ∧ (x.emax ≤ x.e)) := by
  refine ⟨?_, ?_, ?_, ?_, ?_, ?_⟩ <;> decide +kernel

theorem test_meets_RollbackAndUpdateDeadlines :
    (let s : State := bound { bind0 with rolling := true } on;
      let n : Nat := 0;
      let l : Nat := 9;
      let b : Bind := { bind0 with rolling := true };
      (n < 12) ∧ (s.pwr.stopped = false) ∧ ((s.stack n).sue.bind l = some b)) ∧
    (let s : State := bound { bind0 with trig := some { trig7 with phase := .running, dl := some 5 } } (at_ 5 on);
      let n : Nat := 0;
      let l : Nat := 9;
      let b : Bind := { bind0 with trig := some { trig7 with phase := .running, dl := some 5 } };
      (n < 12) ∧ (s.pwr.stopped = false) ∧ ((s.stack n).sue.bind l = some b) ∧
      let t := { trig7 with phase := .running, dl := some 5 };
      let dl := 5;
      (b.trig = some t) ∧ (t.dl = some dl) ∧ (dl ≤ s.now) ∧ (t.phase ≠ .waiting) ∧ (t.miss = false) ∧ (s.dlOn 1 = true)) ∧
    (let s : State := bound { bind0 with trig := some { trig7 with phase := .waiting, dl := some 5 } } (at_ 5 on);
      let n : Nat := 0;
      let l : Nat := 9;
      let b : Bind := { bind0 with trig := some { trig7 with phase := .waiting, dl := some 5 } };
      (n < 12) ∧ (s.pwr.stopped = false) ∧ ((s.stack n).sue.bind l = some b) ∧
      let t := { trig7 with phase := .waiting, dl := some 5 };
      let dl := 5;
      (b.trig = some t) ∧ (t.dl = some dl) ∧ (dl ≤ s.now) ∧ (t.phase = .waiting) ∧ (t.noPin = false) ∧ (s.dlOn 2 = true)) := by
  refine ⟨?_, ?_, ?_⟩ <;> decide +kernel

theorem test_meets_LinkSlotSendsTheChosenPacket :
    (let s : State := at_ 100000 (on.updLink 63 (fun k => { k with st := .standby, txPos := 0 }));
      let l : Nat := 63;
      (l < 64) ∧ (s.pwr.stopped = false) ∧ (s.dieUp (l / 32) = true) ∧
      let k := s.link l;
      (k.st.slots = true) ∧ (k.txPos = 0) ∧ (k.mute s.now = false)) ∧
    (let s : State := at_ 100000 (on.updLink 63 (fun k => { k with st := .up, txPos := 256 }));
      let l : Nat := 63;
      (l < 64) ∧ (s.pwr.stopped = false) ∧ (s.dieUp (l / 32) = true) ∧
      let k := s.link l;
      (k.st = .up) ∧ (k.txPos ≠ 0) ∧ (k.choose = none)) ∧
    (let s : State := at_ 100000 (on.updLink 63 (fun k => { k with st := .up, txPos := 256, tx := [⟨pkt 1 0 [1], 0, 1, 0⟩] }));
      let l : Nat := 63;
      (l < 64) ∧ (s.pwr.stopped = false) ∧ (s.dieUp (l / 32) = true) ∧
      let k := s.link l;
      let x := (⟨pkt 1 0 [1], 0, 1, 0⟩ : TxP);
      (k.st = .up) ∧ (k.txPos ≠ 0) ∧ (k.choose = some x) ∧ (k.mute s.now = false)) ∧
    (let s : State := at_ 100000 (on.updLink 63 (fun k => { k with st := .training, gate := true, txPos := 256 }));
      let l : Nat := 63;
      (l < 64) ∧ (s.pwr.stopped = false) ∧ (s.dieUp (l / 32) = true) ∧
      let k := s.link l;
      (k.st = .training) ∧ (k.gate = true) ∧ (k.mute s.now = false)) := by
  refine ⟨?_, ?_, ?_, ?_⟩ <;> decide +kernel

theorem test_meets_IngressForwardsOrDrops :
    (let s : State := on.updLink 63 (fun k => { k with st := .standby });
      let l : Nat := 63;
      let p0 : Packet := pkt 1 0 [1];
      let rx : Rx := ⟨0, 256, [16, 16], 15⟩;
      (l < 64) ∧ (rx.wf false = true) ∧ (s.pwr.stopped = false) ∧ ((s.link l).st = .up ∨ (s.link l).st = .standby) ∧ (s.dieUp (l / 32) = true) ∧ ((s.link l).mute s.now = false) ∧
      let mine := p0.slice ≠ 0 ∧ p0.slice = s.fab.slice ∧ s.fab.memberPort (l / 4) = true ∧ s.fab.inBox p0.src = true ∧
      s.fab.inBox p0.dst = true;
      (rxLost rx = true)) ∧
    (let s : State := sliced on;
      let l : Nat := 3;
      let p0 : Packet := pkt 1 0 [1];
      let rx : Rx := ⟨0, 1, [15, 15], 0⟩;
      (l < 64) ∧ (rx.wf false = true) ∧ (s.pwr.stopped = false) ∧ ((s.link l).st = .up ∨ (s.link l).st = .standby) ∧ (s.dieUp (l / 32) = true) ∧ ((s.link l).mute s.now = false) ∧
      let mine := p0.slice ≠ 0 ∧ p0.slice = s.fab.slice ∧ s.fab.memberPort (l / 4) = true ∧ s.fab.inBox p0.src = true ∧
      s.fab.inBox p0.dst = true;
      (rxLost rx = false) ∧ (mine)) ∧
    (let s : State := sliced (on.updLink 1 (fun k => { k with foreign := some 0 }));
      let l : Nat := 1;
      let p0 : Packet := { pkt 1 0 [1] with slice := 0 };
      let rx : Rx := ⟨0, 1, [], 0⟩;
      (l < 64) ∧ (rx.wf false = true) ∧ (s.pwr.stopped = false) ∧ ((s.link l).st = .up ∨ (s.link l).st = .standby) ∧ (s.dieUp (l / 32) = true) ∧ ((s.link l).mute s.now = false) ∧
      let mine := p0.slice ≠ 0 ∧ p0.slice = s.fab.slice ∧ s.fab.memberPort (l / 4) = true ∧ s.fab.inBox p0.src = true ∧
      s.fab.inBox p0.dst = true;
      (rxLost rx = false) ∧ (¬ mine) ∧ ((s.link l).foreign = some (s.now / 100000))) ∧
    (let s : State := sliced on;
      let l : Nat := 1;
      let p0 : Packet := { pkt 1 0 [1] with slice := 0 };
      let rx : Rx := ⟨0, 1, [], 0⟩;
      (l < 64) ∧ (rx.wf false = true) ∧ (s.pwr.stopped = false) ∧ ((s.link l).st = .up ∨ (s.link l).st = .standby) ∧ (s.dieUp (l / 32) = true) ∧ ((s.link l).mute s.now = false) ∧
      let mine := p0.slice ≠ 0 ∧ p0.slice = s.fab.slice ∧ s.fab.memberPort (l / 4) = true ∧ s.fab.inBox p0.src = true ∧
      s.fab.inBox p0.dst = true;
      (rxLost rx = false) ∧ (¬ mine) ∧ ((s.link l).foreign ≠ some (s.now / 100000))) := by
  refine ⟨?_, ?_, ?_, ?_⟩ <;> decide +kernel

theorem test_meets_ControlSlotsKeepTheLink :
    (let s : State := on.updLink 63 (fun k => { k with st := .up });
      let l : Nat := 63;
      let bs : List Byte := List.replicate 80 1;
      let rx : Rx := ⟨0, 0, [], 15⟩;
      (l < 64) ∧ (s.pwr.stopped = false) ∧ ((s.link l).st.slots = true) ∧ (s.dieUp (l / 32) = true) ∧ (rx.wf true = true) ∧ ((s.link l).mute s.now = false) ∧
      let c := ctlOf bs;
      (sealOk bs = false)) ∧
    (let s : State := on.updLink 63 (fun k => { k with st := .up });
      let l : Nat := 63;
      let bs : List Byte := sealed (List.replicate 8 0 ++ toLE 16 (2 ^ 29 + 2 ^ 30) ++ List.replicate 52 0);
      let rx : Rx := ⟨0, 0, [], 15⟩;
      (l < 64) ∧ (s.pwr.stopped = false) ∧ ((s.link l).st.slots = true) ∧ (s.dieUp (l / 32) = true) ∧ (rx.wf true = true) ∧ ((s.link l).mute s.now = false) ∧
      let c := ctlOf bs;
      (sealOk bs = true) ∧ (¬ (c.sample.valid = true ∧ c.sample.state = 2))) ∧
    (let s : State := on.updLink 63 (fun k => { k with st := .up });
      let l : Nat := 63;
      let bs : List Byte := sealed (List.replicate 8 0 ++ toLE 16 (2 ^ 29 + 2 ^ 31) ++ List.replicate 52 0);
      let rx : Rx := ⟨0, 0, [], 15⟩;
      (l < 64) ∧ (s.pwr.stopped = false) ∧ ((s.link l).st.slots = true) ∧ (s.dieUp (l / 32) = true) ∧ (rx.wf true = true) ∧ ((s.link l).mute s.now = false) ∧
      let c := ctlOf bs;
      (sealOk bs = true) ∧ (c.sample.valid = true) ∧ (c.sample.state = 2)) ∧
    (let s : State := at_ 200 (on.updLink 63 (fun k => { k with st := .up }));
      let l : Nat := 63;
      (l < 64) ∧ (s.pwr.stopped = false) ∧ ((s.link l).st.slots = true) ∧ (s.dieUp (l / 32) = true) ∧ ((s.link l).lastGood + 200 ≤ s.now)) := by
  refine ⟨?_, ?_, ?_, ?_⟩ <;> decide +kernel

theorem test_meets_InjectionNumbersAndKeeps :
    (let s : State := (sliced on).updEndp 1 (fun e => { e with outq := [({ pkt 1 7 [1] with dst := 9, src := 0 }, .resp)] });
      let d : Nat := 1;
      let cyc : Nat := 15;
      let p : Packet := { pkt 1 7 [1] with dst := 9, src := 0 };
      let o : Orig := Orig.resp;
      let rest : List (Packet × Orig) := [];
      (d < 2) ∧ (cyc < 16) ∧ (s.pwr.stopped = false) ∧ (s.dieUp d = true) ∧
      let e := s.endp d;
      (splitFirst (fun x => e.canInject x.1) e.outq = some ((p, o), rest)) ∧
      let q := e.pair p.dst;
      (s.fab.inBox p.dst = false)) ∧
    (let s : State := (sliced on).updEndp 1 (fun e => { e with outq := [({ pkt tACK 7 [] with dst := 1, src := 0, vc := 1 }, .resp)] });
      let d : Nat := 1;
      let cyc : Nat := 15;
      let p : Packet := { pkt tACK 7 [] with dst := 1, src := 0, vc := 1 };
      let o : Orig := Orig.resp;
      let rest : List (Packet × Orig) := [];
      (d < 2) ∧ (cyc < 16) ∧ (s.pwr.stopped = false) ∧ (s.dieUp d = true) ∧
      let e := s.endp d;
      (splitFirst (fun x => e.canInject x.1) e.outq = some ((p, o), rest)) ∧
      let q := e.pair p.dst;
      (s.fab.inBox p.dst = true) ∧ (p.typ = tACK)) ∧
    (let s : State := (sliced on).updEndp 1 (fun e => { e with outq := [({ pkt 1 7 [1] with dst := 1, src := 0 }, .resp)], pairs := [(⟨1, 0, [], 0, true, 0, 0, none, none⟩ : Pair)] });
      let d : Nat := 1;
      let cyc : Nat := 15;
      let p : Packet := { pkt 1 7 [1] with dst := 1, src := 0 };
      let o : Orig := Orig.resp;
      let rest : List (Packet × Orig) := [];
      (d < 2) ∧ (cyc < 16) ∧ (s.pwr.stopped = false) ∧ (s.dieUp d = true) ∧
      let e := s.endp d;
      (splitFirst (fun x => e.canInject x.1) e.outq = some ((p, o), rest)) ∧
      let q := e.pair p.dst;
      (s.fab.inBox p.dst = true) ∧ (p.typ ≠ tACK) ∧ (q.lost = true)) ∧
    (let s : State := (sliced on).updEndp 1 (fun e => { e with outq := [({ pkt 1 7 [1] with dst := 1, src := 0 }, .resp)] });
      let d : Nat := 1;
      let cyc : Nat := 15;
      let p : Packet := { pkt 1 7 [1] with dst := 1, src := 0 };
      let o : Orig := Orig.resp;
      let rest : List (Packet × Orig) := [];
      (d < 2) ∧ (cyc < 16) ∧ (s.pwr.stopped = false) ∧ (s.dieUp d = true) ∧
      let e := s.endp d;
      (splitFirst (fun x => e.canInject x.1) e.outq = some ((p, o), rest)) ∧
      let q := e.pair p.dst;
      (s.fab.inBox p.dst = true) ∧ (p.typ ≠ tACK) ∧ (q.lost = false)) := by
  refine ⟨?_, ?_, ?_, ?_⟩ <;> decide +kernel

theorem test_meets_ReceptionCommitsInOrder :
    (let s : State := (sliced on).updEndp 1 (fun e => { e with inq := [{ pkt 1 7 [1] with crc := 1 }] });
      let d : Nat := 1;
      let p : Packet := { pkt 1 7 [1] with crc := 1 };
      let rest : List Packet := [];
      (d < 2) ∧ (s.pwr.stopped = false) ∧ (s.dieUp d = true) ∧
      let e := s.endp d;
      (firstFree (s.mustWait d) [] e.inq = some (p, rest)) ∧
      let behind := ((e.pair p.src).next + 2 ^ 24 - p.seq) % 2 ^ 24;
      (pktOk p = false)) ∧
    (let s : State := (sliced on).updEndp 1 (fun e => { e with inq := [(let p : Packet := { pkt 1 7 [1] with vc := 1 }; { p with crc := pktSum p } : Packet)] });
      let d : Nat := 1;
      let p : Packet := (let p : Packet := { pkt 1 7 [1] with vc := 1 }; { p with crc := pktSum p } : Packet);
      let rest : List Packet := [];
      (d < 2) ∧ (s.pwr.stopped = false) ∧ (s.dieUp d = true) ∧
      let e := s.endp d;
      (firstFree (s.mustWait d) [] e.inq = some (p, rest)) ∧
      let behind := ((e.pair p.src).next + 2 ^ 24 - p.seq) % 2 ^ 24;
      (pktOk p = true) ∧ (vcOf p.typ ≠ some p.vc)) ∧
    (let s : State := (sliced on).updEndp 1 (fun e => { e with inq := [(let p : Packet := pkt 1 7 [1]; { p with crc := pktSum p } : Packet)] });
      let d : Nat := 1;
      let p : Packet := (let p : Packet := pkt 1 7 [1]; { p with crc := pktSum p } : Packet);
      let rest : List Packet := [];
      (d < 2) ∧ (s.pwr.stopped = false) ∧ (s.dieUp d = true) ∧
      let e := s.endp d;
      (firstFree (s.mustWait d) [] e.inq = some (p, rest)) ∧
      let behind := ((e.pair p.src).next + 2 ^ 24 - p.seq) % 2 ^ 24;
      (pktOk p = true) ∧ (vcOf p.typ = some p.vc) ∧ (behind = 0) ∧ (s.keepsSlot p = false)) ∧
    (let s : State := (sliced on).updEndp 1 (fun e => { e with inq := [(let p : Packet := { pkt tCOLL 7 [1] with vc := 2 }; { p with crc := pktSum p } : Packet)] });
      let d : Nat := 1;
      let p : Packet := (let p : Packet := { pkt tCOLL 7 [1] with vc := 2 }; { p with crc := pktSum p } : Packet);
      let rest : List Packet := [];
      (d < 2) ∧ (s.pwr.stopped = false) ∧ (s.dieUp d = true) ∧
      let e := s.endp d;
      (firstFree (s.mustWait d) [] e.inq = some (p, rest)) ∧
      let behind := ((e.pair p.src).next + 2 ^ 24 - p.seq) % 2 ^ 24;
      (pktOk p = true) ∧ (vcOf p.typ = some p.vc) ∧ (behind = 0) ∧ (s.keepsSlot p = true)) ∧
    (let s : State := (sliced on).updEndp 1 (fun e => { e with inq := [(let p : Packet := { pkt 1 7 [1] with seq := 5 }; { p with crc := pktSum p } : Packet)] });
      let d : Nat := 1;
      let p : Packet := (let p : Packet := { pkt 1 7 [1] with seq := 5 }; { p with crc := pktSum p } : Packet);
      let rest : List Packet := [];
      (d < 2) ∧ (s.pwr.stopped = false) ∧ (s.dieUp d = true) ∧
      let e := s.endp d;
      (firstFree (s.mustWait d) [] e.inq = some (p, rest)) ∧
      let behind := ((e.pair p.src).next + 2 ^ 24 - p.seq) % 2 ^ 24;
      (pktOk p = true) ∧ (vcOf p.typ = some p.vc) ∧ (behind ≠ 0)) := by
  refine ⟨?_, ?_, ?_, ?_, ?_⟩ <;> decide +kernel

theorem test_meets_AcknowledgeOrResend :
    (let s : State := (sliced (at_ 100 on)).updEndp 1 (fun e => { e with pairs := [⟨1, 0, [], 0, false, 0, 1, some 0, none⟩] });
      let d : Nat := 1;
      let node : Nat := 1;
      (d < 2) ∧ (s.pwr.stopped = false) ∧ (s.dieUp d = true) ∧
      let t := 0;
      (((s.endp d).pair node).since = some t) ∧ (t + 100 ≤ s.now)) ∧
    (let s : State := (sliced on).updEndp 1 (fun e => { e with inq := [{ pkt tACK 0 [] with vc := 1, seq := 1, crc := 1 }] });
      let d : Nat := 1;
      (d < 2) ∧ (s.pwr.stopped = false) ∧ (s.dieUp d = true) ∧
      let p : Packet := { pkt tACK 0 [] with vc := 1, seq := 1, crc := 1 };
      let rest := ([] : List Packet);
      (splitFirst (fun p => p.typ == tACK) (s.endp d).inq = some (p, rest)) ∧
      let q := (s.endp d).pair p.src;
      let under (k : Kept) : Bool := 1 ≤ (p.seq + 2 ^ 24 - k.p.seq) % 2 ^ 24 && decide ((p.seq + 2 ^ 24 - k.p.seq) % 2 ^ 24 ≤ 2 ^ 23);
      (pktOk p = false)) ∧
    (let s : State := (sliced on).updEndp 1 (fun e => { e with inq := [(let p : Packet := { pkt tACK 0 [] with vc := 1, seq := 1 }; { p with crc := pktSum p } : Packet)] });
      let d : Nat := 1;
      (d < 2) ∧ (s.pwr.stopped = false) ∧ (s.dieUp d = true) ∧
      let p := (let p : Packet := { pkt tACK 0 [] with vc := 1, seq := 1 }; { p with crc := pktSum p } : Packet);
      let rest := ([] : List Packet);
      (splitFirst (fun p => p.typ == tACK) (s.endp d).inq = some (p, rest)) ∧
      let q := (s.endp d).pair p.src;
      let under (k : Kept) : Bool := 1 ≤ (p.seq + 2 ^ 24 - k.p.seq) % 2 ^ 24 && decide ((p.seq + 2 ^ 24 - k.p.seq) % 2 ^ 24 ≤ 2 ^ 23);
      (pktOk p = true) ∧ (p.vc = 1) ∧ (q.kept.filter under = [])) ∧
    (let s : State := (sliced on).updEndp 1 (fun e => { e with inq := [(let p : Packet := { pkt tACK 0 [] with vc := 1, seq := 1 }; { p with crc := pktSum p } : Packet)], pairs := [⟨1, 1, [(⟨{ pkt 1 7 [1] with dst := 1, src := 0 }, .resp, 0⟩ : Kept)], 0, false, 0, 0, none, none⟩] });
      let d : Nat := 1;
      (d < 2) ∧ (s.pwr.stopped = false) ∧ (s.dieUp d = true) ∧
      let p := (let p : Packet := { pkt tACK 0 [] with vc := 1, seq := 1 }; { p with crc := pktSum p } : Packet);
      let rest := ([] : List Packet);
      (splitFirst (fun p => p.typ == tACK) (s.endp d).inq = some (p, rest)) ∧
      let q := (s.endp d).pair p.src;
      let under (k : Kept) : Bool := 1 ≤ (p.seq + 2 ^ 24 - k.p.seq) % 2 ^ 24 && decide ((p.seq + 2 ^ 24 - k.p.seq) % 2 ^ 24 ≤ 2 ^ 23);
      (pktOk p = true) ∧ (p.vc = 1) ∧ (q.kept.filter under ≠ [])) ∧
    (let s : State := (sliced (at_ 800 on)).updEndp 1 (fun e => { e with pairs := [⟨1, 1, [(⟨{ pkt 1 7 [1] with dst := 1, src := 0 }, .resp, 0⟩ : Kept)], 2, false, 0, 0, none, none⟩] });
      let d : Nat := 1;
      let node : Nat := 1;
      (d < 2) ∧ (s.pwr.stopped = false) ∧ (s.dieUp d = true) ∧
      let k := (⟨{ pkt 1 7 [1] with dst := 1, src := 0 }, .resp, 0⟩ : Kept);
      let rest := ([] : List Kept);
      let s0 := s.acksFirst d node;
      (s0.dieUp d = true) ∧ (((s0.endp d).pair node).kept = k :: rest) ∧ (((s0.endp d).pair node).lost = false) ∧ (s0.fab.timeout ≠ 0) ∧ (k.t + s0.fab.timeout ≤ s0.now) ∧
      let q := (s0.endp d).pair node;
      (q.retry < 3)) ∧
    (let s : State := (sliced (at_ 800 on)).updEndp 1 (fun e => { e with pairs := [⟨1, 1, [(⟨{ pkt 1 7 [1] with dst := 1, src := 0 }, .resp, 0⟩ : Kept)], 3, false, 0, 0, none, none⟩] });
      let d : Nat := 1;
      let node : Nat := 1;
      (d < 2) ∧ (s.pwr.stopped = false) ∧ (s.dieUp d = true) ∧
      let k := (⟨{ pkt 1 7 [1] with dst := 1, src := 0 }, .resp, 0⟩ : Kept);
      let rest := ([] : List Kept);
      let s0 := s.acksFirst d node;
      (s0.dieUp d = true) ∧ (((s0.endp d).pair node).kept = k :: rest) ∧ (((s0.endp d).pair node).lost = false) ∧ (s0.fab.timeout ≠ 0) ∧ (k.t + s0.fab.timeout ≤ s0.now) ∧
      let q := (s0.endp d).pair node;
      (3 ≤ q.retry)) := by
  refine ⟨?_, ?_, ?_, ?_, ?_, ?_⟩ <;> decide +kernel

theorem test_meets_AnswersReachTheirJob :
    (let s : State := (sliced (blk (fun b => { b with jobs := [job 1] }))).updEndp 1 (fun e => { e with resps := [pkt tRESP 7 (List.replicate 64 1)], reqs := [⟨7, 1, 0, 1, 0x40, 8, 0⟩] });
      let d : Nat := 1;
      let p : Packet := pkt tRESP 7 (List.replicate 64 1);
      let rest : List Packet := [];
      let r : RReq := ⟨7, 1, 0, 1, 0x40, 8, 0⟩;
      (d < 2) ∧ (s.coreUp = true) ∧ ((s.endp d).reqs.find? (fun r => r.tag == p.tag && r.node == p.src) = some r) ∧
      ((s.endp d).resps = p :: rest) ∧ (p.last = true)) ∧
    (let s : State := (sliced (blk (fun b => { b with jobs := [job 1] }))).updEndp 1 (fun e => { e with errs := [pkt tERR 7 [2]], reqs := [⟨7, 1, 0, 1, 0x40, 8, 0⟩] });
      let d : Nat := 1;
      let p : Packet := pkt tERR 7 [2];
      let rest : List Packet := [];
      let r : RReq := ⟨7, 1, 0, 1, 0x40, 8, 0⟩;
      (d < 2) ∧ (s.coreUp = true) ∧ ((s.endp d).reqs.find? (fun r => r.tag == p.tag && r.node == p.src) = some r) ∧
      let cause := fld p.payload 0 1;
      ((s.endp d).errs = p :: rest) ∧ (cause ≠ 7)) ∧
    (let s : State := (sliced (blk (fun b => { b with jobs := [job 1] }))).updEndp 1 (fun e => { e with errs := [pkt tERR 7 [7]], reqs := [⟨7, 1, 0, 1, 0x40, 8, 0⟩] });
      let d : Nat := 1;
      let p : Packet := pkt tERR 7 [7];
      let rest : List Packet := [];
      let r : RReq := ⟨7, 1, 0, 1, 0x40, 8, 0⟩;
      (d < 2) ∧ (s.coreUp = true) ∧ ((s.endp d).reqs.find? (fun r => r.tag == p.tag && r.node == p.src) = some r) ∧
      let cause := fld p.payload 0 1;
      ((s.endp d).errs = p :: rest) ∧ (cause = 7)) := by
  refine ⟨?_, ?_, ?_⟩ <;> decide +kernel

theorem test_meets_StepCounterSynchronises :
    (let s : State := (let s := sliced (at_ 100 on); { s with time := { s.time with round := 1 } });
      (s.pwr.crust = true) ∧ (s.pwr.stopped = false) ∧ (s.now < s.time.round + 100)) ∧
    (let s : State := (let s := sliced (at_ 100 on); { s with time := { s.time with round := 0 } });
      (s.pwr.crust = true) ∧ (s.pwr.stopped = false) ∧ (s.time.round + 100 ≤ s.now)) ∧
    (let s : State := (let s := (let s := sliced (at_ 100 on); { s with time := { s.time with round := 0 } }); { s with fab := { s.fab with links := s.fab.links.mapIdx (fun l k => if l = 0 then { k with sample := some (5, 2, 0) } else k) } });
      (s.samples ≠ []) ∧ (s.time.state = 0) ∧ ((∀ x ∈ s.samples, x.2.natAbs ≤ 10 * 2 ^ 32))) ∧
    (let s : State := (let s := sliced (at_ 100 on); { s with time := { s.time with round := 0 } });
      (s.samples = [])) ∧
    (let s : State := (let s := at_ 1000000 (sliced on); { s with time := { s.time with quiet := some 0 } });
      let t : Nat := 0;
      (s.pwr.stopped = false) ∧ (s.time.quiet = some t) ∧ (s.time.state = 0) ∧ (s.fab.node = 0) ∧ (t + 1000000 ≤ s.now)) := by
  refine ⟨?_, ?_, ?_, ?_, ?_⟩ <;> decide +kernel

theorem test_meets_RecordsAndSliceStop :
    (let s : State := { sliced on with fab := { (sliced on).fab with ctrlq := [pkt tCTRL 0 [1]] } };
      let p : Packet := pkt tCTRL 0 [1];
      let rest : List Packet := [];
      (s.pwr.stopped = false) ∧ (splitFirst (fun p => fld p.payload 0 1 == 1) s.fab.ctrlq = some (p, rest)) ∧
      let s1 := ({ s with fab := { s.fab with ctrlq := rest } }).relayOn p 1;
      (s1.coreUp = true) ∧ (s1.fab.transit = false)) ∧
    (let s : State := { sliced on with fab := { (sliced on).fab with ctrlq := [pkt tCTRL 0 [2]] } };
      let p : Packet := pkt tCTRL 0 [2];
      let rest : List Packet := [];
      (s.pwr.stopped = false) ∧ (splitFirst (fun p => fld p.payload 0 1 == 2) s.fab.ctrlq = some (p, rest)) ∧
      let s1 := ({ s with fab := { s.fab with ctrlq := rest } }).relayOn p 2;
      (s1.coreUp = true) ∧ (s1.fab.transit = false)) ∧
    (let s : State := { on with fab := { on.fab with stopQ := [(1, 0)], lastStart := 1 } };
      let how : Nat := 1;
      let r : Nat := 0;
      let rest : List (Nat × Nat) := [];
      (s.thallusUp = true) ∧ (s.fab.stopQ = (how, r) :: rest) ∧
      let old := how = 1 ∧ bits r 192 64 < s.fab.lastStart;
      ((old ∨ s.fab.stopOn = true))) ∧
    (let s : State := { on with fab := { on.fab with stopQ := [(0, 0)], lastStart := 1 } };
      let how : Nat := 0;
      let r : Nat := 0;
      let rest : List (Nat × Nat) := [];
      (s.thallusUp = true) ∧ (s.fab.stopQ = (how, r) :: rest) ∧
      let old := how = 1 ∧ bits r 192 64 < s.fab.lastStart;
      (¬ old) ∧ (s.fab.stopOn = false)) := by
  refine ⟨?_, ?_, ?_, ?_⟩ <;> decide +kernel

theorem test_meets_EmptyQueueTicks :
    (let s : State := State.reset;
      (s.pending = []) ∧ (s.crustUp = false)) ∧
    (let s : State := on;
      (s.pending = []) ∧ (s.crustUp = true) ∧ (s.host.hbPart + 1 < 50000)) ∧
    (let s : State := { on with host := { on.host with hbPart := 49999 } };
      (s.pending = []) ∧ (s.crustUp = true) ∧ (50000 ≤ s.host.hbPart + 1)) := by
  refine ⟨?_, ?_, ?_⟩ <;> decide +kernel

theorem test_meets_NothingIssuesWhilePaused :
    (let s : State := { blk id with pwr := { on.pwr with pause := some 0 } };
      ∀ n, n = 0 ∨ n = 143 → s.canIssue n = false) := by
  intro s n h; rcases h with rfl | rfl <;> decide +kernel

theorem test_meets_ResetValues :
    (let n := 143;
      (n < 144)) ∧
    (let r := 3;
      (r < 4)) ∧
    (let n := 11;
      (n < 12)) ∧
    (let l := 63;
      (l < 64)) := by
  refine ⟨?_, ?_, ?_, ?_⟩ <;> decide +kernel

theorem test_meets_EventIsEntered :
    (let s : State := { on with events := [⟨0x0401, 3, 0, 0, 0, 0⟩], sec := { on.sec with tamperDue := false } };
      let e : Ev := ⟨0x0401, 3, 0, 0, 0, 0⟩;
      let rest : List Ev := [];
      (s.events = e :: rest) ∧ (s.thallusUp = true) ∧
      ((e.code ≠ 0x0B01 ∨ s.sec.tamperDue = false))) ∧
    (let s : State := { on with events := [⟨0x0B01, 3, 0, 0, 0, 0⟩], sec := { on.sec with tamperDue := true } };
      let e : Ev := ⟨0x0B01, 3, 0, 0, 0, 0⟩;
      let rest : List Ev := [];
      (s.events = e :: rest) ∧ (s.thallusUp = true) ∧
      (e.code = 0x0B01) ∧ (s.sec.tamperDue = true)) := by
  refine ⟨?_, ?_⟩ <;> decide +kernel

theorem test_meets_EntryOfAnEvent :
    (let s : State := { on with host := { on.host with head := 1023 } };
      let full := (s.host.head + 1) % 1024 = s.host.tail;
      (full)) ∧
    (let s : State := { on with host := { on.host with head := 1023, tail := 1 } };
      let full := (s.host.head + 1) % 1024 = s.host.tail;
      (¬ full)) ∧
    (let e : Ev := ⟨2, 1, 0, 0, 0, 0⟩;
      (2 ≤ classOf e.code e.level)) ∧
    (let e : Ev := ⟨0x0201, 5, 0, 0, 0, 0⟩;
      (classOf e.code e.level < 2)) ∧
    (let e : Ev := ⟨2, 1, 0, 0, 0, 0⟩;
      (startsStop e = true)) ∧
    (let e : Ev := ⟨0x0201, 5, 0, 0, 0, 0⟩;
      (startsStop e = false)) := by
  refine ⟨?_, ?_, ?_, ?_, ?_, ?_⟩ <;> decide +kernel

theorem test_meets_GapEnds :
    (let s : State := at_ 4 { on with host := { on.host with gapEnd := some 5, gapDue := false } };
      let t : Nat := 5;
      (s.pwr.stopped = false) ∧ (s.host.gapEnd = some t) ∧ (s.now < t)) ∧
    (let s : State := at_ 5 { on with host := { on.host with gapEnd := some 5, gapDue := false } };
      let t : Nat := 5;
      (s.pwr.stopped = false) ∧ (s.host.gapEnd = some t) ∧ (t ≤ s.now) ∧ (s.host.gapDue = false)) ∧
    (let s : State := at_ 5 { on with host := { on.host with gapEnd := some 5, gapDue := true } };
      let t : Nat := 5;
      (s.pwr.stopped = false) ∧ (s.host.gapEnd = some t) ∧ (t ≤ s.now) ∧ (s.host.gapDue = true)) := by
  refine ⟨?_, ?_, ?_⟩ <;> decide +kernel

theorem test_meets_CorrectionsAreSummed :
    (let s : State := on.updBlock 143 (fun b => { b with corrNow := [0, 0, 3] });
      let u : Nat := 143;
      let kind := 4;
      let i := 2;
      (s.pwr.stopped = false) ∧ ((kind, i) ∈ [(0, 0), (3, 1), (4, 2)]) ∧ (u < 144) ∧ ((s.block u).corrNow.getD i 0 ≠ 0)) ∧
    (let s : State := on.updBlock 143 (fun b => { b with corrNow := [0, 0, 0] });
      let u : Nat := 143;
      let kind := 4;
      let i := 2;
      (s.pwr.stopped = false) ∧ ((kind, i) ∈ [(0, 0), (3, 1), (4, 2)]) ∧ (u < 144) ∧ ((s.block u).corrNow.getD i 0 = 0)) ∧
    (let s : State := region 3 (fun g => { g with corrNow := 1 }) on;
      let u : Nat := 3;
      (s.pwr.stopped = false) ∧ (u < 4) ∧ ((s.region u).corrNow ≠ 0)) ∧
    (let s : State := on.updStack 11 (fun k => { k with corrNow := 1 });
      let u : Nat := 11;
      (s.pwr.stopped = false) ∧ (u < 12) ∧ ((s.stack u).corrNow ≠ 0)) := by
  refine ⟨?_, ?_, ?_, ?_⟩ <;> decide +kernel

theorem test_meets_MailboxWrites :
    (let s : State := on;
      let m : Nat := 15;
      let off : Nat := 4094;
      let data : List Byte := [1, 2];
      (m < 16) ∧ (off + data.length ≤ 4096) ∧ (s.crustUp = true) ∧ (data ≠ []) ∧
      let h := s.host.putMbx m off (mbxLay (s.host.mbx.raw (4096 * m + off) data.length) off data);
      (s.host.owned m = false) ∧ ((4 ≤ off ∨ (off = 0 ∧ 4 ≤ data.length))) ∧ (h.owned m = false)) ∧
    (let s : State := on;
      let m : Nat := 15;
      let off : Nat := 0;
      let data : List Byte := [1, 0, 0, 0];
      (m < 16) ∧ (off + data.length ≤ 4096) ∧ (s.crustUp = true) ∧ (data ≠ []) ∧
      let h := s.host.putMbx m off (mbxLay (s.host.mbx.raw (4096 * m + off) data.length) off data);
      (s.host.owned m = false) ∧ ((4 ≤ off ∨ (off = 0 ∧ 4 ≤ data.length))) ∧ (h.owned m = true)) ∧
    (let s : State := on;
      let m : Nat := 15;
      let off : Nat := 3;
      let data : List Byte := [1, 128];
      (m < 16) ∧ (off + data.length ≤ 4096) ∧ (s.crustUp = true) ∧ (data ≠ []) ∧
      ((s.host.owned m = true ∨ (off < 4 ∧ ¬ (off = 0 ∧ 4 ≤ data.length))))) ∧
    (let s : State := on;
      let m : Nat := 15;
      let off : Nat := 0;
      let data : List Byte := [1];
      (m < 16) ∧ (off + data.length ≤ 4096) ∧ (s.crustUp = true) ∧ (data ≠ []) ∧ (s.host.handNow = 0)) ∧
    (let s : State := { on with host := { on.host with handNow := 1, hand := [15] } };
      let m : Nat := 14;
      let k : Nat := 15;
      let off : Nat := 0;
      let data : List Byte := [1];
      (m < 16) ∧ (off + data.length ≤ 4096) ∧ (s.crustUp = true) ∧ (data ≠ []) ∧ (s.host.handNow = 1) ∧ (s.host.hand = [k]) ∧ (m < k)) := by
  refine ⟨?_, ?_, ?_, ?_, ?_⟩ <;> decide +kernel

theorem test_meets_HandoffBegins :
    (let s : State := handed 0x0999 0 0 [];
      let m : Nat := 3;
      let rest : List Nat := [];
      (s.host.hand = m :: rest) ∧ (s.boot.ready = true) ∧ (s.thallusUp = true) ∧
      let op := s.host.mbxField m 4 2;
      (opTable.find? (fun x => x.1 == op) = none)) ∧
    (let s : State := handed 0x0300 8 0 [];
      let m : Nat := 3;
      let rest : List Nat := [];
      (s.host.hand = m :: rest) ∧ (s.boot.ready = true) ∧ (s.thallusUp = true) ∧
      let op := s.host.mbxField m 4 2;
      let len := s.host.mbxField m 8 4;
      let need := 4;
      (opTable.find? (fun x => x.1 == op) = some (op, need)) ∧ (len ≠ need)) ∧
    (let s : State := at_ 5 (handed 0x0300 4 5 []);
      let m : Nat := 3;
      let rest : List Nat := [];
      (s.host.hand = m :: rest) ∧ (s.boot.ready = true) ∧ (s.thallusUp = true) ∧
      let op := s.host.mbxField m 4 2;
      let len := s.host.mbxField m 8 4;
      let dl := s.host.mbxField m 16 8;
      let need := 4;
      (opTable.find? (fun x => x.1 == op) = some (op, need)) ∧ (len = need) ∧ (need ≤ 4064) ∧ (dl ≠ 0) ∧ (s.dlOn 3 = true) ∧ (dl ≤ s.now)) ∧
    (let s : State := handed 0x0A02 16 0 [] (fun s => { s with sec := { s.sec with fuses := { s.sec.fuses with lc := 2 } } });
      let m : Nat := 3;
      let rest : List Nat := [];
      (s.host.hand = m :: rest) ∧ (s.boot.ready = true) ∧ (s.thallusUp = true) ∧
      let s1 := { s with host := { s.host with hand := rest } };
      let op := s.host.mbxField m 4 2;
      let len := s.host.mbxField m 8 4;
      let dl := s.host.mbxField m 16 8;
      let p := s.host.mbx.raw (4096 * m + 32) (min len 4064);
      let need := 16;
      (opTable.find? (fun x => x.1 == op) = some (op, need)) ∧ (len = need) ∧ (need ≤ 4064) ∧ ((dl = 0 ∨ s.dlOn 3 = false ∨ s.now < dl)) ∧
      let t := ({ s with host := { s.host with hand := [] } });
      (s1.deny op p = some t)) ∧
    (let s : State := handed 0x0103 24 0 [] (fun s => { s with host := { s.host with runs := [{ cmdOf 0x0103 [] with m := 2 }] } });
      let m : Nat := 3;
      let rest : List Nat := [];
      (s.host.hand = m :: rest) ∧ (s.boot.ready = true) ∧ (s.thallusUp = true) ∧
      let s1 := { s with host := { s.host with hand := rest } };
      let op := s.host.mbxField m 4 2;
      let len := s.host.mbxField m 8 4;
      let dl := s.host.mbxField m 16 8;
      let p := s.host.mbx.raw (4096 * m + 32) (min len 4064);
      let others := (s.host.runs.filter (fun r => r.begun || r.ans.isNone)).map (fun r => claimsOf r.op r.pars);
      let clash := others.any (fun o => conflict (claimsOf op p) o || claimsAll (claimsOf op p) || claimsAll o);
      let need := 24;
      (opTable.find? (fun x => x.1 == op) = some (op, need)) ∧ (len = need) ∧ (need ≤ 4064) ∧ ((dl = 0 ∨ s.dlOn 3 = false ∨ s.now < dl)) ∧ (s1.deny op p = none) ∧ (clash = true)) ∧
    (let s : State := handed 0x0103 24 0 [];
      let m : Nat := 3;
      let rest : List Nat := [];
      (s.host.hand = m :: rest) ∧ (s.boot.ready = true) ∧ (s.thallusUp = true) ∧
      let s1 := { s with host := { s.host with hand := rest } };
      let op := s.host.mbxField m 4 2;
      let len := s.host.mbxField m 8 4;
      let dl := s.host.mbxField m 16 8;
      let p := s.host.mbx.raw (4096 * m + 32) (min len 4064);
      let others := (s.host.runs.filter (fun r => r.begun || r.ans.isNone)).map (fun r => claimsOf r.op r.pars);
      let clash := others.any (fun o => conflict (claimsOf op p) o || claimsAll (claimsOf op p) || claimsAll o);
      let need := 24;
      (opTable.find? (fun x => x.1 == op) = some (op, need)) ∧ (len = need) ∧ (need ≤ 4064) ∧ ((dl = 0 ∨ s.dlOn 3 = false ∨ s.now < dl)) ∧ (s1.deny op p = none) ∧ (clash = false) ∧ (s.sec.tamper = [])) := by
  refine ⟨?_, ?_, ?_, ?_, ?_, ?_⟩ <;> decide +kernel

theorem test_meets_CommandEnds :
    (let s : State := ended 0x0100 (fun c => { c with ans := some (0, [1, 2]) });
      let m : Nat := 3;
      let st : Nat := 0;
      let res : List Byte := [1, 2];
      let c : Cmd := { cmdOf 0x0100 [] with begun := true, ans := some (0, [1, 2]) };
      (m < 16) ∧ (s.cmd m = some c) ∧ (c.m = m) ∧ (s.thallusUp = true) ∧ (c.ans = some (st, res)) ∧ (c.op ≠ 0x0A02) ∧ ((c.late = false ∨ st ≠ 0))) ∧
    (let s : State := ended 0x0100 (fun c => { c with ans := some (0, [1, 2]), late := true });
      let m : Nat := 3;
      let st : Nat := 0;
      let res : List Byte := [1, 2];
      let c : Cmd := { cmdOf 0x0100 [] with begun := true, ans := some (0, [1, 2]), late := true };
      (m < 16) ∧ (s.cmd m = some c) ∧ (c.m = m) ∧ (s.thallusUp = true) ∧ (c.ans = some (st, res)) ∧ (c.op ≠ 0x0A02) ∧ (c.late = true) ∧ (st = 0) ∧ (partialOps.contains c.op = false)) ∧
    (let s : State := ended 0x0100 (fun c => { c with dl := 9 });
      let m : Nat := 3;
      let c : Cmd := { cmdOf 0x0100 [] with begun := true, dl := 9 };
      (m < 16) ∧ (s.cmd m = some c) ∧ (s.thallusUp = true) ∧ (c.late = false) ∧ (c.dl ≠ 0) ∧ (s.now < c.dl)) ∧
    (let s : State := ended 0x0100 (fun c => { c with ans := some (4, []), dl := 9 });
      let m : Nat := 3;
      let c : Cmd := { cmdOf 0x0100 [] with begun := true, ans := some (4, []), dl := 9 };
      (m < 16) ∧ (s.cmd m = some c) ∧ (s.thallusUp = true) ∧ (c.late = false) ∧ (c.dl ≠ 0) ∧
      let st := 4;
      let res : List Byte := [];
      (c.ans = some (st, res)) ∧ (st ≠ 0)) ∧
    (let s : State := at_ 9 (ended 0x0200 (fun c => { c with dl := 9 }));
      let m : Nat := 3;
      let c : Cmd := { cmdOf 0x0200 [] with begun := true, dl := 9 };
      (m < 16) ∧ (s.cmd m = some c) ∧ (s.thallusUp = true) ∧ (c.late = false) ∧ (c.dl ≠ 0) ∧ (c.dl ≤ s.now) ∧ (c.ans = none) ∧ (uninterrupted.contains c.op = true)) := by
  refine ⟨?_, ?_, ?_, ?_, ?_⟩ <;> decide +kernel

theorem test_meets_HostRegisters :
    (let s : State := { on with host := { on.host with head := 5, tail := 1020 } };
      let v : Nat := 5;
      (s.crustUp = true) ∧ ((v % 1024 + 1024 - s.host.tail) % 1024 ≤ (s.host.head + 1024 - s.host.tail) % 1024)) ∧
    (let s : State := { on with host := { on.host with head := 5, tail := 1020 } };
      let v : Nat := 6;
      (s.crustUp = true) ∧ ((s.host.head + 1024 - s.host.tail) % 1024 < (v % 1024 + 1024 - s.host.tail) % 1024)) ∧
    (let s : State := on;
      (s.crustUp = true)) ∧
    (let s : State := on;
      (s.crustUp = true) ∧
      let off := 0x8000;
      (off ∈ [0x0000, 0x0010, 0x0014, 0x0018, 0x0030, 0x8000])) := by
  refine ⟨?_, ?_, ?_, ?_⟩ <;> decide +kernel

theorem test_meets_ReadsWindowAndFlr :
    (let s : State := on;
      (s.crustUp = true)) ∧
    (let s : State := { on with pwr := { on.pwr with chip := 0 } };
      (s.crustUp = true) ∧
      let off := 2 ^ 36 - 8;
      let len := 8;
      (off + len ≤ 2 ^ 36) ∧ ((s.pwr.chip = 0 ∨ s.coreUp = false ∨ s.pwr.clkOff = true))) ∧
    (let s : State := on;
      (s.crustUp = true) ∧
      let off := 2 ^ 36 - 8;
      let len := 8;
      (off + len ≤ 2 ^ 36) ∧ (s.pwr.chip ≠ 0) ∧ (s.coreUp = true) ∧ (s.pwr.clkOff = false)) := by
  refine ⟨?_, ?_, ?_⟩ <;> decide +kernel

theorem test_meets_Heartbeat :
    (let s : State := (let s := at_ 1000000 on; { s with host := { s.host with hbPeriod := 10, hbAddr := 0 } });
      (s.crustUp = true) ∧ (s.host.hbT + 100000 * s.host.hbPeriod ≤ s.now) ∧ (s.thallusUp = true) ∧
      (s.host.hbAddr = 0)) ∧
    (let s : State := (let s := at_ 1000000 on; { s with host := { s.host with hbPeriod := 10, hbAddr := 16 } });
      (s.crustUp = true) ∧ (s.host.hbT + 100000 * s.host.hbPeriod ≤ s.now) ∧ (s.thallusUp = true) ∧
      (s.host.hbAddr ≠ 0)) ∧
    (let s : State := (let s := at_ 999999 on; { s with host := { s.host with hbPeriod := 10, hbAddr := 0 } });
      (s.now < s.host.hbT + 100000 * s.host.hbPeriod)) ∧
    (let s : State := (let s := at_ 1000000 on; { s with host := { s.host with silent := 5, hbAge := 6, silentDone := false } });
      (s.thallusUp = true) ∧ (s.host.silent ≠ 0) ∧ (s.host.silent < s.host.hbAge) ∧ (s.host.silentDone = false)) ∧
    (let s : State := (let s := at_ 1000000 on; { s with host := { s.host with silent := 5, hbAge := 6, silentDone := true } });
      (s.thallusUp = true) ∧ (s.host.silent ≠ 0) ∧ (s.host.silent < s.host.hbAge) ∧ (s.host.silentDone = true)) := by
  refine ⟨?_, ?_, ?_, ?_, ?_⟩ <;> decide +kernel

theorem test_meets_DeviceCommands :
    (let s : State := cmd 0x0100 ([]);
      let m : Nat := 3;
      let c : Cmd := cmdOf 0x0100 ([]);
      (s.waitsRow m 0x0100 c)) ∧
    (let s : State := cmd 0x0101 ([]);
      let m : Nat := 3;
      let c : Cmd := cmdOf 0x0101 ([]);
      (s.waitsRow m 0x0101 c)) ∧
    (let s : State := cmd 0x0102 ([]);
      let m : Nat := 3;
      let c : Cmd := cmdOf 0x0102 ([]);
      (s.waitsRow m 0x0102 c)) ∧
    (let s : State := cmd 0x0103 (toLE 4 1000 ++ toLE 4 1000 ++ toLE 8 4096);
      let m : Nat := 3;
      let c : Cmd := cmdOf 0x0103 (toLE 4 1000 ++ toLE 4 1000 ++ toLE 8 4096);
      (s.waitsRow m 0x0103 c) ∧
      let per := if fld c.pars 0 4 = 0 then s.host.hbNext else fld c.pars 0 4;
      let q := fld c.pars 4 4;
      let a := fld c.pars 8 8;
      ((fld c.pars 0 4 ≤ 1000 ∧ a % 16 = 0 ∧ (q = 0 ∨ per ≤ q)))) ∧
    (let s : State := cmd 0x0103 (toLE 4 1001 ++ toLE 4 0 ++ toLE 8 0);
      let m : Nat := 3;
      let c : Cmd := cmdOf 0x0103 (toLE 4 1001 ++ toLE 4 0 ++ toLE 8 0);
      (s.waitsRow m 0x0103 c) ∧
      let per := if fld c.pars 0 4 = 0 then s.host.hbNext else fld c.pars 0 4;
      let q := fld c.pars 4 4;
      let a := fld c.pars 8 8;
      (¬ (fld c.pars 0 4 ≤ 1000 ∧ a % 16 = 0 ∧ (q = 0 ∨ per ≤ q)))) := by
  refine ⟨?_, ?_, ?_, ?_, ?_⟩ <;> decide +kernel

theorem test_meets_PowerCommands :
    (let s : State := cmd 0x0200 (toLE 1 2);
      let m : Nat := 3;
      let c : Cmd := cmdOf 0x0200 (toLE 1 2);
      (s.waitsRow m 0x0200 c) ∧
      let t := fld c.pars 0 1;
      (t ≤ 3) ∧ (¬ ((t < 3 ∧ s.anyRunning = true) ∨ (2 ≤ t ∧ s.stks.any (fun k => k.st == .failed) = true) ∨
        (t = 0 ∧ s.stks.any Stack.trigOut = true)))) ∧
    (let s : State := cmd 0x0201 (toLE 1 8 ++ toLE 1 3);
      let m : Nat := 3;
      let c : Cmd := cmdOf 0x0201 (toLE 1 8 ++ toLE 1 3);
      (s.waitsRow m 0x0201 c) ∧
      let named := bitsOf 4 (fld c.pars 0 1);
      let t := fld c.pars 1 1;
      (mapOk 4 1 (fld c.pars 0 1) = true) ∧ (t ≤ 3) ∧ (2 ≤ s.pwr.chip) ∧ (t ≤ (chipRegion s.pwr.chip).code) ∧ (¬ (t < 2 ∧ named.any (fun r => (regionBlocks r).any (fun n => (s.block n).st == .running)) = true))) ∧
    (let s : State := cmd 0x0202 (toLE 2 2048 ++ toLE 1 1);
      let m : Nat := 3;
      let c : Cmd := cmdOf 0x0202 (toLE 2 2048 ++ toLE 1 1);
      (s.waitsRow m 0x0202 c) ∧
      let named := bitsOf 12 (fld c.pars 0 2);
      let t := fld c.pars 2 1;
      (mapOk 12 2 (fld c.pars 0 2) = true) ∧ (t ≤ 1) ∧ (named.any (fun n => let k := s.stack n
        k.st == .failed || k.st == .untrained || (t == 1 && k.trigOut)) = false)) ∧
    (let s : State := cmd 0x0203 (toLE 8 (2 ^ 63) ++ toLE 1 2 ++ toLE 1 0);
      let m : Nat := 3;
      let c : Cmd := cmdOf 0x0203 (toLE 8 (2 ^ 63) ++ toLE 1 2 ++ toLE 1 0);
      (s.waitsRow m 0x0203 c) ∧
      let named := bitsOf 64 (fld c.pars 0 8);
      let t := fld c.pars 8 1;
      (mapOk 64 8 (fld c.pars 0 8) = true) ∧ (t ≤ 2) ∧ (¬ (t < 2 ∧ named.any (fun l => (s.link l).st.code2 == 3) = true)) ∧ (¬ (0 < t ∧ s.fab.slice ≠ 0 ∧ fld c.pars 9 1 = 0 ∧ s.emptiesDir named = true))) ∧
    (let s : State := cmd 0x0204 ([]);
      let m : Nat := 3;
      let c : Cmd := cmdOf 0x0204 ([]);
      (s.waitsRow m 0x0204 c)) := by
  refine ⟨?_, ?_, ?_, ?_, ?_⟩ <;> decide +kernel

theorem test_meets_PowerCommandsEnd :
    (let s : State := on;
      let c : Cmd := { cmdOf 0x0200 (toLE 1 3) with keep := [] };
      (c.op = 0x0200) ∧ (fld c.pars 0 1 ≠ 0) ∧ (s.pwr.chip = fld c.pars 0 1) ∧ (s.pwr.chipMove = none)) ∧
    (let s : State := on;
      let c : Cmd := { cmdOf 0x0200 (toLE 1 2) with keep := [] };
      (c.op = 0x0200) ∧ (fld c.pars 0 1 ≠ 0) ∧ (s.pwr.chip ≠ fld c.pars 0 1)) ∧
    (let s : State := on;
      let c : Cmd := { cmdOf 0x0201 (toLE 1 15 ++ toLE 1 3) with keep := [] };
      (c.op = 0x0201) ∧ ((∀ r ∈ bitsOf 4 (fld c.pars 0 1), (s.region r).st = regStOf (fld c.pars 1 1) ∧ (s.region r).move = none))) ∧
    (let s : State := stack (fun k => { k with st := .selfRefresh }) on;
      let c : Cmd := { cmdOf 0x0202 (toLE 2 1 ++ toLE 1 1) with keep := [] };
      (c.op = 0x0202) ∧ (fld c.pars 2 1 = 1) ∧ ((∀ n ∈ bitsOf 12 (fld c.pars 0 2), (s.stack n).st = .selfRefresh))) ∧
    (let s : State := on;
      let c : Cmd := { cmdOf 0x0203 (toLE 8 (2 ^ 63 + 1) ++ toLE 1 2) with keep := [] };
      (c.op = 0x0203) ∧ ((∀ l ∈ bitsOf 64 (fld c.pars 0 8), (s.link l).st = linkStOf (fld c.pars 8 1)))) := by
  refine ⟨?_, ?_, ?_, ?_, ?_⟩ <;> decide +kernel

theorem test_meets_WindowScrubWipe :
    (let s : State := cmd 0x0300 (toLE 4 800);
      let m : Nat := 3;
      let c : Cmd := cmdOf 0x0300 (toLE 4 800);
      (s.waitsRow m 0x0300 c) ∧ (fld c.pars 0 4 ≤ 800)) ∧
    (let s : State := cmd 0x0300 (toLE 4 801);
      let m : Nat := 3;
      let c : Cmd := cmdOf 0x0300 (toLE 4 801);
      (s.waitsRow m 0x0300 c) ∧ (800 < fld c.pars 0 4)) ∧
    (let s : State := cmd 0x0304 (toLE 2 2049 ++ toLE 1 60);
      let m : Nat := 3;
      let c : Cmd := cmdOf 0x0304 (toLE 2 2049 ++ toLE 1 60);
      (s.waitsRow m 0x0304 c) ∧ (mapOk 12 2 (fld c.pars 0 2) = true) ∧ (10 ≤ fld c.pars 2 1) ∧ (fld c.pars 2 1 ≤ 60)) ∧
    (let s : State := cmd 0x0301 (toLE 1 15 ++ toLE 1 0 ++ toLE 2 2049);
      let m : Nat := 3;
      let c : Cmd := cmdOf 0x0301 (toLE 1 15 ++ toLE 1 0 ++ toLE 2 2049);
      (s.waitsRow m 0x0301 c) ∧
      let stks := if bit (fld c.pars 0 1) 0 then bitsOf 12 (fld c.pars 2 2) else [];
      ((bit (fld c.pars 0 1) 0 = true → mapOk 12 2 (fld c.pars 2 2) = true)) ∧ (s.anyRunning = false) ∧ (stks.any (fun n => (s.stack n).st == .failed || (s.stack n).st == .untrained) = false)) ∧
    (let s : State := cmd 0x0301 (toLE 1 15 ++ toLE 1 0 ++ toLE 2 2049);
      let m : Nat := 3;
      let c : Cmd := cmdOf 0x0301 (toLE 1 15 ++ toLE 1 0 ++ toLE 2 2049);
      (s.waitsRow m 0x0301 c) ∧
      let stks := if bit (fld c.pars 0 1) 0 then bitsOf 12 (fld c.pars 2 2) else [];
      ((bit (fld c.pars 0 1) 0 = true → mapOk 12 2 (fld c.pars 2 2) = true)) ∧ (s.anyRunning = false) ∧ (stks.any (fun n => (s.stack n).st == .failed || (s.stack n).st == .untrained) = false) ∧ (stks ≠ [])) ∧
    (let s : State := cmd 0x0301 (toLE 1 14 ++ toLE 1 0 ++ toLE 2 2049);
      let m : Nat := 3;
      let c : Cmd := cmdOf 0x0301 (toLE 1 14 ++ toLE 1 0 ++ toLE 2 2049);
      (s.waitsRow m 0x0301 c) ∧
      let stks := if bit (fld c.pars 0 1) 0 then bitsOf 12 (fld c.pars 2 2) else [];
      ((bit (fld c.pars 0 1) 0 = true → mapOk 12 2 (fld c.pars 2 2) = true)) ∧ (s.anyRunning = false) ∧ (stks.any (fun n => (s.stack n).st == .failed || (s.stack n).st == .untrained) = false) ∧ (stks = [])) ∧
    (let s : State := cmd 0x0301 (toLE 4 15);
      let m : Nat := 3;
      let c : Cmd := cmdOf 0x0301 (toLE 4 15);
      (c.op = 0x0301) ∧ (c.m = m) ∧ (s.cmd m = some c) ∧ (c.keep.getD 0 0 ≤ s.now)) := by
  refine ⟨?_, ?_, ?_, ?_, ?_, ?_, ?_⟩ <;> decide +kernel

theorem test_meets_FillCopyReadBack :
    (let s : State := cmd 0x0302 (toLE 1 3 ++ toLE 1 0 ++ toLE 2 0 ++ toLE 4 64 ++ toLE 8 (72 * 2 ^ 30 - 64) ++ toLE 8 5);
      let m : Nat := 3;
      let c : Cmd := cmdOf 0x0302 (toLE 1 3 ++ toLE 1 0 ++ toLE 2 0 ++ toLE 4 64 ++ toLE 8 (72 * 2 ^ 30 - 64) ++ toLE 8 5);
      let b := s.began m;
      (s.waitsRow m 0x0302 c) ∧
      let sp := fld c.pars 0 1;
      let stk := fld c.pars 1 1;
      let len := fld c.pars 4 4;
      let a := fld c.pars 8 8;
      (extentOk sp stk a len = true) ∧ (a % 8 = 0) ∧ (len % 8 = 0) ∧ (b.waitsAt sp stk a len = false) ∧ (b.reachOf sp stk a len = (len, 0))) ∧
    (let s : State := cmd 0x0303 (toLE 1 7 ++ toLE 1 0 ++ toLE 1 3 ++ toLE 1 0 ++ toLE 4 64 ++ toLE 8 64 ++ toLE 8 4096);
      let m : Nat := 3;
      let c : Cmd := cmdOf 0x0303 (toLE 1 7 ++ toLE 1 0 ++ toLE 1 3 ++ toLE 1 0 ++ toLE 4 64 ++ toLE 8 64 ++ toLE 8 4096);
      let b := s.began m;
      (s.waitsRow m 0x0303 c) ∧
      let sp := fld c.pars 2 1;
      let stk := fld c.pars 3 1;
      let len := fld c.pars 4 4;
      let a := fld c.pars 16 8;
      (fld c.pars 0 1 = 7) ∧ (fld c.pars 8 8 % 64 = 0) ∧ (sp ≠ 7) ∧ (extentOk sp stk a len = true) ∧ (b.waitsAt sp stk a len = false) ∧ (b.reachOf sp stk a len = (len, 0))) ∧
    (let s : State := cmd 0x0305 (toLE 1 3 ++ toLE 1 0 ++ toLE 2 0 ++ toLE 4 4032 ++ toLE 8 (72 * 2 ^ 30 - 4032));
      let m : Nat := 3;
      let c : Cmd := cmdOf 0x0305 (toLE 1 3 ++ toLE 1 0 ++ toLE 2 0 ++ toLE 4 4032 ++ toLE 8 (72 * 2 ^ 30 - 4032));
      let b := s.began m;
      (s.waitsRow m 0x0305 c) ∧
      let sp := fld c.pars 0 1;
      let stk := fld c.pars 1 1;
      let len := fld c.pars 4 4;
      let a := fld c.pars 8 8;
      (extentOk sp stk a len = true) ∧ (len ≠ 0) ∧ (len ≤ 4032) ∧ (b.waitsAt sp stk a len = false) ∧ (b.reachOf sp stk a len = (len, 0))) := by
  refine ⟨?_, ?_, ?_⟩ <;> decide +kernel

theorem test_meets_ProgramCommands :
    (let s : State := cmd 0x0400 (toLE 18 (2 ^ 143 + 1) ++ toLE 2 0 ++ toLE 4 336 ++ toLE 8 4096);
      let m : Nat := 3;
      let c : Cmd := cmdOf 0x0400 (toLE 18 (2 ^ 143 + 1) ++ toLE 2 0 ++ toLE 4 336 ++ toLE 8 4096);
      let map := fld c.pars 0 18;
      let bl := bitsOf 144 map;
      let data : List Byte := img;
      (s.waitsRow m 0x0400 c) ∧ (mapOk 144 18 map = true) ∧ (fld c.pars 24 8 % 64 = 0) ∧ (bl.all (fun n => s.blockFree n true) = true) ∧
      let bs := fitTo (fld c.pars 20 4) data;
      (imageStatus bs = 0)) ∧
    (let s : State := cmd 0x0400 (toLE 18 (2 ^ 143 + 1) ++ toLE 2 0 ++ toLE 4 336 ++ toLE 8 4096);
      let m : Nat := 3;
      let c : Cmd := cmdOf 0x0400 (toLE 18 (2 ^ 143 + 1) ++ toLE 2 0 ++ toLE 4 336 ++ toLE 8 4096);
      let map := fld c.pars 0 18;
      let bl := bitsOf 144 map;
      let data : List Byte := [1];
      (s.waitsRow m 0x0400 c) ∧ (mapOk 144 18 map = true) ∧ (fld c.pars 24 8 % 64 = 0) ∧ (bl.all (fun n => s.blockFree n true) = true) ∧
      let bs := fitTo (fld c.pars 20 4) data;
      (imageStatus bs ≠ 0)) ∧
    (let s : State := cmd 0x0404 (toLE 18 (2 ^ 143 + 1) ++ toLE 2 0) (fun s => { s with blocks := s.blocks.map (fun b => { b with st := .loaded }) });
      let m : Nat := 3;
      let c : Cmd := cmdOf 0x0404 (toLE 18 (2 ^ 143 + 1) ++ toLE 2 0);
      let map := fld c.pars 0 18;
      let bl := bitsOf 144 map;
      (s.waitsRow m 0x0404 c) ∧ (mapOk 144 18 map = true) ∧ (s.pwr.chip = 3) ∧ (bl.all (fun n => s.blockFree n false) = true)) ∧
    (let s : State := cmd 0x0405 (toLE 18 (2 ^ 143 + 1) ++ toLE 2 0);
      let m : Nat := 3;
      let c : Cmd := cmdOf 0x0405 (toLE 18 (2 ^ 143 + 1) ++ toLE 2 0);
      let map := fld c.pars 0 18;
      let bl := bitsOf 144 map;
      (s.waitsRow m 0x0405 c) ∧ (mapOk 144 18 map = true) ∧ (bl.any s.darkBlock = false)) ∧
    (let s : State := cmd 0x0406 (toLE 2 143 ++ toLE 2 0);
      let m : Nat := 3;
      let c : Cmd := cmdOf 0x0406 (toLE 2 143 ++ toLE 2 0);
      (s.waitsRow m 0x0406 c) ∧ (fld c.pars 0 2 < 144) ∧ (s.darkBlock (fld c.pars 0 2) = false)) ∧
    (let s : State := cmd 0x0407 (toLE 2 143 ++ toLE 1 255 ++ toLE 5 0 ++ toLE 64 (desc 0 0x1000 0 4 2)) (fun s => s.updBlock 143 (fun b => { b with st := .done }));
      let m : Nat := 3;
      let c : Cmd := cmdOf 0x0407 (toLE 2 143 ++ toLE 1 255 ++ toLE 5 0 ++ toLE 64 (desc 0 0x1000 0 4 2));
      (s.waitsRow m 0x0407 c) ∧
      let n := fld c.pars 0 2;
      (n < 144) ∧ (s.blockFree n false = true) ∧ (descOk (fld c.pars 8 64) = true)) := by
  refine ⟨?_, ?_, ?_, ?_, ?_, ?_⟩ <;> decide +kernel

theorem test_meets_LoadWritesTheImage :
    (let bs : List Byte := img;
      (imageStatus bs = 0) ∧
      let r := (7, desc 0 0x1000 0 4 2);
      (r ∈ imageRecs bs)) := by
  decide +kernel

theorem test_meets_CastCommands
    (h0 : let s : State := cmd 0x0402 (toLE 2 3 ++ toLE 2 0 ++ toLE 4 336 ++ toLE 8 4096 ++ toLE 32 0) (fun s => session true id (sliced s));
      let m : Nat := 3;
      let c : Cmd := cmdOf 0x0402 (toLE 2 3 ++ toLE 2 0 ++ toLE 4 336 ++ toLE 8 4096 ++ toLE 32 0);
      let b := s.began m;
      let k := (s.fab.cast.getD ⟨false, 0, 0, 0, 0, 0, 0, Mem.empty, [], [], [], [], false⟩);
      let data : List Byte := img;
      let seg := fld c.pars 2 2;
      let len := fld c.pars 4 4;
      Config.sm3 (fitTo len data) = fld c.pars 16 32)
    (h1 : let s : State := cmd 0x0403 (toLE 2 3 ++ toLE 2 0) (fun s => session true id (sliced s));
      let m : Nat := 3;
      let c : Cmd := cmdOf 0x0403 (toLE 2 3 ++ toLE 2 0);
      let b := s.began m;
      let k := (s.fab.cast.getD ⟨false, 0, 0, 0, 0, 0, 0, Mem.empty, [], [], [], [], false⟩);
      Config.sm3 (k.image.raw 0 k.len) = k.digest) :
    (let s : State := cmd 0x0401 (toLE 1 1 ++ toLE 1 0 ++ toLE 2 3 ++ toLE 2 0 ++ toLE 2 1 ++ toLE 4 336 ++ toLE 18 (2 ^ 143 + 1)) (fun s => sliced s);
      let m : Nat := 3;
      let c : Cmd := cmdOf 0x0401 (toLE 1 1 ++ toLE 1 0 ++ toLE 2 3 ++ toLE 2 0 ++ toLE 2 1 ++ toLE 4 336 ++ toLE 18 (2 ^ 143 + 1));
      (s.waitsRow m 0x0401 c) ∧
      let role := fld c.pars 0 1;
      let len := fld c.pars 8 4;
      let map := fld c.pars 12 18;
      (role ≤ 1) ∧ (len ≤ 84224) ∧ (fld c.pars 6 2 = cdiv len 4096) ∧ (mapOk 144 18 map = true) ∧ (s.fab.slice ≠ 0) ∧ (s.fab.cast = none) ∧ ((bitsOf 144 map).all (fun n => s.blockFree n true) = true)) ∧
    (let s : State := cmd 0x0402 (toLE 2 3 ++ toLE 2 0 ++ toLE 4 336 ++ toLE 8 4096 ++ toLE 32 0) (fun s => session true id (sliced s));
      let m : Nat := 3;
      let c : Cmd := cmdOf 0x0402 (toLE 2 3 ++ toLE 2 0 ++ toLE 4 336 ++ toLE 8 4096 ++ toLE 32 0);
      let k := (s.fab.cast.getD ⟨false, 0, 0, 0, 0, 0, 0, Mem.empty, [], [], [], [], false⟩);
      (s.waitsRow m 0x0402 c) ∧ (s.fab.cast = some k) ∧ (k.source = true) ∧
      let seg := fld c.pars 2 2;
      let len := fld c.pars 4 4;
      (k.id = fld c.pars 0 2) ∧ (seg < k.segs) ∧ (len = k.segLen seg) ∧ (fld c.pars 8 8 % 64 = 0)) ∧
    (let s : State := cmd 0x0403 (toLE 2 3 ++ toLE 2 0) (fun s => session true id (sliced s));
      let m : Nat := 3;
      let c : Cmd := cmdOf 0x0403 (toLE 2 3 ++ toLE 2 0);
      let k := (s.fab.cast.getD ⟨false, 0, 0, 0, 0, 0, 0, Mem.empty, [], [], [], [], false⟩);
      (s.waitsRow m 0x0403 c) ∧ (s.fab.cast = some k) ∧ (k.id = fld c.pars 0 2)) ∧
    (let s : State := cmd 0x0403 (toLE 2 3 ++ toLE 2 0) (fun s => session true id (sliced s));
      let k := (s.fab.cast.getD ⟨false, 0, 0, 0, 0, 0, 0, Mem.empty, [], [], [], [], false⟩);
      (s.fab.cast = some k) ∧ ((k.source = true ∨ k.missing = [])) ∧
      (imageStatus (k.image.raw 0 k.len) = 0) ∧ ((bitsOf 144 k.blocks).any s.darkBlock = false)) ∧
    (let s : State := cmd 0x0402 (toLE 2 3 ++ toLE 2 0 ++ toLE 4 336 ++ toLE 8 4096 ++ toLE 32 0) (fun s => session true id (sliced s));
      let m : Nat := 3;
      let c : Cmd := cmdOf 0x0402 (toLE 2 3 ++ toLE 2 0 ++ toLE 4 336 ++ toLE 8 4096 ++ toLE 32 0);
      let b := s.began m;
      let k := (s.fab.cast.getD ⟨false, 0, 0, 0, 0, 0, 0, Mem.empty, [], [], [], [], false⟩);
      let data : List Byte := img;
      let seg := fld c.pars 2 2;
      let len := fld c.pars 4 4;
      Config.sm3 (fitTo len data) = fld c.pars 16 32) ∧
    (let s : State := cmd 0x0403 (toLE 2 3 ++ toLE 2 0) (fun s => session true id (sliced s));
      let m : Nat := 3;
      let c : Cmd := cmdOf 0x0403 (toLE 2 3 ++ toLE 2 0);
      let b := s.began m;
      let k := (s.fab.cast.getD ⟨false, 0, 0, 0, 0, 0, 0, Mem.empty, [], [], [], [], false⟩);
      Config.sm3 (k.image.raw 0 k.len) = k.digest) := by
  refine ⟨?_, ?_, ?_, ?_, h0, h1⟩ <;> decide +kernel

theorem test_meets_CastMessages :
    (let s : State := (let s := session false id (sliced on); { s with fab := { s.fab with castq := [(castq 2, true)] } });
      let p : Packet × Bool := (castq 2, true);
      let ps : List (Packet × Bool) := [];
      let rest : List (Packet × Bool) := [];
      (s.thallusUp = true) ∧
      let hd := castHdOf (fitTo 64 p.1.payload);
      let mine := s.fab.transit = false ∧ ∀ x ∈ p :: ps, x.2 = true;
      (castMsg (fun k => k == 1 || k == 2) [] s.fab.castq = some (p :: ps, rest)) ∧ (mine) ∧ (hd.kind = 2)) ∧
    (let s : State := (let s := session false id (sliced on); { s with fab := { s.fab with castq := [(castq 1, true)] } });
      let p : Packet × Bool := (castq 1, true);
      let ps : List (Packet × Bool) := [];
      let rest : List (Packet × Bool) := [];
      (s.thallusUp = true) ∧
      let hd := castHdOf (fitTo 64 p.1.payload);
      let mine := s.fab.transit = false ∧ ∀ x ∈ p :: ps, x.2 = true;
      (castMsg (fun k => k == 1 || k == 2) [] s.fab.castq = some (p :: ps, rest)) ∧ (mine) ∧ (hd.kind = 1)) ∧
    (let s : State := (let s := session false id (sliced on); { s with fab := { s.fab with castq := [(castq 2, false)] } });
      let p : Packet × Bool := (castq 2, false);
      let ps : List (Packet × Bool) := [];
      let rest : List (Packet × Bool) := [];
      (s.thallusUp = true) ∧
      let hd := castHdOf (fitTo 64 p.1.payload);
      let mine := s.fab.transit = false ∧ ∀ x ∈ p :: ps, x.2 = true;
      (castMsg (fun k => k == 1 || k == 2) [] s.fab.castq = some (p :: ps, rest)) ∧ (¬ mine) ∧ (hd.kind = 2)) ∧
    (let s : State := (let s := (let s := session false id (sliced on); { s with fab := { s.fab with transit := true } }); { s with fab := { s.fab with castq := [(castq 1, true)] } });
      let p : Packet × Bool := (castq 1, true);
      let ps : List (Packet × Bool) := [];
      let rest : List (Packet × Bool) := [];
      (s.thallusUp = true) ∧
      let hd := castHdOf (fitTo 64 p.1.payload);
      let mine := s.fab.transit = false ∧ ∀ x ∈ p :: ps, x.2 = true;
      (castMsg (fun k => k == 1 || k == 2) [] s.fab.castq = some (p :: ps, rest)) ∧ (¬ mine) ∧ (hd.kind = 1)) ∧
    (let s : State := (let s := session true (fun k => { k with have_ := [0] }) (sliced on); { s with fab := { s.fab with castq := [(castq 3, true)] } });
      let p : Packet × Bool := (castq 3, true);
      let ps : List (Packet × Bool) := [];
      let rest : List (Packet × Bool) := [];
      (s.thallusUp = true) ∧
      let hd := castHdOf (fitTo 64 p.1.payload);
      let mine := s.fab.transit = false ∧ ∀ x ∈ p :: ps, x.2 = true;
      let k := (s.fab.cast.getD ⟨false, 0, 0, 0, 0, 0, 0, Mem.empty, [], [], [], [], false⟩);
      (castMsg (fun k => k == 3) [] s.fab.castq = some (p :: ps, rest)) ∧ (mine) ∧ (s.fab.cast = some k) ∧ (k.source = true ∧ k.id = hd.id ∧ hd.origin = k.origin ∧ k.have_.contains hd.seg = true ∧ k.closing = false)) ∧
    (let s : State := (let s := session true id (sliced on); { s with fab := { s.fab with castq := [(castq 3, true)] } });
      let p : Packet × Bool := (castq 3, true);
      let ps : List (Packet × Bool) := [];
      let rest : List (Packet × Bool) := [];
      (s.thallusUp = true) ∧
      let hd := castHdOf (fitTo 64 p.1.payload);
      let mine := s.fab.transit = false ∧ ∀ x ∈ p :: ps, x.2 = true;
      let k := (s.fab.cast.getD ⟨false, 0, 0, 0, 0, 0, 0, Mem.empty, [], [], [], [], false⟩);
      (castMsg (fun k => k == 3) [] s.fab.castq = some (p :: ps, rest)) ∧ (mine) ∧ (s.fab.cast = some k) ∧ (¬ (k.source = true ∧ k.id = hd.id ∧ hd.origin = k.origin ∧ k.have_.contains hd.seg = true ∧ k.closing = false))) ∧
    (let s : State := (let s := session false (fun k => { k with closing := true }) (sliced on); { s with fab := { s.fab with castq := [(castq 4, true)] } });
      let p : Packet × Bool := (castq 4, true);
      let ps : List (Packet × Bool) := [];
      let rest : List (Packet × Bool) := [];
      (s.thallusUp = true) ∧
      let hd := castHdOf (fitTo 64 p.1.payload);
      let mine := s.fab.transit = false ∧ ∀ x ∈ p :: ps, x.2 = true;
      let k := (s.fab.cast.getD ⟨false, 0, 0, 0, 0, 0, 0, Mem.empty, [], [], [], [], false⟩);
      (castMsg (fun k => k == 4) [] s.fab.castq = some (p :: ps, rest)) ∧ (mine) ∧ (s.fab.cast = some k) ∧ (k.source = false) ∧ (k.closing = true) ∧ (hd.id = k.id) ∧ (hd.origin = k.origin)) := by
  refine ⟨?_, ?_, ?_, ?_, ?_, ?_, ?_⟩ <;> decide +kernel

theorem test_meets_FabricCommands :
    (let s : State := cmd 0x0600 (toLE 1 15 ++ toLE 3 0) (fun s => setting 0x0011 (List.replicate 960 0 ++ toLE 64 (sliced s).fab.prof) s);
      let m : Nat := 3;
      let c : Cmd := cmdOf 0x0600 (toLE 1 15 ++ toLE 3 0);
      (s.waitsRow m 0x0600 c) ∧
      let r := ((s.setBody 0x0011).drop (64 * fld c.pars 0 1)).take 64;
      (s.fab.slice = 0) ∧ (fld c.pars 0 1 ≤ 15) ∧ (r.length = 64) ∧ (profOk (ofLE r) = true)) ∧
    (let s : State := cmd 0x0601 (toLE 8 (2 ^ 64 - 1));
      let m : Nat := 3;
      let c : Cmd := cmdOf 0x0601 (toLE 8 (2 ^ 64 - 1));
      (s.waitsRow m 0x0601 c) ∧ (mapOk 64 8 (fld c.pars 0 8) = true)) ∧
    (let s : State := cmd 0x0602 (toLE 1 255 ++ toLE 3 0 ++ toLE 2 64 ++ toLE 14 0) (fun s => { sliced s with fab := { (sliced s).fab with slice := 0 } });
      let m : Nat := 3;
      let c : Cmd := cmdOf 0x0602 (toLE 1 255 ++ toLE 3 0 ++ toLE 2 64 ++ toLE 14 0);
      let b := s.began m;
      (s.waitsRow m 0x0602 c) ∧
      let boxes := (List.range 8).map (fun a => fld c.pars (4 + 2 * a) 2);
      let f := { s.fab with slice := fld c.pars 0 1, box := boxes.map (fun b => b % 2 ^ 12) };
      (s.fab.profile.isSome = true) ∧ (s.fab.slice = 0) ∧ (s.anyRunning = false) ∧ (f.slice ≠ 0) ∧ ((∀ a, a < 8 → (profDef s.fab.prof a = true → f.lo a < profSize s.fab.prof a ∧ f.len a ≤ profSize s.fab.prof a) ∧
        (profDef s.fab.prof a = false → fld c.pars (4 + 2 * a) 2 % 2 ^ 12 = 0))) ∧ (f.coordsIn f.here = true)) ∧
    (let s : State := cmd 0x0603 ([]);
      let m : Nat := 3;
      let c : Cmd := cmdOf 0x0603 ([]);
      (s.waitsRow m 0x0603 c) ∧ (s.anyRunning = false)) ∧
    (let s : State := cmd 0x0604 (toLE 1 0 ++ toLE 1 0 ++ toLE 2 1 ++ toLE 1 2 ++ toLE 3 0) (fun s => (sliced s).updLink 3 (fun k => { k with st := .miswired, ident := some ⟨1, 2, 0, 1, 1, 0, 0⟩ }));
      let m : Nat := 3;
      let c : Cmd := cmdOf 0x0604 (toLE 1 0 ++ toLE 1 0 ++ toLE 2 1 ++ toLE 1 2 ++ toLE 3 0);
      let k := s.link 3;
      let more := ([] : List Link);
      let i := (⟨1, 2, 0, 1, 1, 0, 0⟩ : Ident);
      let a := 0;
      let d := 0;
      (s.waitsRow m 0x0604 c) ∧
      let n := fld c.pars 0 1;
      (n ≤ 15) ∧ (((List.range 4).map (fun i => s.link (4 * n + i))).filter (fun k => k.st == .miswired) = k :: more) ∧ (k.ident = some i) ∧ (i.node = fld c.pars 2 2) ∧ (i.port = fld c.pars 4 1) ∧ (s.fab.implied i = some (a, d))) ∧
    (let s : State := cmd 0x0605 (toLE 1 64 ++ toLE 1 0 ++ toLE 2 0);
      let m : Nat := 3;
      let c : Cmd := cmdOf 0x0605 (toLE 1 64 ++ toLE 1 0 ++ toLE 2 0);
      (s.waitsRow m 0x0605 c) ∧
      let l := fld c.pars 0 1;
      (63 < l)) ∧
    (let s : State := cmd 0x0605 (toLE 1 63 ++ toLE 1 0 ++ toLE 2 0);
      let m : Nat := 3;
      let c : Cmd := cmdOf 0x0605 (toLE 1 63 ++ toLE 1 0 ++ toLE 2 0);
      (s.waitsRow m 0x0605 c) ∧
      let l := fld c.pars 0 1;
      (l ≤ 63) ∧ ((s.link l).st = .off)) ∧
    (let s : State := cmd 0x0605 (toLE 1 63 ++ toLE 1 0 ++ toLE 2 0) (fun s => s.updLink 63 (fun k => { k with st := .up }));
      let m : Nat := 3;
      let c : Cmd := cmdOf 0x0605 (toLE 1 63 ++ toLE 1 0 ++ toLE 2 0);
      (s.waitsRow m 0x0605 c) ∧
      let l := fld c.pars 0 1;
      (l ≤ 63) ∧ ((s.link l).st ≠ .off) ∧ ((s.link l).st ≠ .training)) ∧
    (let s : State := cmd 0x0606 (toLE 1 1 ++ toLE 3 0) (fun s => sliced s);
      let m : Nat := 3;
      let c : Cmd := cmdOf 0x0606 (toLE 1 1 ++ toLE 3 0);
      (s.waitsRow m 0x0606 c) ∧ (fld c.pars 0 1 ≤ 1) ∧ (s.fab.slice ≠ 0) ∧ (s.anyRunning = false) ∧ (s.stks.any Stack.trigOut = false)) := by
  refine ⟨?_, ?_, ?_, ?_, ?_, ?_, ?_, ?_, ?_⟩ <;> decide +kernel

theorem test_meets_TimeCommands :
    (let s : State := cmd 0x0700 ([]);
      let m : Nat := 3;
      let c : Cmd := cmdOf 0x0700 ([]);
      (s.waitsRow m 0x0700 c)) ∧
    (let s : State := cmd 0x0701 (toLE 1 0 ++ toLE 7 0 ++ toLE 8 5 ++ toLE 8 6);
      let m : Nat := 3;
      let c : Cmd := cmdOf 0x0701 (toLE 1 0 ++ toLE 7 0 ++ toLE 8 5 ++ toLE 8 6);
      (s.waitsRow m 0x0701 c) ∧ (bit (fld c.pars 0 1) 0 = false)) ∧
    (let s : State := cmd 0x0701 (toLE 1 1 ++ toLE 7 0 ++ toLE 8 5 ++ toLE 8 6);
      let m : Nat := 3;
      let c : Cmd := cmdOf 0x0701 (toLE 1 1 ++ toLE 7 0 ++ toLE 8 5 ++ toLE 8 6);
      (s.waitsRow m 0x0701 c) ∧ (bit (fld c.pars 0 1) 0 = true) ∧ (s.time.state = 0)) ∧
    (let s : State := cmd 0x0701 (toLE 1 1 ++ toLE 7 0 ++ toLE 8 5 ++ toLE 8 6) (fun s => { s with time := { s.time with state := 2 } });
      let m : Nat := 3;
      let c : Cmd := cmdOf 0x0701 (toLE 1 1 ++ toLE 7 0 ++ toLE 8 5 ++ toLE 8 6);
      (s.waitsRow m 0x0701 c) ∧ (bit (fld c.pars 0 1) 0 = true) ∧ (s.time.state ≠ 0)) ∧
    (let s : State := cmd 0x0702 (toLE 1 6 ++ toLE 3 0);
      let m : Nat := 3;
      let c : Cmd := cmdOf 0x0702 (toLE 1 6 ++ toLE 3 0);
      (s.waitsRow m 0x0702 c)) := by
  refine ⟨?_, ?_, ?_, ?_, ?_⟩ <;> decide +kernel

theorem test_meets_UpdateCommands :
    (let s : State := cmd 0x0800 (ruleBytes) (fun s => s.updStack 0 (fun k => { k with sue := { k.sue with rules := [(15, rule15)], binds := [{ Bind.ofBytes (bindBytes.drop 8) with trig := some trig7 }] } }));
      let m : Nat := 3;
      let c : Cmd := cmdOf 0x0800 (ruleBytes);
      (s.waitsRow m 0x0800 c) ∧
      let named := bitsOf 12 (fld c.pars 0 2);
      let users := named.flatMap (fun k => (s.stack k).sue.binds.filter (fun x => x.ruleNo == fld c.pars 2 1));
      (mapOk 12 2 (fld c.pars 0 2) = true) ∧ (fld c.pars 2 1 ≤ 15) ∧ (1 ≤ fld c.pars 3 1) ∧ (fld c.pars 3 1 ≤ 32) ∧ (((List.range 4).map (fun i => fld c.pars (200 + 8 * i) 8)).all fp64Pos = true) ∧ (users.any (fun x => x.trig.isSome) = true)) ∧
    (let s : State := cmd 0x0800 (ruleBytes) (fun s => s.updStack 0 (fun k => { k with sue := { k.sue with rules := [(15, rule15)], binds := [{ Bind.ofBytes (bindBytes.drop 8) with trig := none }] } }));
      let m : Nat := 3;
      let c : Cmd := cmdOf 0x0800 (ruleBytes);
      (s.waitsRow m 0x0800 c) ∧
      let named := bitsOf 12 (fld c.pars 0 2);
      let users := named.flatMap (fun k => (s.stack k).sue.binds.filter (fun x => x.ruleNo == fld c.pars 2 1));
      (mapOk 12 2 (fld c.pars 0 2) = true) ∧ (fld c.pars 2 1 ≤ 15) ∧ (1 ≤ fld c.pars 3 1) ∧ (fld c.pars 3 1 ≤ 32) ∧ (((List.range 4).map (fun i => fld c.pars (200 + 8 * i) 8)).all fp64Pos = true) ∧ (users.any (fun x => x.trig.isSome) = false) ∧ (users.all (fun x => ruleOk (ruleOf c.pars) x.strs) = true)) ∧
    (let s : State := cmd 0x0801 (bindBytes) (fun s => s.updStack 0 (fun k => { k with sue := { k.sue with rules := [(15, rule15)] } }));
      let m : Nat := 3;
      let c : Cmd := cmdOf 0x0801 (bindBytes);
      let n := fld c.pars 0 1;
      let r := rule15;
      (s.waitsRow m 0x0801 c) ∧ (bit (fld c.pars 1 1) 0 = false) ∧
      let x := Bind.ofBytes (c.pars.drop 8);
      let others := (s.stack n).sue.binds.filter (fun y => y.layer != x.layer);
      (n < 12) ∧ (bits x.hd 492 4 = n) ∧ (x.layer ≠ 0xFFFF) ∧ ((s.stack n).sue.rule x.ruleNo = some r) ∧ (ruleOk r x.strs = true) ∧ (x.ok (others.flatMap Bind.extents) = true) ∧ (s.bindStack x.layer = none) ∧ (bindRoom others x = true)) ∧
    (let s : State := cmd 0x0801 ([0, 1, 9, 0] ++ List.replicate 196 0) (fun s => s.updStack 0 (fun k => { k with sue := { k.sue with rules := [(15, rule15)], binds := [{ Bind.ofBytes (bindBytes.drop 8) with pin0 := 1 }] } }));
      let m : Nat := 3;
      let c : Cmd := cmdOf 0x0801 ([0, 1, 9, 0] ++ List.replicate 196 0);
      let n := fld c.pars 0 1;
      let x := { Bind.ofBytes (bindBytes.drop 8) with pin0 := 1 };
      (s.waitsRow m 0x0801 c) ∧ (bit (fld c.pars 1 1) 0 = true) ∧ (n < 12) ∧ ((s.stack n).sue.bind (fld c.pars 2 2) = some x) ∧ (x.inUse = true)) ∧
    (let s : State := cmd 0x0801 ([0, 1, 9, 0] ++ List.replicate 196 0) (fun s => s.updStack 0 (fun k => { k with sue := { k.sue with rules := [(15, rule15)], binds := [{ Bind.ofBytes (bindBytes.drop 8) with pin0 := 0 }] } }));
      let m : Nat := 3;
      let c : Cmd := cmdOf 0x0801 ([0, 1, 9, 0] ++ List.replicate 196 0);
      let n := fld c.pars 0 1;
      let x := { Bind.ofBytes (bindBytes.drop 8) with pin0 := 0 };
      (s.waitsRow m 0x0801 c) ∧ (bit (fld c.pars 1 1) 0 = true) ∧ (n < 12) ∧ ((s.stack n).sue.bind (fld c.pars 2 2) = some x) ∧ (x.inUse = false)) ∧
    (let s : State := cmd 0x0802 ([0, 0, 9, 0]) (fun s => s.updStack 0 (fun k => { k with sue := { k.sue with rules := [(15, rule15)], binds := [{ Bind.ofBytes (bindBytes.drop 8) with pin0 := 0 }] } }));
      let m : Nat := 3;
      let c : Cmd := cmdOf 0x0802 ([0, 0, 9, 0]);
      let n := fld c.pars 0 1;
      let x := { Bind.ofBytes (bindBytes.drop 8) with pin0 := 0 };
      (s.waitsRow m 0x0802 c) ∧ (n < 12) ∧ ((s.stack n).sue.bind (fld c.pars 2 2) = some x)) ∧
    (let s : State := cmd 0x0803 (toLE 1 1 ++ toLE 1 16 ++ toLE 1 0 ++ toLE 1 32 ++ toLE 2 2000 ++ toLE 2 0 ++ toLE 8 256 ++ toLE 8 512 ++ toLE 4 0xFFFFFFFE ++ toLE 4 0);
      let m : Nat := 3;
      let c : Cmd := cmdOf 0x0803 (toLE 1 1 ++ toLE 1 16 ++ toLE 1 0 ++ toLE 1 32 ++ toLE 2 2000 ++ toLE 2 0 ++ toLE 8 256 ++ toLE 8 512 ++ toLE 4 0xFFFFFFFE ++ toLE 4 0);
      (s.waitsRow m 0x0803 c) ∧ (s.scaleOk c = true) ∧ (s.stks.any Stack.trigOut = false)) ∧
    (let s : State := cmd 0x0804 ([0, 0, 0xFF, 0xFF]) (fun s => s.updStack 0 (fun k => { k with sue := { k.sue with rules := [(15, rule15)], binds := [{ Bind.ofBytes (bindBytes.drop 8) with rbOk := true }] } }));
      let m : Nat := 3;
      let c : Cmd := cmdOf 0x0804 ([0, 0, 0xFF, 0xFF]);
      let n := fld c.pars 0 1;
      (s.waitsRow m 0x0804 c) ∧
      let l := fld c.pars 2 2;
      let todo := if l = 0xFFFF then (s.stack n).sue.binds.filter (fun x => x.rbOk)
        else (s.stack n).sue.binds.filter (fun x => x.layer == l);
      (n < 12) ∧ ((l = 0xFFFF ∨ todo ≠ [])) ∧ (todo.any (fun x => x.trig.isSome || !x.rbOk) = false) ∧ (s.stackGate n = .ok)) ∧
    (let s : State := cmd 0x0805 ([0, 0, 9, 0]) (fun s => s.updStack 0 (fun k => { k with sue := { k.sue with rules := [(15, rule15)], binds := [{ Bind.ofBytes (bindBytes.drop 8) with pin0 := 0 }] } }));
      let m : Nat := 3;
      let c : Cmd := cmdOf 0x0805 ([0, 0, 9, 0]);
      let n := fld c.pars 0 1;
      let x := { Bind.ofBytes (bindBytes.drop 8) with pin0 := 0 };
      (s.waitsRow m 0x0805 c) ∧ (n < 12) ∧ ((s.stack n).sue.bind (fld c.pars 2 2) = some x) ∧ (s.stackGate n = .ok)) ∧
    (let s : State := cmd 0x0805 ([0, 0, 9, 0]) (fun s => (let s := s.updStack 0 (fun k => { k with sue := { k.sue with rules := [(15, rule15)], binds := [{ Bind.ofBytes (bindBytes.drop 8) with pin0 := 0 }] } }); s.updStack 0 (fun k => { k with st := .failed })));
      let m : Nat := 3;
      let c : Cmd := cmdOf 0x0805 ([0, 0, 9, 0]);
      let n := fld c.pars 0 1;
      let x := { Bind.ofBytes (bindBytes.drop 8) with pin0 := 0 };
      (s.waitsRow m 0x0805 c) ∧ (n < 12) ∧ ((s.stack n).sue.bind (fld c.pars 2 2) = some x) ∧ (s.stackGate n = .refused)) := by
  refine ⟨?_, ?_, ?_, ?_, ?_, ?_, ?_, ?_, ?_, ?_⟩ <;> decide +kernel

theorem test_meets_TelemetryCommands :
    (let s : State := cmd 0x0900 (toLE 1 0 ++ toLE 1 0 ++ toLE 2 132 ++ toLE 2 12 ++ toLE 2 0 ++ toLE 8 0);
      let m : Nat := 3;
      let c : Cmd := cmdOf 0x0900 (toLE 1 0 ++ toLE 1 0 ++ toLE 2 132 ++ toLE 2 12 ++ toLE 2 0 ++ toLE 8 0);
      let l := fld c.pars 0 1;
      let n := fld c.pars 4 2;
      let a := fld c.pars 8 8;
      (s.waitsRow m 0x0900 c) ∧ (telOk c.pars 8 = true) ∧ (l ≠ 7) ∧
      (a = 0) ∧ (n * telSize l ≤ 4064)) ∧
    (let s : State := cmd 0x0900 (toLE 1 3 ++ toLE 1 0 ++ toLE 2 0 ++ toLE 2 64 ++ toLE 2 0 ++ toLE 8 4096);
      let m : Nat := 3;
      let c : Cmd := cmdOf 0x0900 (toLE 1 3 ++ toLE 1 0 ++ toLE 2 0 ++ toLE 2 64 ++ toLE 2 0 ++ toLE 8 4096);
      let l := fld c.pars 0 1;
      let a := fld c.pars 8 8;
      let ok := true;
      (s.waitsRow m 0x0900 c) ∧ (telOk c.pars 8 = true) ∧ (l ≠ 7) ∧
      (a ≠ 0) ∧ (a % 64 = 0) ∧ (ok = true)) ∧
    (let s : State := cmd 0x0901 ([]);
      let m : Nat := 3;
      let c : Cmd := cmdOf 0x0901 ([]);
      (s.waitsRow m 0x0901 c)) ∧
    (let s : State := cmd 0x0902 (toLE 1 6 ++ toLE 1 0 ++ toLE 2 0 ++ toLE 2 1 ++ toLE 2 0);
      let m : Nat := 3;
      let c : Cmd := cmdOf 0x0902 (toLE 1 6 ++ toLE 1 0 ++ toLE 2 0 ++ toLE 2 1 ++ toLE 2 0);
      (s.waitsRow m 0x0902 c) ∧ (telOk c.pars 7 = true)) ∧
    (let s : State := cmd 0x0902 ([]);
      let c : Cmd := cmdOf 0x0902 ([]);
      let n := fld c.pars 4 2;
      let n := 143;
      (n < s.blocks.length)) := by
  refine ⟨?_, ?_, ?_, ?_, ?_⟩ <;> decide +kernel

theorem test_meets_FaultCommands :
    (let s : State := cmd 0x0A00 (toLE 1 1 ++ toLE 1 0 ++ toLE 2 143);
      let m : Nat := 3;
      let c : Cmd := cmdOf 0x0A00 (toLE 1 1 ++ toLE 1 0 ++ toLE 2 143);
      let l := fld c.pars 0 1;
      let u := fld c.pars 2 2;
      (s.waitsRow m 0x0A00 c) ∧ ((l ≠ 1 ∨ 144 ≤ u ∨ s.darkBlock u = false))) ∧
    (let s : State := cmd 0x0A01 (toLE 1 1 ++ toLE 1 0 ++ toLE 2 143);
      let m : Nat := 3;
      let c : Cmd := cmdOf 0x0A01 (toLE 1 1 ++ toLE 1 0 ++ toLE 2 143);
      let l := fld c.pars 0 1;
      let u := fld c.pars 2 2;
      let k := (s.block u).clearFault;
      (s.waitsRow m 0x0A01 c) ∧ (l = 1) ∧ (u < 144) ∧ (s.darkBlock u = false) ∧ (k.clearing = false)) ∧
    (let s : State := cmd 0x0A01 (toLE 1 1 ++ toLE 1 0 ++ toLE 2 143) (fun s => s.updBlock 143 (fun b => { b with st := .faulted, pinq := [⟨0, 5, 9, false, .a, 3, .waiting⟩] }));
      let m : Nat := 3;
      let c : Cmd := cmdOf 0x0A01 (toLE 1 1 ++ toLE 1 0 ++ toLE 2 143);
      let l := fld c.pars 0 1;
      let u := fld c.pars 2 2;
      let k := (s.block u).clearFault;
      (s.waitsRow m 0x0A01 c) ∧ (l = 1) ∧ (u < 144) ∧ (s.darkBlock u = false) ∧ (k.clearing = true)) ∧
    (let s : State := cmd 0x0A01 (toLE 1 1 ++ toLE 1 0 ++ toLE 2 143) (fun s => s.updBlock 143 (fun b => { b with st := .faulted }));
      let m : Nat := 3;
      let c : Cmd := cmdOf 0x0A01 (toLE 1 1 ++ toLE 1 0 ++ toLE 2 143);
      let l := fld c.pars 0 1;
      let u := fld c.pars 2 2;
      let k := (s.block u).clearFault;
      (s.waitsRow m 0x0A01 c) ∧ (l = 1) ∧ (u < 144) ∧ (s.darkBlock u = false) ∧ ((s.block u).st = .faulted) ∧ ((s.block u).pinq = [])) ∧
    (let s : State := cmd 0x0A01 (toLE 1 1 ++ toLE 1 0 ++ toLE 2 143) (fun s => s.updBlock 143 (fun b => { b with st := .faulted, pinq := [⟨0, 5, 9, false, .a, 3, .waiting⟩] }));
      let m : Nat := 3;
      let c : Cmd := cmdOf 0x0A01 (toLE 1 1 ++ toLE 1 0 ++ toLE 2 143);
      let l := fld c.pars 0 1;
      let u := fld c.pars 2 2;
      let k := (s.block u).clearFault;
      (s.waitsRow m 0x0A01 c) ∧ (l = 1) ∧ (u < 144) ∧ (s.darkBlock u = false) ∧ ((s.block u).st = .faulted) ∧ ((s.block u).pinq ≠ [])) ∧
    (let s : State := cmd 0x0A01 (toLE 1 3 ++ toLE 1 0 ++ toLE 2 63);
      let m : Nat := 3;
      let c : Cmd := cmdOf 0x0A01 (toLE 1 3 ++ toLE 1 0 ++ toLE 2 63);
      let l := fld c.pars 0 1;
      (s.waitsRow m 0x0A01 c) ∧ (l ≠ 1)) ∧
    (let s : State := cmd 0x0A02 (toLE 1 1 ++ toLE 1 0 ++ toLE 2 143 ++ toLE 2 4 ++ toLE 2 0 ++ toLE 8 1);
      let m : Nat := 3;
      let c : Cmd := cmdOf 0x0A02 (toLE 1 1 ++ toLE 1 0 ++ toLE 2 143 ++ toLE 2 4 ++ toLE 2 0 ++ toLE 8 1);
      let u := fld c.pars 2 2;
      (s.waitsRow m 0x0A02 c) ∧
      let kind := fld c.pars 4 2;
      let arg := fld c.pars 8 8;
      (u < injectUnits kind) ∧ (¬ (kind = 3 ∧ stackBytes ≤ bits arg 0 63)) ∧ (¬ ((kind = 1 ∨ kind = 2 ∨ kind = 4) ∧ s.darkBlock u = true))) ∧
    (let s : State := cmd 0x0A03 (toLE 2 143 ++ toLE 2 0);
      let m : Nat := 3;
      let c : Cmd := cmdOf 0x0A03 (toLE 2 143 ++ toLE 2 0);
      (s.waitsRow m 0x0A03 c) ∧
      let n := fld c.pars 0 2;
      (n < 144) ∧ ((s.block n).st ≠ .running) ∧ (s.vecBlock n = false) ∧ (s.darkBlock n = false)) := by
  refine ⟨?_, ?_, ?_, ?_, ?_, ?_, ?_, ?_⟩ <;> decide +kernel

theorem test_meets_SecurityCommands :
    (let s : State := cmd 0x0B00 (List.replicate 36 0);
      let m : Nat := 3;
      let c : Cmd := cmdOf 0x0B00 (List.replicate 36 0);
      (s.waitsRow m 0x0B00 c)) ∧
    (let s : State := cmd 0x0B01 (List.replicate 72 0) (fun s => sliced s);
      let m : Nat := 3;
      let c : Cmd := cmdOf 0x0B01 (List.replicate 72 0);
      (s.waitsRow m 0x0B01 c) ∧ ((s.anyRunning = true ∨ s.fab.slice ≠ 0))) ∧
    (let s : State := cmd 0x0B01 (toLE 1 1 ++ toLE 3 0 ++ toLE 4 1 ++ toLE 64 0);
      let m : Nat := 3;
      let c : Cmd := cmdOf 0x0B01 (toLE 1 1 ++ toLE 3 0 ++ toLE 4 1 ++ toLE 64 0);
      (s.waitsRow m 0x0B01 c) ∧ (s.anyRunning = false) ∧ (s.fab.slice = 0)) ∧
    (let s : State := cmd 0x0B02 (toLE 64 5 ++ toLE 4 1 ++ toLE 68 0);
      let m : Nat := 3;
      let c : Cmd := cmdOf 0x0B02 (toLE 64 5 ++ toLE 4 1 ++ toLE 68 0);
      (s.waitsRow m 0x0B02 c) ∧ (s.anyRunning = false) ∧ (s.fab.slice = 0)) ∧
    (let s : State := cmd 0x0B02 (toLE 64 5 ++ toLE 4 1 ++ toLE 68 0);
      let m : Nat := 3;
      let c : Cmd := cmdOf 0x0B02 (toLE 64 5 ++ toLE 4 1 ++ toLE 68 0);
      (s.waitsRow m 0x0B02 c) ∧ (s.anyRunning = false) ∧ (s.fab.slice = 0) ∧ (s.boot.restart = false) ∧ (s.boot.halted = false)) ∧
    (let s : State := cmd 0x0B01 ([1]);
      let m : Nat := 3;
      let c : Cmd := cmdOf 0x0B01 ([1]);
      (c.op = 0x0B01) ∧ (c.m = m) ∧ (s.cmd m = some c) ∧ (c.keep.getD 0 0 ≤ s.now)) := by
  refine ⟨?_, ?_, ?_, ?_, ?_, ?_⟩ <;> decide +kernel

theorem test_meets_FirmwareAndSettings
    (h0 : let s : State := cmd 0x0C00 (toLE 4 (2 ^ 25) ++ toLE 4 0 ++ toLE 8 64);
      let m : Nat := 3;
      let c : Cmd := cmdOf 0x0C00 (toLE 4 (2 ^ 25) ++ toLE 4 0 ++ toLE 8 64);
      let b := s.began m;
      let data : List Byte := [1];
      let k := 1 - s.boot.slot;
      let t := b.flashBoth (fun f => f.write (slotOff k) (fitTo (fld c.pars 0 4) data));
      let f := t.flashAt (t.boot.dev.getD 0);
      f.fwOk k t.sec.fuses.minSec = true)
    (h1 : let s : State := cmd 0x0C01 (toLE 1 1 ++ toLE 3 0) (fun s => { s with sec := { s.sec with staged := 1 } });
      let m : Nat := 3;
      let c : Cmd := cmdOf 0x0C01 (toLE 1 1 ++ toLE 3 0);
      let b := s.began m;
      let k := 1 - s.boot.slot;
      let f := s.flashAt (s.boot.dev.getD 0);
      f.fwOk k s.sec.fuses.minSec = true)
    (h2 : let s : State := cmd 0x0C03 (toLE 4 160 ++ toLE 4 0 ++ toLE 8 64);
      let m : Nat := 3;
      let c : Cmd := cmdOf 0x0C03 (toLE 4 160 ++ toLE 4 0 ++ toLE 8 64);
      let b := s.began m;
      let data : List Byte := [0x11] ++ List.replicate 7 0 ++ toLE 4 32;
      let bs := fitTo (fld c.pars 0 4) data;
      let i := fld bs 0 2;
      let old := match (s.flashAt (s.boot.dev.getD 0)).setting i with | some o => fld o 4 4 | none => 0;
      s.setOk i bs = true)
    (h3 : let s : State := cmd 0x0C03 (toLE 4 160 ++ toLE 4 0 ++ toLE 8 64);
      let m : Nat := 3;
      let c : Cmd := cmdOf 0x0C03 (toLE 4 160 ++ toLE 4 0 ++ toLE 8 64);
      let b := s.began m;
      let data : List Byte := [0x11, 0, 0, 0, 1, 0, 0, 0] ++ toLE 4 32;
      let bs := fitTo (fld c.pars 0 4) data;
      let i := fld bs 0 2;
      let old := match (s.flashAt (s.boot.dev.getD 0)).setting i with | some o => fld o 4 4 | none => 0;
      s.setOk i bs = true) :
    (let s : State := cmd 0x0C00 (toLE 4 (2 ^ 25) ++ toLE 4 0 ++ toLE 8 64);
      let m : Nat := 3;
      let c : Cmd := cmdOf 0x0C00 (toLE 4 (2 ^ 25) ++ toLE 4 0 ++ toLE 8 64);
      (s.waitsRow m 0x0C00 c) ∧ (fld c.pars 8 8 % 64 = 0) ∧ (fld c.pars 0 4 ≤ 2 ^ 25)) ∧
    (let s : State := cmd 0x0C00 (toLE 4 16 ++ toLE 4 0 ++ toLE 8 64);
      let m : Nat := 3;
      let c : Cmd := cmdOf 0x0C00 (toLE 4 16 ++ toLE 4 0 ++ toLE 8 64);
      let b := s.began m;
      let data : List Byte := [1];
      (s.waitsRow m 0x0C00 c) ∧ (fld c.pars 8 8 % 64 = 0) ∧ (fld c.pars 0 4 ≤ 2 ^ 25) ∧
      let k := 1 - s.boot.slot;
      let t := b.flashBoth (fun f => f.write (slotOff k) (fitTo (fld c.pars 0 4) data));
      let f := t.flashAt (t.boot.dev.getD 0);
      (f.fwOk k t.sec.fuses.minSec = false)) ∧
    (let s : State := cmd 0x0C01 (toLE 1 0 ++ toLE 3 0);
      let m : Nat := 3;
      let c : Cmd := cmdOf 0x0C01 (toLE 1 0 ++ toLE 3 0);
      (s.waitsRow m 0x0C01 c) ∧
      (s.sec.staged ≠ 1)) ∧
    (let s : State := cmd 0x0C01 (toLE 1 0 ++ toLE 3 0) (fun s => { s with sec := { s.sec with staged := 1 } });
      let m : Nat := 3;
      let c : Cmd := cmdOf 0x0C01 (toLE 1 0 ++ toLE 3 0);
      (s.waitsRow m 0x0C01 c) ∧
      let k := 1 - s.boot.slot;
      let f := s.flashAt (s.boot.dev.getD 0);
      (s.sec.staged = 1) ∧ (f.fwOk k s.sec.fuses.minSec = false)) ∧
    (let s : State := cmd 0x0C01 (toLE 1 1 ++ toLE 3 0) (fun s => { s with sec := { s.sec with staged := 1 } });
      let m : Nat := 3;
      let c : Cmd := cmdOf 0x0C01 (toLE 1 1 ++ toLE 3 0);
      (s.waitsRow m 0x0C01 c) ∧
      let k := 1 - s.boot.slot;
      let f := s.flashAt (s.boot.dev.getD 0);
      (s.sec.staged = 1) ∧
      ((fld (f.read (slotOff k) 256) 12 1 = fld s.boot.hdr 12 1 ∨ bit (fld c.pars 0 1) 0 = true))) ∧
    (let s : State := cmd 0x0C02 (toLE 2 0x11 ++ toLE 2 0 ++ toLE 4 130 ++ toLE 8 0) (fun s => s.setFlash 0 (fun f => f.write (setOff 0x11 0) ([0x11] ++ List.replicate 7 0 ++ toLE 4 32 ++ List.replicate 116 0 ++ [5])));
      let m : Nat := 3;
      let c : Cmd := cmdOf 0x0C02 (toLE 2 0x11 ++ toLE 2 0 ++ toLE 4 130 ++ toLE 8 0);
      let bs : List Byte := (((s.flashAt (s.boot.dev.getD 0)).setting (fld c.pars 0 2)).getD []);
      (s.waitsRow m 0x0C02 c) ∧ (fld c.pars 0 2 < 256) ∧ ((s.flashAt (s.boot.dev.getD 0)).setting (fld c.pars 0 2) = some bs) ∧ (fld c.pars 4 4 ≤ bs.length) ∧ (fld c.pars 8 8 = 0) ∧ (fld c.pars 4 4 ≤ 4064)) ∧
    (let s : State := cmd 0x0C03 (toLE 4 160 ++ toLE 4 0 ++ toLE 8 64);
      let m : Nat := 3;
      let c : Cmd := cmdOf 0x0C03 (toLE 4 160 ++ toLE 4 0 ++ toLE 8 64);
      let data : List Byte := [0x11] ++ List.replicate 7 0 ++ toLE 4 32;
      (s.waitsRow m 0x0C03 c) ∧ (fld c.pars 8 8 % 64 = 0) ∧ (128 ≤ fld c.pars 0 4) ∧ (fld c.pars 0 4 ≤ 32768) ∧
      let bs := fitTo (fld c.pars 0 4) data;
      let i := fld bs 0 2;
      let old := match (s.flashAt (s.boot.dev.getD 0)).setting i with | some o => fld o 4 4 | none => 0;
      (i ≤ 255) ∧ (fld bs 8 4 = fld c.pars 0 4 - 128) ∧ (i ≠ 1) ∧ (i ≠ 2) ∧ ((i ≠ 4 ∨ s.sec.fuses.lc = 0)) ∧ (i ≠ 0x0010) ∧
      (fld bs 4 4 ≤ old)) ∧
    (let s : State := cmd 0x0C03 (toLE 4 160 ++ toLE 4 0 ++ toLE 8 64);
      let m : Nat := 3;
      let c : Cmd := cmdOf 0x0C03 (toLE 4 160 ++ toLE 4 0 ++ toLE 8 64);
      let data : List Byte := [0x11, 0, 0, 0, 1, 0, 0, 0] ++ toLE 4 32;
      (s.waitsRow m 0x0C03 c) ∧ (fld c.pars 8 8 % 64 = 0) ∧ (128 ≤ fld c.pars 0 4) ∧ (fld c.pars 0 4 ≤ 32768) ∧
      let bs := fitTo (fld c.pars 0 4) data;
      let i := fld bs 0 2;
      let old := match (s.flashAt (s.boot.dev.getD 0)).setting i with | some o => fld o 4 4 | none => 0;
      (i ≤ 255) ∧ (fld bs 8 4 = fld c.pars 0 4 - 128) ∧ (i ≠ 1) ∧ (i ≠ 2) ∧ ((i ≠ 4 ∨ s.sec.fuses.lc = 0)) ∧ (i ≠ 0x0010) ∧
      (old < fld bs 4 4)) ∧
    (let s : State := cmd 0x0C00 (toLE 4 (2 ^ 25) ++ toLE 4 0 ++ toLE 8 64);
      let m : Nat := 3;
      let c : Cmd := cmdOf 0x0C00 (toLE 4 (2 ^ 25) ++ toLE 4 0 ++ toLE 8 64);
      let b := s.began m;
      let data : List Byte := [1];
      let k := 1 - s.boot.slot;
      let t := b.flashBoth (fun f => f.write (slotOff k) (fitTo (fld c.pars 0 4) data));
      let f := t.flashAt (t.boot.dev.getD 0);
      f.fwOk k t.sec.fuses.minSec = true) ∧
    (let s : State := cmd 0x0C01 (toLE 1 1 ++ toLE 3 0) (fun s => { s with sec := { s.sec with staged := 1 } });
      let m : Nat := 3;
      let c : Cmd := cmdOf 0x0C01 (toLE 1 1 ++ toLE 3 0);
      let b := s.began m;
      let k := 1 - s.boot.slot;
      let f := s.flashAt (s.boot.dev.getD 0);
      f.fwOk k s.sec.fuses.minSec = true) ∧
    (let s : State := cmd 0x0C03 (toLE 4 160 ++ toLE 4 0 ++ toLE 8 64);
      let m : Nat := 3;
      let c : Cmd := cmdOf 0x0C03 (toLE 4 160 ++ toLE 4 0 ++ toLE 8 64);
      let b := s.began m;
      let data : List Byte := [0x11] ++ List.replicate 7 0 ++ toLE 4 32;
      let bs := fitTo (fld c.pars 0 4) data;
      let i := fld bs 0 2;
      let old := match (s.flashAt (s.boot.dev.getD 0)).setting i with | some o => fld o 4 4 | none => 0;
      s.setOk i bs = true) ∧
    (let s : State := cmd 0x0C03 (toLE 4 160 ++ toLE 4 0 ++ toLE 8 64);
      let m : Nat := 3;
      let c : Cmd := cmdOf 0x0C03 (toLE 4 160 ++ toLE 4 0 ++ toLE 8 64);
      let b := s.began m;
      let data : List Byte := [0x11, 0, 0, 0, 1, 0, 0, 0] ++ toLE 4 32;
      let bs := fitTo (fld c.pars 0 4) data;
      let i := fld bs 0 2;
      let old := match (s.flashAt (s.boot.dev.getD 0)).setting i with | some o => fld o 4 4 | none => 0;
      s.setOk i bs = true) := by
  refine ⟨?_, ?_, ?_, ?_, ?_, ?_, ?_, ?_, h0, h1, h2, h3⟩ <;> decide +kernel

theorem test_meets_ThallusRestarts_running :
    (on.coreUp = true ∧ on.boot.halted = false ∧ on.pwr.clkOff = false ∧ on.pwr.chip ≠ 0 ∧ on.boot.boot = 8 ∧
      on.boot.restart = false ∧ (∀ t, on.boot.lockEnd = some t → t + 100000000 ≤ on.now)) ∧
    (let s : State := { on with boot := { on.boot with lockEnd := some 5 } };
      s.coreUp = true ∧ s.boot.restart = false ∧ (∃ t, s.boot.lockEnd = some t ∧ s.now < t + 100000000)) ∧
    (let s : State := { on with boot := { on.boot with restart := true } };
      s.coreUp = true ∧ s.boot.boot = 8 ∧ s.boot.restart = true ∧ s.boot.switching = false) := by
  refine ⟨⟨?_, ?_, ?_, ?_, ?_, ?_, fun t h => by cases h⟩, ⟨?_, ?_, 5, ?_⟩, ?_⟩ <;> decide +kernel

theorem test_meets_TransitionsComplete :
    (let s : State := (let s := on; { s with pwr := { s.pwr with chipMove := some (2, 5) } });
      let n : Nat := 2;
      let t : Nat := 5;
      (s.pwr.chipMove = some (n, t)) ∧ (s.coreUp = true) ∧ (s.pwr.clkOff = false) ∧ (s.now < t)) ∧
    (let s : State := (let s := at_ 5 on; { s with pwr := { s.pwr with chipMove := some (2, 5) } });
      let n : Nat := 2;
      let t : Nat := 5;
      (s.pwr.chipMove = some (n, t)) ∧ (s.coreUp = true) ∧ (s.pwr.clkOff = false) ∧ (t ≤ s.now) ∧ (n ≠ 0) ∧ (s.pwr.chip ≠ 0)) ∧
    (let s : State := (let s := at_ 5 on; { s with pwr := { s.pwr with chipMove := some (1, 5), chip := 0 } });
      let n : Nat := 1;
      let t : Nat := 5;
      (s.pwr.chipMove = some (n, t)) ∧ (s.coreUp = true) ∧ (s.pwr.clkOff = false) ∧ (t ≤ s.now) ∧ (n ≠ 0) ∧ (s.pwr.chip = 0)) ∧
    (let s : State := (let s := at_ 5 on; { s with pwr := { s.pwr with chipMove := some (0, 5), chip := 1 } });
      let n : Nat := 0;
      let t : Nat := 5;
      (s.pwr.chipMove = some (n, t)) ∧ (s.coreUp = true) ∧ (s.pwr.clkOff = false) ∧ (t ≤ s.now) ∧ (n = 0) ∧ (s.host.runs.any (fun c => c.op == 0x0200) = false)) ∧
    (let s : State := region 3 (fun g => { g with st := .armed, move := some (.run, 5) }) (at_ 4 on);
      let r : Nat := 3;
      let t : Nat := 5;
      let n : RegSt := .run;
      (r < 4) ∧ ((s.region r).move = some (n, t)) ∧ (s.coreUp = true) ∧ (s.pwr.clkOff = false) ∧ (s.now < t)) ∧
    (let s : State := (let s := region 3 (fun g => { g with st := .armed, move := some (.run, 5) }) (at_ 5 on); { s with pwr := { s.pwr with pause := some 0 } });
      let r : Nat := 3;
      let t : Nat := 5;
      let n : RegSt := .run;
      (r < 4) ∧ ((s.region r).move = some (n, t)) ∧ (s.coreUp = true) ∧ (s.pwr.clkOff = false) ∧ (n = .run) ∧ (s.issueOn = false)) ∧
    (let s : State := region 3 (fun g => { g with st := .armed, move := some (.run, 5) }) (at_ 5 on);
      let r : Nat := 3;
      let t : Nat := 5;
      let n : RegSt := .run;
      (r < 4) ∧ ((s.region r).move = some (n, t)) ∧ (s.coreUp = true) ∧ (s.pwr.clkOff = false) ∧ (t ≤ s.now) ∧ (n ≠ .armed) ∧ ((n = .run → s.issueOn = true))) ∧
    (let s : State := region 3 (fun g => { g with st := .off, move := some (.armed, 5) }) (at_ 5 on);
      let r : Nat := 3;
      let t : Nat := 5;
      let n : RegSt := .armed;
      (r < 4) ∧ ((s.region r).move = some (n, t)) ∧ (s.coreUp = true) ∧ (s.pwr.clkOff = false) ∧ (t ≤ s.now) ∧ (n = .armed) ∧ ((s.region r).st ≠ .retain)) ∧
    (let s : State := (on.updLink 63 (fun k => { k with st := .up, goal := .standby }));
      let l : Nat := 63;
      (l < 64) ∧ (s.pwr.stopped = false) ∧ (s.dieUp (l / 32) = true) ∧ ((s.link l).st = .up) ∧ ((s.link l).goal = .standby) ∧ ((s.link l).tx = [])) ∧
    (let s : State := (on.updLink 63 (fun k => { k with st := .up, goal := .standby, tx := [⟨pkt 1 0 [1], 0, 1, 0⟩] }));
      let l : Nat := 63;
      (l < 64) ∧ (s.pwr.stopped = false) ∧ (s.dieUp (l / 32) = true) ∧ ((s.link l).st = .up) ∧ ((s.link l).goal = .standby) ∧ ((s.link l).tx ≠ [])) ∧
    (let s : State := (on.updLink 63 (fun k => { k with st := .standby, goal := .up }));
      let l : Nat := 63;
      (l < 64) ∧ (s.pwr.stopped = false) ∧ (s.dieUp (l / 32) = true) ∧ ((s.link l).st = .standby) ∧ ((s.link l).goal = .up)) ∧
    (let s : State := (on.updLink 63 (fun k => { k with st := .standby, goal := .off }));
      let l : Nat := 63;
      (l < 64) ∧ (s.pwr.stopped = false) ∧ (s.dieUp (l / 32) = true) ∧ ((s.link l).goal = .off)) := by
  refine ⟨?_, ?_, ?_, ?_, ?_, ?_, ?_, ?_, ?_, ?_, ?_, ?_⟩ <;> decide +kernel

theorem test_meets_NextPowerStep_up_and_down :
    (let s : State := (let s := on; { s with pwr := { s.pwr with chip := 1, chipGoal := 3 } });
      s.pwr.chipMove = none ∧ s.pwr.chip < s.pwr.chipGoal) ∧
    on.pwr.chipGoal = on.pwr.chip ∧
    (let s : State := region 0 (fun g => { g with st := .armed, goal := .armed }) (region 1 (fun g => { g with st := .armed, goal := .armed })
        (region 2 (fun g => { g with st := .armed, goal := .armed }) (region 3 (fun g => { g with st := .armed, goal := .armed }) (let s := on; { s with pwr := { s.pwr with chip := 3, chipGoal := 1 } }))));
      s.pwr.chipMove = none ∧ s.pwr.chipGoal < s.pwr.chip ∧ s.chipStep.pwr.chipMove.map Prod.fst = some 2) ∧
    (let s : State := region 3 (fun g => { g with st := .armed }) on;
      (s.region 3).move = none ∧ (s.region 3).goal.code > (s.region 3).st.code ∧
      (∀ x ∈ s.regions, ∀ e, x.move ≠ some (.run, e))) ∧
    (let s : State := region 0 (fun g => { g with move := some (.run, 5) }) (region 3 (fun g => { g with st := .armed }) on);
      (s.region 3).st = .armed ∧ (∃ x ∈ s.regions, ∃ e, x.move = some (.run, e))) := by
  refine ⟨by decide +kernel, by decide +kernel, by decide +kernel, ⟨by decide +kernel, by decide +kernel, ?_⟩,
    by decide +kernel, ?_⟩
  · have h : ∀ x ∈ (region 3 (fun g => { g with st := .armed }) on).regions, x.move = none := by decide +kernel
    intro x hx e; rw [h x hx]; simp
  · exact ⟨{ on.region 0 with move := some (.run, 5) }, by decide +kernel, 5, rfl⟩

theorem test_meets_CoreDieReset :
    (let s : State := on;
      let rail : Nat := 1;
      (rail < 2) ∧ (s.crustUp = true)) ∧
    (let s : State := on;
      (s.crustUp = true) ∧ (s.pwr.good = true) ∧ (s.pwr.resetN = true)) ∧
    (let s : State := on;
      let n := 11;
      (n < 12) ∧ (n < s.stks.length)) ∧
    (let s : State := (let s := on; { s with pwr := { s.pwr with core := some 1, held := [1], lowAt := some 0 } });
      (s.crustUp = true) ∧ (s.pwr.core.isSome = true) ∧ (s.pwr.held ≠ []) ∧
      ((s.pwr.lowAt ≠ none ∨ s.pwr.resetN = false))) ∧
    (let s : State := (let s := on; { s with pwr := { s.pwr with core := some 1, held := [1] } });
      (s.crustUp = true) ∧ (s.pwr.core.isSome = true) ∧ (s.pwr.held ≠ []) ∧
      (s.pwr.lowAt = none) ∧ (s.pwr.resetN = true)) ∧
    (let s : State := (let s := on; { s with pwr := { s.pwr with core := some 2, resetN := false } });
      (s.crustUp = true) ∧ (s.pwr.resetN = false) ∧ (s.pwr.held = []) ∧ (s.pwr.core.isSome = true) ∧ (2 ≤ s.boot.boot) ∧ (s.boot.boot < 14)) := by
  refine ⟨?_, ?_, ?_, ?_, ?_, ?_⟩ <;> decide +kernel

theorem test_meets_PackageReset :
    (let s : State := (let s := at_ 1000000 on; { s with pwr := { s.pwr with lowAt := some 0 } });
      let t : Nat := 0;
      (s.crustUp = true) ∧ (s.pwr.lowAt = some t) ∧ (t + 1000000 ≤ s.now)) ∧
    (let s : State := on;
      let cause : Nat := 9;
      (4 ≤ cause) ∧ (cause < 10) ∧ (s.crustUp = true)) ∧
    (let s : State := State.reset;
      (s.pwr.good = false)) ∧
    (let s : State := (let s := State.reset; { s with pwr := { s.pwr with good := true, osc := true } });
      let low : List Nat := [];
      (s.pwr.good = true) ∧ (s.pwr.osc = true) ∧ ((∀ r ∈ low, r < 8)) ∧ (low = [])) ∧
    (let s : State := (let s := State.reset; { s with pwr := { s.pwr with good := true, osc := true } });
      let low : List Nat := [7];
      (s.pwr.good = true) ∧ (s.pwr.osc = true) ∧ ((∀ r ∈ low, r < 8)) ∧ (low ≠ [])) ∧
    (let s : State := (let s := State.reset; { s with pwr := { s.pwr with good := true, held := [7] } });
      (s.pwr.good = true) ∧ (s.pwr.crust = false) ∧ (s.pwr.osc = false) ∧ (s.pwr.held ≠ [])) := by
  refine ⟨?_, ?_, ?_, ?_, ?_, ?_⟩ <;> decide +kernel

theorem test_meets_Supplies :
    (let s : State := on;
      let rail : Nat := 7;
      (rail < 8) ∧ (s.crustUp = true)) ∧
    (let s : State := (let s := on; { s with pwr := { s.pwr with rails := [7], pause := some 0 } });
      let t : Nat := 0;
      (s.crustUp = true) ∧ (s.pwr.rails ≠ []) ∧ (s.pwr.pause = some t) ∧ (s.pwr.trip = none)) ∧
    (let s : State := (let s := on; { s with pwr := { s.pwr with rails := [7], pause := some 0, trip := some 0 } });
      let t : Nat := 0;
      (s.crustUp = true) ∧ (s.pwr.rails ≠ []) ∧ (s.pwr.pause = some t) ∧ (s.pwr.trip ≠ none)) := by
  refine ⟨?_, ?_, ?_⟩ <;> decide +kernel

theorem test_meets_Temperature :
    (let s : State := (let s := on; { s with pwr := { s.pwr with therm := false } });
      let core : List Int := [1599, 0, -1, 0, 0];
      let dies : List Int := [5, 6];
      (core.length = 5) ∧ (dies.length = 2) ∧ (s.crustUp = true) ∧
      let x := hottest (core ++ dies);
      (1552 < x.2) ∧ (x.2 < 1600)) ∧
    (let s : State := (let s := on; { s with pwr := { s.pwr with therm := false } });
      let core : List Int := [1552, 0, -1, 0, 0];
      let dies : List Int := [5, 6];
      (core.length = 5) ∧ (dies.length = 2) ∧ (s.crustUp = true) ∧
      let x := hottest (core ++ dies);
      (x.2 ≤ 1552)) ∧
    (let s : State := (let s := on; { s with pwr := { s.pwr with therm := false } });
      let core : List Int := [1600, 0, -1, 0, 0];
      let dies : List Int := [5, 6];
      (core.length = 5) ∧ (dies.length = 2) ∧ (s.crustUp = true) ∧
      let x := hottest (core ++ dies);
      (1600 ≤ x.2) ∧ (x.2 < 1840) ∧ (s.pwr.therm = false)) ∧
    (let s : State := (let s := on; { s with pwr := { s.pwr with therm := true } });
      let core : List Int := [1840, 0, -1, 0, 0];
      let dies : List Int := [5, 6];
      (core.length = 5) ∧ (dies.length = 2) ∧ (s.crustUp = true) ∧
      let x := hottest (core ++ dies);
      (1840 ≤ x.2) ∧ (s.pwr.therm = true) ∧ (s.pwr.trip = none)) ∧
    (let s : State := (let s := at_ 500 on; { s with pwr := { s.pwr with trip := some 0 } });
      let t : Nat := 0;
      (s.crustUp = true) ∧ (s.pwr.trip = some t) ∧ (t + 500 ≤ s.now)) ∧
    (let s : State := (let s := on; { s with pwr := { s.pwr with clkOff := true } });
      let n : Nat := 11;
      (n < 12) ∧ (s.crustUp = true) ∧ (s.pwr.clkOff = true) ∧ (s.pwr.spOff.contains n = false) ∧ ((s.stack n).st ≠ .untrained) ∧ ((s.stack n).st ≠ .failed)) := by
  refine ⟨?_, ?_, ?_, ?_, ?_, ?_⟩ <;> decide +kernel

theorem test_meets_ClockLoss :
    (let s : State := on;
      (s.pwr.crust = true)) ∧
    (let s : State := (let s := on; { s with pwr := { s.pwr with stopped := true } });
      let d : Nat := 1;
      (d < 2) ∧ (s.pwr.stopped = true)) ∧
    (let s : State := on;
      let d : Nat := 1;
      (d < 2) ∧ (s.pwr.dieOn.getD d false = true)) ∧
    (let s : State := (let s := at_ 100 on; { s with pwr := { s.pwr with dieAt := [(1, 0)] } });
      let d : Nat := 1;
      (d < 2) ∧ (s.crustUp = true) ∧ ((∃ x ∈ s.pwr.dieAt, x.1 = d ∧ x.2 + 100 ≤ s.now))) ∧
    (let s : State := (let s := at_ 99 on; { s with pwr := { s.pwr with dieAt := [(1, 0)] } });
      let d : Nat := 1;
      (d < 2) ∧ ((∀ x ∈ s.pwr.dieAt, x.1 = d → s.now < x.2 + 100))) := by
  refine ⟨?_, ?_, ?_, ?_, ?_⟩ <;> decide +kernel

theorem test_meets_StartUpStages_stages :
    (let s : State := (let s := on; { s with boot := { s.boot with boot := 1 } });
      s.crustUp = true ∧ s.boot.boot = 1) ∧
    (let s : State := (let s := on; { s with boot := { s.boot with boot := 2 } });
      s.stage 2 = true ∧ s.sec.tampered = false) ∧
    (let s : State := (let s := on; { s with boot := { s.boot with boot := 3 } });
      let s1 := (s.setFlash 0 (fun f => { f with sfdp := some ⟨0, true, 1, 400⟩ })).setFlash 1 (fun f => { f with sfdp := some ⟨0xFFFFFFFF, true, 1, 400⟩ });
      s.stage 3 = true ∧ (∀ d, d < 2 → (s1.flashAt d).bad ≠ none)) ∧
    (let s : State := (let s := on; { s with boot := { s.boot with boot := 4 } });
      let good (d : Nat) : Bool := (s.flashAt d).fwOk (s.flashAt d).active s.sec.fuses.minSec;
      s.stage 4 = true ∧ s.boot.cand.find? good = none) ∧
    (let s : State := (let s := on; { s with boot := { s.boot with boot := 5, restart := true } });
      s.stage 5 = true ∧ s.boot.restart = true) ∧
    (let s : State := (let s := on; { s with boot := { s.boot with boot := 5 } });
      s.stage 5 = true ∧ s.boot.restart = false) := by
  refine ⟨?_, ?_, ?_, ?_, ?_, ?_⟩ <;> decide +kernel

/-- A valid directory copy passes discovery, and an image passes stage 4, where the digests and the signature match. -/
theorem test_meets_StartUpStages_devices
    (hd : let s : State := (let s := on; { s with boot := { s.boot with boot := 3 } });
      let s1 := (s.setFlash 0 (fun f => { f with sfdp := some ⟨0x50444653, true, 1, 400⟩ })).setFlash 1 (fun f => { f with sfdp := some ⟨0x50444653, true, 1, 400⟩ });
      ((s1.flashAt 0).bad = none))
    (hf : let s : State := (let s := on; { s with boot := { s.boot with boot := 4, cand := [0] } });
      let good (d : Nat) : Bool := (s.flashAt d).fwOk (s.flashAt d).active s.sec.fuses.minSec;
      s.boot.cand.find? good = some 0) :
    (let s : State := (let s := on; { s with boot := { s.boot with boot := 3 } });
      let s1 := (s.setFlash 0 (fun f => { f with sfdp := some ⟨0x50444653, true, 1, 400⟩ })).setFlash 1 (fun f => { f with sfdp := some ⟨0x50444653, true, 1, 400⟩ });
      s.stage 3 = true ∧ (∃ d, d < 2 ∧ (s1.flashAt d).bad = none)) ∧
    (let s : State := (let s := on; { s with boot := { s.boot with boot := 4, cand := [0] } });
      let good (d : Nat) : Bool := (s.flashAt d).fwOk (s.flashAt d).active s.sec.fuses.minSec;
      s.stage 4 = true ∧ s.boot.cand.find? good = some 0) :=
  ⟨⟨by decide +kernel, 0, by decide, hd⟩, by decide +kernel, hf⟩

theorem test_meets_Training :
    (let s : State := on.updLink 63 (fun k => { k with st := .training, goal := .up });
      let l : Nat := 63;
      let t : Train := ⟨0, some (0, 1), false, 5, []⟩;
      (l < 64) ∧ (s.pwr.stopped = false) ∧ (s.trains l = true) ∧
      let lane := 0;
      let kind := 1;
      (t.fault = some (lane, kind))) ∧
    (let s : State := on.updLink 63 (fun k => { k with st := .training, goal := .up });
      let l : Nat := 63;
      let t : Train := ⟨0, none, true, 5, []⟩;
      (l < 64) ∧ (s.pwr.stopped = false) ∧ (s.trains l = true) ∧
      (t.fault = none) ∧ (t.lanes = 0) ∧ (t.eqFail = true)) ∧
    (let s : State := on.updLink 63 (fun k => { k with st := .training, goal := .up });
      let l : Nat := 63;
      let t : Train := ⟨0, none, false, 5, []⟩;
      (l < 64) ∧ (s.pwr.stopped = false) ∧ (s.trains l = true) ∧
      (t.fault = none) ∧ (t.eqFail = false) ∧ (trainOk t.slot 5 = false)) ∧
    (let s : State := on.updLink 63 (fun k => { k with st := .training, goal := .up });
      let l : Nat := 63;
      let t : Train := ⟨0, none, false, 5, sealed ([5, 1, 0, 0] ++ [1, 0, 2, 0, 0, 0] ++ List.replicate 66 0)⟩;
      (l < 64) ∧ (s.pwr.stopped = false) ∧ (s.trains l = true) ∧
      (t.fault = none) ∧ (t.lanes = 0) ∧ (t.eqFail = false) ∧ (trainOk t.slot 5 = true) ∧
      let i := identAt t.slot 4;
      let own := (match (s.link l).stored with | some x => x.2.2 == i | none => false) && !(s.fullGate (s.link l));
      let s1 := (s.wire l (.train l (s.trainBytes l 4 0))).updLink l (fun k => { k with
        st := .training, lanes := 0, delay := t.delay, ident := some i, gate := true, txPos := 0
        fast := own, short := own && bit (fld t.slot 1 1) 0, echo := fld t.slot 28 8 });
      let s2 := s1.wire l (.train l (s1.trainBytes l 5 (b2n own)));
      (s2.identBad l i = 0)) ∧
    (let s : State := on.updLink 63 (fun k => { k with st := .training, goal := .up, gate := true });
      let l : Nat := 63;
      let corr : Nat := 0;
      let unc : Nat := 0;
      let slot : List Byte := sealed ([6, 1, 0, 0] ++ [1, 0, 2, 0, 0, 0] ++ List.replicate 66 0);
      (l < 64) ∧ (s.pwr.stopped = false) ∧ (s.dieUp (l / 32) = true) ∧ ((s.link l).st = .training) ∧ ((s.link l).gate = true) ∧ ((s.link l).goal = .up) ∧ ((s.link l).retrain = none) ∧ (trainOk slot 6 = true) ∧
      let won := bit (fld slot 1 1) 1;
      let lost := bit (fld slot 1 1) 2;
      let good := corr ≤ 10000 ∧ unc = 0;
      (won = false) ∧ (lost = false)) ∧
    (let s : State := on.updLink 63 (fun k => { k with st := .training, goal := .up, gate := true });
      let l : Nat := 63;
      let corr : Nat := 10000;
      let unc : Nat := 0;
      let slot : List Byte := sealed ([6, 2, 0, 0] ++ [1, 0, 2, 0, 0, 0] ++ List.replicate 66 0);
      (l < 64) ∧ (s.pwr.stopped = false) ∧ (s.dieUp (l / 32) = true) ∧ ((s.link l).st = .training) ∧ ((s.link l).gate = true) ∧ ((s.link l).goal = .up) ∧ ((s.link l).retrain = none) ∧ (trainOk slot 6 = true) ∧
      let won := bit (fld slot 1 1) 1;
      let lost := bit (fld slot 1 1) 2;
      let good := corr ≤ 10000 ∧ unc = 0;
      (good) ∧ (won = true) ∧ (lost = false)) ∧
    (let s : State := on.updLink 63 (fun k => { k with st := .training, goal := .up, gate := true });
      let l : Nat := 63;
      let corr : Nat := 0;
      let unc : Nat := 0;
      let slot : List Byte := sealed ([6, 4, 0, 0] ++ [1, 0, 2, 0, 0, 0] ++ List.replicate 66 0);
      (l < 64) ∧ (s.pwr.stopped = false) ∧ (s.dieUp (l / 32) = true) ∧ ((s.link l).st = .training) ∧ ((s.link l).gate = true) ∧ ((s.link l).goal = .up) ∧ ((s.link l).retrain = none) ∧ (trainOk slot 6 = true) ∧
      let won := bit (fld slot 1 1) 1;
      let lost := bit (fld slot 1 1) 2;
      let good := corr ≤ 10000 ∧ unc = 0;
      (lost = true ∨ (won = true ∧ ¬ good))) ∧
    (let s : State := on.updLink 63 (fun k => { k with st := .training, goal := .up, gate := true });
      let l : Nat := 63;
      let corr : Nat := 10001;
      let unc : Nat := 0;
      let slot : List Byte := sealed ([6, 2, 0, 0] ++ [1, 0, 2, 0, 0, 0] ++ List.replicate 66 0);
      (l < 64) ∧ (s.pwr.stopped = false) ∧ (s.dieUp (l / 32) = true) ∧ ((s.link l).st = .training) ∧ ((s.link l).gate = true) ∧ ((s.link l).goal = .up) ∧ ((s.link l).retrain = none) ∧ (trainOk slot 6 = true) ∧
      let won := bit (fld slot 1 1) 1;
      let lost := bit (fld slot 1 1) 2;
      let good := corr ≤ 10000 ∧ unc = 0;
      (lost = true ∨ (won = true ∧ ¬ good))) ∧
    (let s : State := on.updLink 63 (fun k => { k with st := .training, goal := .up, gate := true });
      let l : Nat := 63;
      let corr : Nat := 0;
      let unc : Nat := 1;
      let slot : List Byte := sealed ([6, 2, 0, 0] ++ [1, 0, 2, 0, 0, 0] ++ List.replicate 66 0);
      (l < 64) ∧ (s.pwr.stopped = false) ∧ (s.dieUp (l / 32) = true) ∧ ((s.link l).st = .training) ∧ ((s.link l).gate = true) ∧ ((s.link l).goal = .up) ∧ ((s.link l).retrain = none) ∧ (trainOk slot 6 = true) ∧
      let won := bit (fld slot 1 1) 1;
      let lost := bit (fld slot 1 1) 2;
      let good := corr ≤ 10000 ∧ unc = 0;
      (lost = true ∨ (won = true ∧ ¬ good))) ∧
    (let s : State := (let s := on.updStack 11 (fun k => { k with st := .untrained }); { s with boot := { s.boot with boot := 7 } });
      let n : Nat := 11;
      (n < 12) ∧ (s.crustUp = true) ∧ (s.boot.boot = 6 ∨ s.boot.boot = 7) ∧ ((s.stack n).st = .untrained)) ∧
    (let s : State := (let s := on.updStack 11 (fun k => { k with st := .untrained }); { s with boot := { s.boot with boot := 6 } });
      let n : Nat := 11;
      (n < 12) ∧ (s.crustUp = true) ∧ (s.boot.boot = 6 ∨ s.boot.boot = 7) ∧ ((s.stack n).st = .untrained) ∧
      let k := 6;
      (1 ≤ k) ∧ (k ≤ 6)) := by
  refine ⟨?_, ?_, ?_, ?_, ?_, ?_, ?_, ?_, ?_, ?_, ?_⟩ <;> decide +kernel

theorem test_meets_ReadyFetchTest_ready :
    (let s : State := (let s := on; { s with boot := { s.boot with boot := 7, ready := false } });
      s.coreUp = true ∧ s.boot.halted = false ∧ s.pwr.clkOff = false ∧ s.mayReady = true ∧ s.sec.lastLc = s.sec.fuses.lc ∧
        s.boot.resetOf = none ∧ (s.boot.boot = 6 ∨ s.boot.boot = 7)) ∧
    on.mayReady = false ∧
    (let s : State := (let s := setting 0x0030 [0, 0, 1] on; { s with boot := { s.boot with boot := 7 } });
      let fails : List (Nat × Nat) := [(143, 2)];
      (∀ x ∈ fails, x.1 < 144) ∧ (s.boot.boot = 6 ∨ s.boot.boot = 7) ∧ s.testSet = true ∧
        s.boot.fetched.contains 144 = false ∧ s.coreUp = true) := by
  refine ⟨?_, ?_, ?_⟩ <;> decide +kernel

/-- Block 143 fetches an image from stack memory. -/
def fetching (digest : Nat) : State :=
  let s := setting 0x0030 (List.replicate (64 + 48 * 143) 0 ++ toLE 1 3 ++ toLE 1 1 ++ toLE 2 0 ++ toLE 4 336 ++ toLE 8 0
    ++ toLE 32 digest) on;
  { s with
    boot := { s.boot with boot := 9 }
    stks := s.stks.mapIdx (fun i k => if i = 0 then { k with mem := k.mem.put 0 (img.take 256) } else
      if i = 3 then { k with mem := k.mem.put 0 (img.drop 256) } else k) }

theorem test_meets_BlockFetch_passes
    (h : let bs := ((fetching 0).readAt 143 3 0 0 336).map Prod.fst;
      Config.sm3 bs = fld ((fetching 0).manifest 143) 16 32) :
    (let s := fetching 0;
      let n := 143;
      let e := s.manifest n;
      let sp := fld e 0 1;
      let len := fld e 4 4;
      let a := fld e 8 8;
      s.boot.boot = 9 ∧ s.boot.fetched.contains n = false ∧ s.fetches n = true ∧ s.coreUp = true ∧
        (s.region (n / 36)).st ≠ .off ∧ extentOk sp 0 a len = true ∧ s.gateAt sp 0 a len = .ok ∧
        (s.readAt n sp 0 a len).any Prod.snd = false ∧ imageStatus ((s.readAt n sp 0 a len).map Prod.fst) = 0) ∧
    (let bs := ((fetching 0).readAt 143 3 0 0 336).map Prod.fst;
      Config.sm3 bs = fld ((fetching 0).manifest 143) 16 32) :=
  ⟨by decide +kernel, h⟩

theorem test_meets_Tamper :
    (let s : State := on;
      let sensor : Nat := 2;
      (sensor < 5) ∧ (s.crustUp = true) ∧
      ((sensor < 3 ∨ s.secBit (sensor + 3) = true))) ∧
    (let s : State := on;
      let sensor : Nat := 4;
      (sensor < 5) ∧ (s.crustUp = true) ∧
      (3 ≤ sensor) ∧ (s.secBit (sensor + 3) = false)) := by
  refine ⟨?_, ?_⟩ <;> decide +kernel

theorem test_meets_DebugPorts :
    (let s : State := { on.updBlock 143 (fun b => { b with sec := true }) with sec := { on.sec with fuses := { on.sec.fuses with lc := 1 } } };
      let n : Nat := 143;
      let wr : Bool := false;
      let off : Nat := 0x1C0000;
      let len : Nat := 2;
      let data : List Byte := [1, 2];
      (n < 144) ∧ (s.coreUp = true) ∧ (s.pwr.clkOff = false) ∧ (off < 2 ^ 21) ∧ (off + (if wr then data.length else len) ≤ 2 ^ 21) ∧
      let a := n * 2 ^ 21 + off;
      let size := if wr then data.length else len;
      (s.deniedAt 1 a size = true) ∧ (wr = false)) ∧
    (let s : State := { on.updBlock 143 (fun b => { b with sec := true }) with sec := { on.sec with fuses := { on.sec.fuses with lc := 2 } } };
      let n : Nat := 143;
      let wr : Bool := true;
      let off : Nat := 0x1C0000;
      let len : Nat := 2;
      let data : List Byte := [1, 2];
      (n < 144) ∧ (s.coreUp = true) ∧ (s.pwr.clkOff = false) ∧ (off < 2 ^ 21) ∧ (off + (if wr then data.length else len) ≤ 2 ^ 21) ∧
      let a := n * 2 ^ 21 + off;
      let size := if wr then data.length else len;
      (s.deniedAt 1 a size = true) ∧ (wr = true)) ∧
    (let s : State := { on with sec := { on.sec with fuses := { on.sec.fuses with lc := 2 } } };
      let n : Nat := 143;
      let wr : Bool := false;
      let off : Nat := 2 ^ 21 - 2;
      let len : Nat := 2;
      let data : List Byte := [1, 2];
      (n < 144) ∧ (s.coreUp = true) ∧ (s.pwr.clkOff = false) ∧ (off < 2 ^ 21) ∧ (off + (if wr then data.length else len) ≤ 2 ^ 21) ∧
      let a := n * 2 ^ 21 + off;
      let size := if wr then data.length else len;
      (s.deniedAt 1 a size = false) ∧ (s.locked = true) ∧ (wr = false)) ∧
    (let s : State := { on with sec := { on.sec with fuses := { on.sec.fuses with lc := 2 } } };
      let n : Nat := 143;
      let wr : Bool := true;
      let off : Nat := 2 ^ 21 - 2;
      let len : Nat := 2;
      let data : List Byte := [1, 2];
      (n < 144) ∧ (s.coreUp = true) ∧ (s.pwr.clkOff = false) ∧ (off < 2 ^ 21) ∧ (off + (if wr then data.length else len) ≤ 2 ^ 21) ∧
      let a := n * 2 ^ 21 + off;
      let size := if wr then data.length else len;
      (s.deniedAt 1 a size = false) ∧ (s.locked = true) ∧ (wr = true)) ∧
    (let s : State := { on with sec := { on.sec with fuses := { on.sec.fuses with lc := 1 } } };
      let n : Nat := 143;
      let wr : Bool := true;
      let off : Nat := 2 ^ 21 - 2;
      let len : Nat := 2;
      let data : List Byte := [1, 2];
      (n < 144) ∧ (s.coreUp = true) ∧ (s.pwr.clkOff = false) ∧ (off < 2 ^ 21) ∧ (off + (if wr then data.length else len) ≤ 2 ^ 21) ∧
      let a := n * 2 ^ 21 + off;
      (s.locked = false) ∧ (wr = true) ∧ (s.gateAt 1 0 a data.length = .ok) ∧ (s.deniedAt 1 a data.length = false)) ∧
    (let s : State := { on with sec := { on.sec with fuses := { on.sec.fuses with lc := 1 } } };
      let n : Nat := 143;
      let wr : Bool := false;
      let off : Nat := 2 ^ 21 - 2;
      let len : Nat := 2;
      let data : List Byte := [1, 2];
      (n < 144) ∧ (s.coreUp = true) ∧ (s.pwr.clkOff = false) ∧ (off < 2 ^ 21) ∧ (off + (if wr then data.length else len) ≤ 2 ^ 21) ∧
      let a := n * 2 ^ 21 + off;
      (s.locked = false) ∧ (wr = false) ∧ (s.gateAt 1 0 a len = .ok) ∧ (s.deniedAt 1 a len = false)) ∧
    (let s : State := { on with sec := { on.sec with fuses := { on.sec.fuses with lc := 1 } } };
      let n : Nat := 143;
      (n < 144) ∧ (s.coreUp = true) ∧ (s.pwr.clkOff = false) ∧ (s.locked = false) ∧ (s.regionGate (n / 36) = .ok) ∧
      let q : Nat := 7;
      (q < 8)) ∧
    (let s : State := { on with sec := { on.sec with fuses := { on.sec.fuses with lc := 1 } } };
      let n : Nat := 143;
      (n < 144) ∧ (s.coreUp = true) ∧ (s.pwr.clkOff = false) ∧ (s.locked = false) ∧ (s.regionGate (n / 36) = .ok) ∧
      let k : Nat := 63;
      (k < 64)) ∧
    (let s : State := { on with sec := { on.sec with fuses := { on.sec.fuses with lc := 1 } } };
      let n : Nat := 143;
      let d : List Byte := [1, 2, 3, 4];
      (n < 144) ∧ (s.coreUp = true) ∧ (s.pwr.clkOff = false) ∧ (s.locked = false) ∧ (s.regionGate (n / 36) = .ok) ∧ (d.length = 4)) ∧
    (let s : State := { on with sec := { on.sec with fuses := { on.sec.fuses with lc := 1 } } };
      let n : Nat := 143;
      let d : List Byte := [1, 2, 3, 4];
      (n < 144) ∧ (s.coreUp = true) ∧ (s.pwr.clkOff = false) ∧ (s.locked = false) ∧ (s.regionGate (n / 36) = .ok) ∧
      let off := 2 ^ 21 + 0x3C;
      (2 ^ 21 ≤ off) ∧ (off + d.length ≤ 2 ^ 21 + 0x1000) ∧ (off + d.length ≤ 2 ^ 21 + 0x40 ∨ 2 ^ 21 + 0x44 ≤ off)) ∧
    (let s : State := { on with sec := { on.sec with fuses := { on.sec.fuses with lc := 1 } } };
      let n : Nat := 143;
      let d : List Byte := [1];
      (n < 144) ∧ (s.coreUp = true) ∧ (s.pwr.clkOff = false) ∧ (s.locked = false) ∧ (s.regionGate (n / 36) = .ok) ∧
      let off := 2 ^ 21 + 0xFFF;
      (2 ^ 21 ≤ off) ∧ (off + d.length ≤ 2 ^ 21 + 0x1000) ∧ (off + d.length ≤ 2 ^ 21 + 0x40 ∨ 2 ^ 21 + 0x44 ≤ off)) ∧
    (let s : State := { on with sec := { on.sec with fuses := { on.sec.fuses with lc := 1 } } };
      (s.pwr.good = true)) ∧
    (let s : State := { on with sec := { on.sec with fuses := { on.sec.fuses with lc := 2 } } };
      let ir : Nat := 2;
      (s.pwr.good = true) ∧ (2 ≤ ir) ∧ (s.locked = true)) ∧
    (let s : State := { on with sec := { on.sec with fuses := { on.sec.fuses with lc := 1 } } };
      let ir : Nat := 2;
      (s.pwr.good = true) ∧ (2 ≤ ir) ∧ (s.locked = false)) ∧
    (let s : State := { on with sec := { on.sec with dbgAt := [(1, 5)] } };
      ((∃ x ∈ s.sec.dbgAt, s.now < x.2 + 100000000))) := by
  refine ⟨?_, ?_, ?_, ?_, ?_, ?_, ?_, ?_, ?_, ?_, ?_, ?_, ?_, ?_, ?_⟩ <;> decide +kernel

theorem test_meets_Cables :
    (let s : State := on;
      let p : Nat := 15;
      (p < 16) ∧ (s.sb0Bad p = false)) ∧
    (let p : Nat := 15;
      (p < 16) ∧
      let k : Link := Link.reset;
      (k.st = .off)) ∧
    (let s : State := on;
      let p : Nat := 15;
      (p < 16) ∧ (s.sb0Bad p = false)) ∧
    (let s : State := on.updLink 60 (fun k => { k with sbBad := [0] });
      let p : Nat := 15;
      (p < 16) ∧ (s.sb0Bad p = true)) ∧
    (let s : State := on.updLink 60 (fun k => { k with sbBad := [3] });
      let p : Nat := 15;
      (p < 16) ∧
      let pin := 3;
      (pin < 4) ∧ (s.crustUp = true) ∧ ((s.link (4 * p)).sbBad.contains pin = true)) ∧
    (let s : State := on.updLink 60 (fun k => { k with sbBad := [] });
      let p : Nat := 15;
      (p < 16) ∧
      let pin := 3;
      (pin < 4) ∧ (s.crustUp = true) ∧ ((s.link (4 * p)).sbBad.contains pin = false)) := by
  refine ⟨?_, ?_, ?_, ?_, ?_, ?_⟩ <;> decide +kernel

theorem test_meets_Smbus :
    (let s : State := on;
      (s.crustUp = true) ∧
      let code := 3;
      let bs : List Byte := toLE 2 (unsigned 16 (hottest (s.pwr.coreT ++ s.pwr.dieT)).2);
      ((code, bs) ∈ [(1, toLE 4 s.crustStatus), (2, toLE 8 s.host.summary), (3, toLE 2 (unsigned 16 (hottest (s.pwr.coreT ++ s.pwr.dieT)).2)), (4, toLE 4 s.host.hbCount), (6, toLE 16 s.sec.fuses.serial)])) ∧
    (let s : State := on;
      (s.crustUp = true) ∧
      let code := 7;
      (code = 0 ∨ 6 < code)) ∧
    (let s : State := (let s := on; { s with pwr := { s.pwr with therm := true } });
      (s.crustUp = true) ∧ (s.smbAlert = true)) ∧
    (let s : State := on;
      (s.crustUp = true) ∧ (s.smbAlert = false)) := by
  refine ⟨?_, ?_, ?_, ?_⟩ <;> decide +kernel

theorem test_meets_StepKeepsShapeAndQueue_and_identity :
    (let s : State := { State.reset with pending := [.pwrGoodRise 7 7, .heartbeat] };
      s.shape = true) ∧
    (∃ t, step { State.reset with pending := [.pwrGoodRise 7 7, .heartbeat] } = .next t) := by
  refine ⟨by decide +kernel, _, rfl⟩

theorem test_meets_ParityErrorStopsBeforeIssue :
    (let s : State := on.updBlock 143 (fun b => { b with st := .running, imA := [⟨1, 0⟩], run := ⟨64, 64, 64, 0, false⟩ });
      let n : Nat := 143;
      let q : Seq := .a;
      (n < 144) ∧ (s.canIssue n = true) ∧ ((s.block n).ended q = false) ∧ (((s.block n).seqr q).word = none) ∧ (((s.block n).iword q ((s.block n).seqr q).pc).ok = false) ∧
      let m := 142;
      (m ≠ n)) ∧
    (let s : State := word .a 0;
      let n : Nat := 0;
      let q : Seq := .a;
      (((s.block n).seqr q).word ≠ none) ∧ (n < 144)) := by
  refine ⟨?_, ?_⟩ <;> decide +kernel

theorem test_meets_CtxMarkWritesItsMarker :
    (let s : State := word .f (5 * 2 ^ 56 + 0xBEEF * 2 ^ 33);
      let n : Nat := 0;
      let c : Ctx := .f;
      let w : Nat := (5 * 2 ^ 56 + 0xBEEF * 2 ^ 33);
      (s.ready n (seqOf c) w) ∧ (opOf (seqOf c) w = .ctxMark)) ∧
    (let s : State := cmd 0x0406 (toLE 2 143 ++ toLE 2 0);
      let m : Nat := 3;
      let c : Cmd := cmdOf 0x0406 (toLE 2 143 ++ toLE 2 0);
      (s.waitsRow m 0x0406 c) ∧ (fld c.pars 0 2 < 144) ∧ (s.darkBlock (fld c.pars 0 2) = false)) := by
  refine ⟨?_, ?_⟩ <;> decide +kernel

theorem test_meets_EventLogLimits :
    (let s : State := { on with host := { on.host with head := 5, tail := 1020 } };
      let v : Nat := 5;
      (s.crustUp = true) ∧ ((v % 1024 + 1024 - s.host.tail) % 1024 ≤ (s.host.head + 1024 - s.host.tail) % 1024)) ∧
    (let s : State := { on with host := { on.host with head := 5, tail := 1020 } };
      let v : Nat := 6;
      (s.crustUp = true) ∧ ((s.host.head + 1024 - s.host.tail) % 1024 < (v % 1024 + 1024 - s.host.tail) % 1024)) ∧
    (let s : State := { on with host := { on.host with head := 1023 } };
      ((s.host.head + 1) % 1024 = s.host.tail)) := by
  refine ⟨?_, ?_, ?_⟩ <;> decide +kernel

theorem test_meets_HostSilence :
    (let s : State := on;
      (s.pending = []) ∧ (s.crustUp = true) ∧ (s.host.hbPart + 1 < 50000)) ∧
    (let s : State := { on with host := { on.host with hbPart := 49999 } };
      (s.pending = []) ∧ (s.crustUp = true) ∧ (50000 ≤ s.host.hbPart + 1)) ∧
    (let s : State := { on with host := { on.host with silent := 5, hbAge := 6, silentDone := false } };
      (s.thallusUp = true) ∧ (s.host.silent ≠ 0) ∧ (s.host.silent < s.host.hbAge) ∧ (s.host.silentDone = false) ∧ (s.boot.restart = false) ∧ (s.boot.halted = false)) ∧
    (let s : State := { on with host := { on.host with silent := 5, hbAge := 5, silentDone := false } };
      ((s.host.silent = 0 ∨ s.host.hbAge ≤ s.host.silent ∨ s.host.silentDone = true))) ∧
    (let e : Ev := ⟨0x0603, 6, 0, 0, 0, 0⟩;
      (e.code = 0x0603)) := by
  refine ⟨?_, ?_, ?_, ?_, ?_⟩ <;> decide +kernel

theorem test_meets_StepKeepsFusedIdentity :
    ∃ t, step { State.reset with pending := [.pwrGoodRise 7 7, .heartbeat] } = .next t := ⟨_, rfl⟩

/-- The lists that statements range over have members. -/
theorem test_ranged_lists_are_not_empty :
    (⟨7, parityOf 7⟩ : IWord) ∈ imageWords (toLE 8 7) 0 1 ∧ (on.lcWipe).blocks.length = 144 ∧ (on.lcWipe).regions.length = 4 ∧
    (on.coreReset 0).blocks.length = 144 ∧ (on.coreReset 0).regions.length = 4 := by
  refine ⟨?_, ?_, ?_, ?_, ?_⟩ <;> decide +kernel

theorem test_meets_TimeCommands_policy :
    (let s : State := (acu [{ coll0 with dl := some 3 }] [] (cmd 0x0702 (toLE 1 6 ++ toLE 3 0) (fun s =>
        { s with host := { s.host with runs := { cmdOf 0x0100 [] with m := 2, dl := 9 } :: s.host.runs } })));
      s.waitsRow 3 0x0702 (cmdOf 0x0702 (toLE 1 6 ++ toLE 3 0)) ∧
      bit s.time.policy 0 = true ∧ bit (fld (toLE 1 6 ++ toLE 3 0) 0 1 % 16) 0 = false ∧
      bit s.time.policy 3 = true ∧ bit (fld (toLE 1 6 ++ toLE 3 0) 0 1 % 16) 3 = false) := by
  decide +kernel

end Sys2Proof.Tests
end

section
/-! PROOFS. Little-endian fields: what a field of a byte string reads back of the numbers laid down in it. -/

namespace Sys2Proof.Machine

@[simp] theorem length_toLE (n w : Nat) : (toLE n w).length = n := by
  induction n generalizing w with
  | zero => rfl
  | succ n ih => simp [toLE, ih]

theorem ofLE_toLE (n w : Nat) : ofLE (toLE n w) = w % 256 ^ n := by
  induction n generalizing w with
  | zero => simp [toLE, ofLE, Nat.mod_one]
  | succ n ih => simp [toLE, ofLE, ih, Nat.pow_succ', Nat.mod_mul]

theorem drop_toLE (o n w : Nat) : (toLE n w).drop o = toLE (n - o) (w / 256 ^ o) := by
  induction o generalizing n w with
  | zero => simp
  | succ o ih =>
    cases n with
    | zero => simp [toLE]
    | succ n => simp [toLE, ih, Nat.div_div_eq_div_mul, Nat.pow_succ']

theorem take_toLE {k n : Nat} (w : Nat) (h : k ≤ n) : (toLE n w).take k = toLE k w := by
  induction k generalizing n w with
  | zero => rfl
  | succ k ih =>
    cases n with
    | zero => omega
    | succ n => simp [toLE, ih (w / 256) (by omega : k ≤ n)]

/-- A field inside the number that a byte string begins with. -/
theorem fld_toLE_append {o k n : Nat} (w : Nat) (rest : List Byte) (h : o + k ≤ n) :
    fld (toLE n w ++ rest) o k = w / 256 ^ o % 256 ^ k := by
  have hdrop : (toLE n w ++ rest).drop o = toLE (n - o) (w / 256 ^ o) ++ rest := by
    rw [List.drop_append_of_le_length (by rw [length_toLE]; omega), drop_toLE]
  rw [fld, hdrop, List.take_append_of_le_length (by rw [length_toLE]; omega), take_toLE _ (by omega), ofLE_toLE]

/-- A field behind the number that a byte string begins with. -/
theorem fld_toLE_append_skip (n w o k : Nat) (rest : List Byte) : fld (toLE n w ++ rest) (n + o) k = fld rest o k := by
  have hdrop : (toLE n w ++ rest).drop (n + o) = rest.drop o := by
    simpa using List.drop_length_add_append (l₁ := toLE n w) (l₂ := rest) o
  rw [fld, hdrop, fld]

end Sys2Proof.Machine
end

section
/-! PROOFS. The markers of a block's contexts (R168): no sequencer reads them, CTX.MARK writes one, PRG_STATUS returns both. -/

namespace Sys2Proof.Machine

/-- A block with its two markers set. -/
def Block.withMarks (b : Block) (f g : Nat) : Block := { b with markF := f, markB := g }

@[simp] theorem Block.withMarks_iword (b : Block) (f g : Nat) (q : Seq) (pc : Nat) :
    (b.withMarks f g).iword q pc = b.iword q pc := by cases q <;> rfl
@[simp] theorem Block.withMarks_rangeEnd (b : Block) (f g : Nat) (q : Seq) :
    (b.withMarks f g).rangeEnd q = b.rangeEnd q := by cases q <;> rfl
@[simp] theorem Block.withMarks_seqr (b : Block) (f g : Nat) (q : Seq) : (b.withMarks f g).seqr q = b.seqr q := by
  cases q <;> rfl
@[simp] theorem Block.withMarks_setSeqr (b : Block) (f g : Nat) (q : Seq) (r : Seqr) :
    (b.withMarks f g).setSeqr q r = (b.setSeqr q r).withMarks f g := by cases q <;> rfl

/-- The ENDLs that fold do so whatever the markers are. -/
theorem foldEndl_withMarks (n : Nat) (b : Block) (f g : Nat) (q : Seq) :
    foldEndl n (b.withMarks f g) q = (foldEndl n b q).withMarks f g := by
  induction n generalizing b with
  | zero => rfl
  | succ n ih =>
    simp only [foldEndl, Block.withMarks_seqr, Block.withMarks_rangeEnd, Block.withMarks_iword,
      Block.withMarks_setSeqr, ih]
    split
    case isTrue => rfl
    case isFalse =>
      split
      case h_1 => split_ifs <;> rfl
      case h_2 => rfl

theorem Block.adv_withMarks (b : Block) (f g : Nat) (q : Seq) : (b.withMarks f g).adv q = (b.adv q).withMarks f g := by
  simp only [Block.adv, Block.withMarks_seqr, Block.withMarks_setSeqr, foldEndl_withMarks]

/-- CTX.MARK issues with its immediate in the marker of its own context. -/
theorem Block.issueMark_eq (b : Block) (c : Ctx) (w : Nat) :
    b.issueMark (seqOf c) w = .go ((b.adv (seqOf c)).withMarks
      (if c = .f then bits w 33 16 else b.markF) (if c = .b then bits w 33 16 else b.markB)) := by
  rw [← Block.adv_withMarks]
  cases c <;> rfl

theorem exec_ctxMark {s : State} {n : Nat} {c : Ctx} {w : Nat} (hr : s.ready n (seqOf c) w)
    (ho : opOf (seqOf c) w = .ctxMark) :
    exec (.ctxMark n c) s = .next (s.issued n (((s.block n).adv (seqOf c)).withMarks
      (if c = .f then bits w 33 16 else (s.block n).markF) (if c = .b then bits w 33 16 else (s.block n).markB))) := by
  have hissue := State.issue_go (isW := fun w => opOf (seqOf c) w == .ctxMark)
    (f := fun k w => k.issueMark (seqOf c) w) hr (by simp [ho]) ((s.block n).issueMark_eq c w)
  obtain ⟨hn, _⟩ := hr
  calc exec (.ctxMark n c) s = execCtxMark n c s := rfl
    _ = _ := by simp only [execCtxMark, onUnit, hn, decide_true, if_true, hissue]

/-- The row of a command that waits for it runs, on the state where the command has begun. -/
theorem State.cmdRow_of_waitsRow {s : State} {m op : Nat} {c : Cmd} (h : s.waitsRow m op c) (f : State → Cmd → State) :
    s.cmdRow m op f = f (s.began m) c := by
  obtain ⟨_, hcmd, _, hop, hbegun, hans, hup⟩ := h
  simp [State.cmdRow, State.cmdRowIf, State.began, hcmd, hop, hbegun, hans, hup]

@[simp] theorem State.began_block (s : State) (m n : Nat) : (s.began m).block n = s.block n := rfl
@[simp] theorem State.began_darkBlock (s : State) (m n : Nat) : (s.began m).darkBlock n = s.darkBlock n := rfl

/-- What PRG_STATUS returns of a block (R417): its status, its markers, its queues and its tokens. -/
def Block.statusResult (b : Block) : List Byte :=
  toLE 8 b.statusWord ++ (toLE 4 b.markWord ++ (toLE 4 0 ++ (b.qs.flatMap (fun q => toLE 8 q.statWord) ++
    b.toks.flatMap (toLE 2))))

theorem State.prgStatus_ok {s : State} {c : Cmd} (hn : fld c.pars 0 2 < 144) (hd : s.darkBlock (fld c.pars 0 2) = false) :
    s.prgStatus c = s.ok c.m (s.block (fld c.pars 0 2)).statusResult := by
  have hrange : ¬ fld c.pars 0 2 ≥ numBlocks := Nat.not_le.2 hn
  simp only [State.prgStatus, hrange, hd, if_false, Bool.false_eq_true, Block.statusResult, List.append_assoc]

theorem exec_prgStatus {s : State} {m : Nat} {c : Cmd} (h : s.waitsRow m 0x0406 c) (hn : fld c.pars 0 2 < 144)
    (hd : s.darkBlock (fld c.pars 0 2) = false) :
    exec (.prgStatus m) s = .next ((s.began m).ok m (s.block (fld c.pars 0 2)).statusResult) := by
  have hrow := State.cmdRow_of_waitsRow h State.prgStatus
  obtain ⟨hm, _, hcm, _⟩ := h
  calc exec (.prgStatus m) s = onUnit (m < 16) (s.cmdRow m 0x0406 State.prgStatus) := rfl
    _ = .next ((s.began m).prgStatus c) := by simp only [onUnit, hm, decide_true, if_true, hrow]
    _ = _ := by rw [State.prgStatus_ok hn (by simpa using hd), hcm, State.began_block]

/-- The low half of CTX_MARK is context F's marker (Table 7-5). -/
theorem Block.fld_statusResult_markF (b : Block) : fld b.statusResult 8 2 = b.markF % 65536 := by
  rw [Block.statusResult, fld_toLE_append_skip 8 _ 0, fld_toLE_append _ _ (by decide), Block.markWord]
  omega

/-- The high half of CTX_MARK is context B's marker (Table 7-5). -/
theorem Block.fld_statusResult_markB (b : Block) : fld b.statusResult 10 2 = b.markB % 65536 := by
  rw [Block.statusResult, fld_toLE_append_skip 8 _ 2, fld_toLE_append _ _ (by decide), Block.markWord]
  omega

/-- Settles O10: no sequencer reads a marker, so the block moves past CTX.MARK as it would with its old markers; and the
result of PRG_STATUS holds both in the word behind BLK_STATUS. -/
theorem ctxMarkWritesItsMarker : Obligations.CtxMarkWritesItsMarker := by
  unfold Obligations.CtxMarkWritesItsMarker
  constructor
  · intro s n c w hready hop
    exact ⟨_, exec_ctxMark hready hop, rfl, rfl, rfl⟩
  · intro s m c hwaits hn hd
    exact ⟨_, exec_prgStatus hwaits hn hd, Block.fld_statusResult_markF _, Block.fld_statusResult_markB _⟩

end Sys2Proof.Machine
end

section
/-! PROOFS. A parity mismatch at decode (R199, R502): what the fault leaves in the block, and the INFO of its record, whose HANDLE
is 0xFF where the fault names none (Table 18-7). -/

namespace Sys2Proof.Machine

@[simp] theorem State.emits_blocks (s : State) (level unit : Nat) (es : List (Nat × Nat × Nat)) :
    (s.emits level unit es).blocks = s.blocks := by
  induction es generalizing s with
  | nil => rfl
  | cons e es ih => exact (ih _).trans (s.emit_blocks e.1 level unit e.2.1 e.2.2)

@[simp] theorem State.putBlock_blocks (s : State) (n : Nat) (b : Block) :
    (s.putBlock n b).blocks = s.blocks.set n { b with evs := [] } := State.emits_blocks ..

@[simp] theorem State.emit_block (s : State) (code level unit info detail n : Nat) :
    (s.emit code level unit info detail).block n = s.block n := by simp [State.block]

theorem State.block_putBlock_self {s : State} {n : Nat} (b : Block) (h : n < s.blocks.length) :
    (s.putBlock n b).block n = { b with evs := [] } := by simp [State.block, h]

theorem State.block_putBlock_other {s : State} {n m : Nat} (b : Block) (h : m ≠ n) :
    (s.putBlock n b).block m = s.block m := by simp [State.block, h.symm]

theorem State.blockFault_running {s : State} {n : Nat} (src pc : Nat) (e : ErrI) (h : (s.block n).st = .running) :
    s.blockFault n src pc e = (s.putBlock n { (s.block n).fence e.code with
      lastFault := some (e.code, faultInfo e, faultDetail e src pc)
      rowMiss := if e.code = 0x15 then e.aux else (s.block n).rowMiss }).emit e.code lvBlock n
        (faultInfo e) (faultDetail e src pc) := by
  simp only [State.blockFault, State.stopFault, h, if_true, reduceCtorEq, if_false]
  rfl

theorem State.canIssue_running {s : State} {n : Nat} (h : s.canIssue n = true) : (s.block n).st = .running := by
  simp only [State.canIssue, Bool.and_eq_true, beq_iff_eq] at h
  obtain ⟨⟨_, hrun⟩, _⟩ := h
  exact hrun

/-- Parity is the first of the checks at decode. -/
theorem decodeFault_of_parityError {iw : IWord} (vec : Bool) (b : Block) (q : Seq) (h : iw.ok = false) :
    decodeFault vec b q iw = some (ErrI.of 2) := by simp [decodeFault, h]

/-- A sequence of a block that may issue comes to a word whose parity does not match. -/
def State.atParityError (s : State) (n : Nat) (q : Seq) : Prop :=
  n < 144 ∧ s.canIssue n = true ∧ (s.block n).ended q = false ∧ ((s.block n).seqr q).word = none ∧
    ((s.block n).iword q ((s.block n).seqr q).pc).ok = false

theorem exec_instructionDecode_parityError {s : State} {n : Nat} {q : Seq} (h : s.atParityError n q) :
    exec (.instructionDecode n q) s = .next (s.blockFault n (srcOf q) ((s.block n).seqr q).pc (ErrI.of 2)) := by
  obtain ⟨hn, hissue, hended, hword, hpar⟩ := h
  calc exec (.instructionDecode n q) s = onUnit (n < 144) (s.decode n q) := rfl
    _ = .next (s.decode n q) := by simp only [onUnit, hn, decide_true, if_true]
    _ = _ := by simp [State.decode, hissue, hended, hword, decodeFault_of_parityError _ _ _ hpar]

/-- R199 as the model has it: the block is fenced with code 2, its record names no handle and no argument but stream and program
counter, and every other block stays as it was. -/
theorem State.atParityError.decode_fences {s : State} {n : Nat} {q : Seq} (h : s.atParityError n q) :
    ∃ t : State, exec (.instructionDecode n q) s = .next t ∧
      t.block n = { (s.block n).fence 2 with
        lastFault := some (2, 0xFF * 2 ^ 48, faultDetail (ErrI.of 2) (srcOf q) ((s.block n).seqr q).pc), evs := [] } ∧
      ∀ m, m ≠ n → t.block m = s.block m := by
  have hexec := exec_instructionDecode_parityError h
  obtain ⟨_, hissue, _⟩ := h
  rw [State.blockFault_running _ _ _ (State.canIssue_running hissue)] at hexec
  refine ⟨_, hexec, ?_, fun m hm => ?_⟩
  · rw [State.emit_block, State.block_putBlock_self _ (State.canIssue_range hissue)]
    rfl
  · rw [State.emit_block, State.block_putBlock_other _ hm]

/-- A started part with its regions RUN, and block 0 RUNNING a one-word A-stream whose word 1 stands with even parity bits. -/
def parityErrorState : State :=
  let s := State.reset
  { s with
    pwr := { s.pwr with crust := true }
    regions := s.regions.map (fun g => { g with st := .run })
    blocks := s.blocks.set 0 { Block.reset with st := .running, imA := [⟨1, 0⟩], run := ⟨1, 0, 0, 0, false⟩ } }

theorem parityErrorState_atParityError : parityErrorState.atParityError 0 .a := by
  unfold State.atParityError
  decide

/-- Refutes O9: the record of IMEM_PARITY names no descriptor, queue or token, so the HANDLE of its INFO is 0xFF (Table 18-7) and
INFO is not the 0 that the statement asks for; `parityErrorState` comes to such a record. -/
theorem not_parityErrorStopsBeforeIssue : ¬ Obligations.ParityErrorStopsBeforeIssue := by
  unfold Obligations.ParityErrorStopsBeforeIssue
  intro ⟨hstops, _⟩
  have hat := parityErrorState_atParityError
  obtain ⟨t, hexec, hblock, _⟩ := hat.decode_fences
  obtain ⟨hn, hissue, hended, hword, hpar⟩ := hat
  obtain ⟨t', hexec', _, _, ⟨d, hlast, _⟩, _⟩ := hstops _ _ _ hn hissue hended hword hpar
  obtain rfl : t = t' := by simpa [hexec] using hexec'
  simp [hblock] at hlast

end Sys2Proof.Machine
end

section
/-! PROOFS. The state after a package reset (R343, R362, R371, R449): the value of each unit of the part, and the canonical form
of each store. -/

namespace Sys2Proof.Machine

theorem State.reset_block {n : Nat} (h : n < 144) : State.reset.block n = Block.reset := List.getD_replicate _ h
theorem State.reset_region {r : Nat} (h : r < 4) : State.reset.region r = Region.reset := List.getD_replicate _ h
theorem State.reset_stack {n : Nat} (h : n < 12) : State.reset.stack n = Stack.reset := List.getD_replicate _ h
theorem State.reset_link {l : Nat} (h : l < 64) : State.reset.link l = Link.reset := List.getD_replicate _ h

theorem State.reset_shape : State.reset.shape = true := by
  simp [State.shape, State.reset, FabS.reset, numBlocks, numStacks, numLinks]

theorem State.storesWf_iff (s : State) : s.storesWf = true ↔
    (∀ b ∈ s.blocks, b.storesWf = true) ∧ (∀ r ∈ s.regions, r.store.wf = true) ∧ (∀ k ∈ s.stks, k.mem.wf = true) ∧
    s.host.mbx.wf = true ∧ s.host.ring.wf = true ∧ s.host.msixT.wf = true ∧ (∀ f ∈ s.sec.flash, f.mem.wf = true) ∧
    (∀ c ∈ s.fab.cast, c.image.wf = true) := by
  simp only [State.storesWf, Bool.and_eq_true, List.all_eq_true, Option.all_eq_true, Option.mem_def, and_assoc]

theorem Block.reset_storesWf : Block.reset.storesWf = true := by
  simp only [Block.storesWf, Bool.and_eq_true]
  exact ⟨⟨⟨Mem.empty_wf, Mem.empty_wf⟩, Mem.empty_wf⟩, Mem.empty_wf⟩

/-- The mask bits, one a vector, stand by rising vector number. -/
theorem msixReset_wf : msixReset.wf = true := by
  have hrising : rising msixReset.cells = true := by
    rw [rising_iff, msixReset, List.pairwise_map]
    exact List.pairwise_lt_range.imp (fun hij => by omega)
  have hset : msixReset.cells.all (fun c => c.2 != 0) = true := by simp [msixReset]
  exact (Mem.wf_iff _).2 ⟨hrising, hset, rfl, rfl⟩

/-- Every store is empty at reset but the MSI-X table, which has its mask bits set. -/
theorem State.reset_storesWf : State.reset.storesWf = true := by
  rw [State.storesWf_iff]
  refine ⟨?blocks, ?regions, ?stks, Mem.empty_wf, Mem.empty_wf, msixReset_wf, ?flash, ?cast⟩
  case blocks => exact List.forall_mem_replicate.2 (.inr Block.reset_storesWf)
  case regions => exact List.forall_mem_replicate.2 (.inr Mem.empty_wf)
  case stks => exact List.forall_mem_replicate.2 (.inr Mem.empty_wf)
  case flash => simp [State.reset, SecS.reset]
  case cast => simp [State.reset, FabS.reset]

theorem State.reset_values : claimResetValues := by
  refine ⟨State.reset_shape, rfl, fun n hn => ?blocks, fun r hr => ?regions, fun n hn => ?stks,
    rfl, rfl, rfl, rfl, rfl, rfl, rfl, rfl, rfl, rfl, rfl, rfl, fun l hl => ?links, rfl⟩
  case blocks => rw [State.reset_block hn]; exact ⟨rfl, rfl, rfl⟩
  case regions => rw [State.reset_region hr]; rfl
  case stks => rw [State.reset_stack hn]; rfl
  case links => rw [State.reset_link hl]

/-- Settles O3: each unit of the part reads as its own reset value, the registers hold theirs by definition, and the stores are
empty but for the MSI-X table's mask bits. -/
theorem resetValues : Obligations.ResetValues := by
  unfold Obligations.ResetValues
  exact ⟨State.reset_values, State.reset_storesWf⟩

end Sys2Proof.Machine
end

section
/-! PROOFS. The event log at its limits (R377, R390): what a write of EVT_TAIL does, and what entering an event does to Crust's
registers. -/

namespace Sys2Proof.Machine

theorem State.tailWrite_forward {s : State} {v : Nat} (hup : s.crustUp = true)
    (h : (v % 1024 + 1024 - s.host.tail) % 1024 ≤ (s.host.head + 1024 - s.host.tail) % 1024) :
    s.tailWrite v = { s with host := { s.host with tail := v % 1024 } } := by
  simp [State.tailWrite, hup, h]

theorem State.tailWrite_beyond {s : State} {v : Nat} (hup : s.crustUp = true)
    (h : (s.host.head + 1024 - s.host.tail) % 1024 < (v % 1024 + 1024 - s.host.tail) % 1024) :
    s.tailWrite v = s.lateWrite := by
  simp [State.tailWrite, hup, Nat.not_le.2 h]

theorem exec_evtTailWrite (s : State) (v : Nat) : exec (.evtTailWrite v) s = .next (s.tailWrite v) := rfl

/-- A message changes no register of Crust but the pending bits. -/
theorem State.msix_host_frame (s : State) (v : Nat) :
    (s.msix v).host = { s.host with pba := (s.msix v).host.pba } := by
  unfold State.msix
  split <;> rfl

/-- Vector 16 changes no register of Crust but the pending bits and the gap. -/
theorem State.recordIrq_host_frame (s : State) (cls : Nat) :
    (s.recordIrq cls).host = { s.host with
      pba := (s.recordIrq cls).host.pba, gapDue := (s.recordIrq cls).host.gapDue
      gapEnd := (s.recordIrq cls).host.gapEnd } := by
  have hmsix := s.msix_host_frame 16
  unfold State.recordIrq
  split
  case isTrue => rw [hmsix]
  case isFalse =>
    split
    case h_1 => rfl
    case h_2 =>
      dsimp only
      split <;> rw [hmsix]

theorem State.summarise_host (s : State) (bits : Nat) (always : Bool) :
    (s.summarise bits always).host = { s.host with
      summary := s.host.summary ||| bits, sumNow := s.host.sumNow ||| bits
      pba := (s.summarise bits always).host.pba } := by
  unfold State.summarise
  dsimp only
  split
  case isTrue => rw [State.msix_host_frame]
  case isFalse => rfl

/-- Has the log no room for a record (R390)? -/
def HostS.logFull (h : HostS) : Bool := (h.head + 1) % 1024 == h.tail

/-- The log's part of Crust's registers when an event comes: its record at the head, or a count where the log is full. -/
def HostS.logged (h : HostS) (e : Ev) : HostS :=
  if h.logFull then { h with evseq := h.evseq + 1, ovf := min cntMax (h.ovf + 1) }
  else { h with
    evseq := h.evseq + 1, ring := h.ring.put (64 * h.head) (toLE 64 (eventRec e (h.evseq + 1)))
    head := (h.head + 1) % 1024 }

/-- The bits of FAULT_SUMMARY that an event sets, LOG_OVF among them where the log is full (R377, R390). -/
def HostS.summaryBits (h : HostS) (e : Ev) : Nat := summaryOf e + if h.logFull then 256 else 0

theorem HostS.logFull_iff (h : HostS) : h.logFull = true ↔ (h.head + 1) % 1024 = h.tail := beq_iff_eq

theorem HostS.logged_of_logFull {h : HostS} (e : Ev) (hfull : h.logFull = true) :
    h.logged e = { h with evseq := h.evseq + 1, ovf := min cntMax (h.ovf + 1) } := if_pos hfull

theorem HostS.summaryBits_of_logFull {h : HostS} (e : Ev) (hfull : h.logFull = true) :
    h.summaryBits e = summaryOf e + 256 := by rw [HostS.summaryBits, if_pos hfull]

@[simp] theorem HostS.logged_evseq (h : HostS) (e : Ev) : (h.logged e).evseq = h.evseq + 1 := by
  unfold HostS.logged
  split <;> rfl

@[simp] theorem HostS.logged_summary (h : HostS) (e : Ev) : (h.logged e).summary = h.summary := by
  unfold HostS.logged
  split <;> rfl

/-- The event logged, and its record kept as its unit's latest where its class asks for it (R430). -/
def State.recorded (s : State) (e : Ev) : State :=
  let t := { s with host := s.host.logged e }
  if 2 ≤ classOf e.code e.level then
    { t with latest := t.latest.filter (fun x => !(x.1 == e.level && x.2.1 == e.unit)) ++
        [(e.level, e.unit, e, s.host.evseq + 1)] }
  else t

/-- A record entered raises vector 16 (R391). -/
def State.signalled (s : State) (e : Ev) : State :=
  if s.host.logFull then s.recorded e else (s.recorded e).recordIrq (classOf e.code e.level)

theorem State.recorded_host (s : State) (e : Ev) : (s.recorded e).host = s.host.logged e := by
  unfold State.recorded
  dsimp only
  split <;> rfl

theorem State.signalled_host_frame (s : State) (e : Ev) :
    (s.signalled e).host = { s.host.logged e with
      pba := (s.signalled e).host.pba, gapDue := (s.signalled e).host.gapDue, gapEnd := (s.signalled e).host.gapEnd } := by
  unfold State.signalled
  split
  case isTrue => rw [State.recorded_host]
  case isFalse => rw [State.recordIrq_host_frame, State.recorded_host]

/-- The slice stop that an event may start is none of Crust's registers. -/
theorem State.logEvent_host_eq_summarise (s : State) (e : Ev) :
    (s.logEvent e).host =
      ((s.signalled e).summarise (s.host.summaryBits e) (e.code == 0x1F || e.code == 0x0401)).host := by
  unfold State.logEvent
  dsimp only
  split <;> rfl

/-- Entering an event logs it and sets its bits; beside these only the interrupt state of Crust's registers changes. -/
theorem State.logEvent_host (s : State) (e : Ev) :
    (s.logEvent e).host = { s.host.logged e with
      summary := s.host.summary ||| s.host.summaryBits e, sumNow := (s.logEvent e).host.sumNow
      pba := (s.logEvent e).host.pba, gapDue := (s.logEvent e).host.gapDue, gapEnd := (s.logEvent e).host.gapEnd } := by
  rw [State.logEvent_host_eq_summarise, State.summarise_host, State.signalled_host_frame, HostS.logged_summary]

theorem bit_eq_testBit (w i : Nat) : bit w i = w.testBit i := by
  rw [bit, Nat.testBit_eq_decide_div_mod_eq, Nat.shiftRight_eq_div_pow]
  rfl

/-- No event's own bits hold LOG_OVF, bit 8 (Table 14-4). -/
theorem summaryOf_logOvf_clear (e : Ev) : summaryOf e / 256 % 2 = 0 := by
  simp only [summaryOf]
  split_ifs <;> rfl

theorem testBit_summaryOf_add_logOvf (e : Ev) : (summaryOf e + 256).testBit 8 = true := by
  have hclear := summaryOf_logOvf_clear e
  rw [Nat.testBit_eq_decide_div_mod_eq, decide_eq_true_eq]
  omega

/-- Settles O44: a tail write splits on the range; an event at a full log leaves ring and head, and the bits it sets are its own
with LOG_OVF, which no event has among its own. -/
theorem eventLogLimits : Obligations.EventLogLimits := by
  unfold Obligations.EventLogLimits
  refine ⟨fun s v hup => ⟨fun h => ?forward, fun h => ?beyond⟩, fun s e hfull => ?full, fun s e => ?evseq⟩
  case forward => rw [exec_evtTailWrite, State.tailWrite_forward hup h]
  case beyond => rw [exec_evtTailWrite, State.tailWrite_beyond hup h, State.lateWrite]
  case full =>
    have hfull := s.host.logFull_iff.2 hfull
    rw [s.logEvent_host e, HostS.logged_of_logFull e hfull, HostS.summaryBits_of_logFull e hfull]
    exact ⟨rfl, rfl, rfl, by simp [bit_eq_testBit, testBit_summaryOf_add_logOvf], rfl⟩
  case evseq => rw [s.logEvent_host e, HostS.logged_evseq]

end Sys2Proof.Machine
end

section
/-! PROOFS. Host silence (R395): how HEARTBEAT_AGE counts, and what HOST_SILENT is and sets. -/

namespace Sys2Proof.Machine

theorem exec_hostHbWrite (s : State) (v : Nat) : exec (.hostHbWrite v) s = .next (s.hbWrite v) := rfl
theorem exec_hostSilent (s : State) : exec .hostSilent s = .next s.hostSilent := rfl

theorem step_of_pending_nil {s : State} (h : s.pending = []) : step s = .next s.tick := by simp [step, h]

theorem State.hbWrite_of_crustUp {s : State} (v : Nat) (hup : s.crustUp = true) :
    s.hbWrite v = { s with host := { s.host with
      hostHb := v % 2 ^ 32, hbAge := 0, hbPart := 0, silentDone := false } } := if_pos hup

/-- HEARTBEAT_AGE and the cycles towards its next millisecond. -/
def State.hbClock (s : State) : Nat × Nat := (s.host.hbAge, s.host.hbPart)

theorem State.hbClock_of_host_eq {s t : State} (h : t.host = s.host) : t.hbClock = s.hbClock := by
  rw [State.hbClock, h, State.hbClock]

theorem State.foldl_hbClock {α : Type} {f : State → α → State} (hf : ∀ t a, (f t a).hbClock = t.hbClock)
    (l : List α) (s : State) : (l.foldl f s).hbClock = s.hbClock := by
  induction l generalizing s with
  | nil => rfl
  | cons a l ih => exact (ih _).trans (hf s a)

/-- An event that Crust counts while Thallus restarts leaves the heartbeat's age alone. -/
theorem State.emit_hbClock (s : State) (code level unit info detail : Nat) :
    (s.emit code level unit info detail).hbClock = s.hbClock := by
  unfold State.emit
  dsimp only
  split
  · split <;> rfl
  · rfl

theorem State.putStack_hbClock (s : State) (n : Nat) (k : Stack) : (s.putStack n k).hbClock = s.hbClock :=
  State.foldl_hbClock (fun t _ => t.emit_hbClock _ _ _ _ _) _ _

theorem State.askPin_host (s : State) (layer : Nat) : (s.askPin layer).2.host = s.host := by
  unfold State.askPin
  split
  case h_1 => rfl
  case h_2 =>
    split
    case h_1 => rfl
    case h_2 => split_ifs <;> rfl

theorem State.settle_hbClock (s : State) (n : Nat) : (s.settle n).hbClock = s.hbClock := by
  refine State.foldl_hbClock (fun t x => State.hbClock_of_host_eq ?_) _ _
  have hask := t.askPin_host x.2.2.layer
  split
  case h_1 => rfl
  case h_2 heq => rw [State.updBlock_host, ← hask, heq]

theorem State.putSue_hbClock (s : State) (n : Nat) (k : Stack) : (s.putSue n k).hbClock = s.hbClock :=
  ((s.putStack n k).settle_hbClock n).trans (s.putStack_hbClock n k)

theorem State.blockTick_hbClock (s : State) (c n : Nat) : (s.blockTick c n).hbClock = s.hbClock := by
  unfold State.blockTick
  dsimp only
  split_ifs <;> rfl

theorem State.stackTick_hbClock (s : State) (n : Nat) : (s.stackTick n).hbClock = s.hbClock := by
  unfold State.stackTick
  dsimp only
  split
  case isTrue => rfl
  case isFalse => exact s.putSue_hbClock n _

/-- Blocks and stacks count on their own; of a cycle only Crust's own tick moves the heartbeat's age. -/
theorem State.tick_hbClock {s : State} (hup : s.crustUp = true) :
    s.tick.hbClock = (s.host.ageTick.hbAge, s.host.ageTick.hbPart) := by
  simp only [State.tick, hup, Bool.not_true, Bool.false_eq_true, if_false]
  rw [State.foldl_hbClock State.stackTick_hbClock, State.foldl_hbClock fun t n => t.blockTick_hbClock _ n, State.hbClock]

theorem HostS.ageTick_within {h : HostS} (hlt : h.hbPart + 1 < 50000) :
    h.ageTick = { h with hbPart := h.hbPart + 1 } := if_neg (Nat.not_le.2 hlt)

theorem HostS.ageTick_at_end {h : HostS} (hge : 50000 ≤ h.hbPart + 1) :
    h.ageTick = { h with hbPart := 0, hbAge := min 0xFFFFFFFF (h.hbAge + 1) } := if_pos hge

theorem State.hostSilent_silent {s : State} (hup : s.thallusUp = true) (hon : s.host.silent ≠ 0)
    (hage : s.host.silent < s.host.hbAge) (hdone : s.host.silentDone = false) :
    s.hostSilent = ({ s with host := { s.host with silentDone := true } }).emit 0x0603 lvHost 0 s.host.hbAge 0 := by
  simp [State.hostSilent, hup, hon, hage, hdone]

theorem State.hostSilent_quiet {s : State}
    (h : s.host.silent = 0 ∨ s.host.hbAge ≤ s.host.silent ∨ s.host.silentDone = true) : s.hostSilent = s := by
  obtain h | h | h := h
  · simp [State.hostSilent, h]
  · simp [State.hostSilent, Nat.not_lt.2 h]
  · simp [State.hostSilent, h]

/-- HOST_SILENT is of class INFO (Table 18-9). -/
theorem classOf_hostSilent (level : Nat) : classOf 0x0603 level = 0 := rfl

/-- HOST_SILENT sets its own bit, bit 9, and no other (Table 14-4). -/
theorem summaryOf_hostSilent {e : Ev} (h : e.code = 0x0603) : summaryOf e = 512 := by
  simp [summaryOf, h, classOf_hostSilent]

theorem HostS.testBit_summaryBits_hostSilent (h : HostS) {e : Ev} (he : e.code = 0x0603) :
    (h.summaryBits e).testBit 9 = true := by
  rw [HostS.summaryBits, summaryOf_hostSilent he]
  split <;> decide

/-- Settles O45: no block or stack moves the age in a cycle, so it moves as Crust's tick says; above the threshold HOST_SILENT
goes to the end of the queue, and its own bit stands in FAULT_SUMMARY whether or not the log is full. -/
theorem hostSilence : Obligations.HostSilence := by
  unfold Obligations.HostSilence
  refine ⟨fun s v hup => ?write, fun s hpend hup => ⟨s.tick, step_of_pending_nil hpend, ?tick⟩,
    fun s hup hon hage hdone hrestart hhalted => ?silent, fun s hquiet => ?quiet, fun s e he => ?entered, rfl⟩
  case write => rw [exec_hostHbWrite, State.hbWrite_of_crustUp v hup]
  case tick =>
    obtain ⟨hage, hpart⟩ := Prod.mk.inj (State.tick_hbClock hup)
    rw [hage, hpart]
    constructor
    · intro hlt
      rw [HostS.ageTick_within hlt]
      exact ⟨rfl, rfl⟩
    · intro hge
      rw [HostS.ageTick_at_end hge]
      exact ⟨rfl, rfl⟩
  case silent =>
    rw [exec_hostSilent, State.hostSilent_silent hup hon hage hdone, State.emit_plain _ _ _ _ _ _ (by simp [hrestart, hhalted])]
    rfl
  case quiet => rw [exec_hostSilent, State.hostSilent_quiet hquiet]
  case entered =>
    rw [he, s.logEvent_host e]
    exact ⟨classOf_hostSilent _, by simp [bit_eq_testBit, s.host.testBit_summaryBits_hostSilent he]⟩

end Sys2Proof.Machine
end

section
/-! PROOFS. What no step changes: how many units of each kind the part has, the commands that wait, and the fused identity. -/

namespace Sys2Proof.Machine

/-- How many units of each kind a state holds, the commands that wait, and the fused identity. -/
structure Fixed where
  blocks  : Nat
  regions : Nat
  stks    : Nat
  links   : Nat
  endps   : Nat
  acus    : Nat
  box     : Nat
  pending : List Instr
  serial  : Nat
  secret  : Nat
  vmap    : Nat

def State.fixed (s : State) : Fixed :=
  ⟨s.blocks.length, s.regions.length, s.stks.length, s.fab.links.length, s.fab.endps.length, s.fab.acus.length,
    s.fab.box.length, s.pending, s.sec.fuses.serial, s.sec.fuses.secret, s.sec.fuses.vmap⟩

/-- The fixed part of a state given by its fields. -/
theorem State.fixed_mk (b : List Block) (r : List Region) (k : List Stack) (ti : TimeS) (ho : HostS) (pw : PwrS) (bo : BootS)
    (se : SecS) (fa : FabS) (ev : List Ev) (la : List (Nat × Nat × Ev × Nat)) (tm : List TokMsg) (no : List NocT)
    (nf : List (Nat × Nat × Nat)) (stt : List Nat) (sm : Option (List Byte)) (o : List Out) (fr : Nat) (pe : List Instr) :
    (State.mk b r k ti ho pw bo se fa ev la tm no nf stt sm o fr pe).fixed =
      ⟨b.length, r.length, k.length, fa.links.length, fa.endps.length, fa.acus.length, fa.box.length, pe,
        se.fuses.serial, se.fuses.secret, se.fuses.vmap⟩ := rfl

/-- Each count as a field of the fixed part, the form in which a function that keeps the fixed part rewrites it. -/
theorem State.fixed_fields (s : State) :
    s.blocks.length = s.fixed.blocks ∧ s.regions.length = s.fixed.regions ∧ s.stks.length = s.fixed.stks ∧
    s.fab.links.length = s.fixed.links ∧ s.fab.endps.length = s.fixed.endps ∧ s.fab.acus.length = s.fixed.acus ∧
    s.fab.box.length = s.fixed.box ∧ s.pending = s.fixed.pending ∧ s.sec.fuses.serial = s.fixed.serial ∧
    s.sec.fuses.secret = s.fixed.secret ∧ s.sec.fuses.vmap = s.fixed.vmap :=
  ⟨rfl, rfl, rfl, rfl, rfl, rfl, rfl, rfl, rfl, rfl, rfl⟩

@[simp] theorem Fixed.eta (f : Fixed) :
    Fixed.mk f.blocks f.regions f.stks f.links f.endps f.acus f.box f.pending f.serial f.secret f.vmap = f := rfl

theorem foldl_fixed {α : Type} {f : State → α → State} (hf : ∀ t a, (f t a).fixed = t.fixed) (l : List α) (s : State) :
    (l.foldl f s).fixed = s.fixed := by
  induction l generalizing s with
  | nil => rfl
  | cons a l ih => exact (ih _).trans (hf s a)

theorem foldl_fst_fixed {α β : Type} {f : State × β → α → State × β} (hf : ∀ p a, (f p a).1.fixed = p.1.fixed)
    (l : List α) (p : State × β) : (l.foldl f p).1.fixed = p.1.fixed := by
  induction l generalizing p with
  | nil => rfl
  | cons a l ih => exact (ih _).trans (hf p a)

theorem State.shape_iff (s : State) : s.shape = true ↔ s.fixed.blocks = 144 ∧ s.fixed.regions = 4 ∧ s.fixed.stks = 12 ∧
    s.fixed.links = 64 ∧ s.fixed.endps = 2 ∧ s.fixed.acus = 8 ∧ s.fixed.box = 8 := by
  simp only [State.shape, Bool.and_eq_true, beq_iff_eq, and_assoc]
  rfl

/-- What a command leaves of a state: the queue and the fused identity, and every unit of the part where it held them. -/
structure State.Keeps (s t : State) : Prop where
  shape   : s.shape = true → t.shape = true
  pending : t.pending = s.pending
  serial  : t.sec.fuses.serial = s.sec.fuses.serial
  secret  : t.sec.fuses.secret = s.sec.fuses.secret
  vmap    : t.sec.fuses.vmap = s.sec.fuses.vmap

theorem State.Keeps.of_fixed {s t : State} (h : t.fixed = s.fixed) : s.Keeps t where
  shape hs := by rwa [State.shape_iff, h, ← State.shape_iff]
  pending := congrArg Fixed.pending h
  serial := congrArg Fixed.serial h
  secret := congrArg Fixed.secret h
  vmap := congrArg Fixed.vmap h

theorem State.Keeps.trans {s t u : State} (h : s.Keeps t) (k : t.Keeps u) : s.Keeps u where
  shape hs := k.shape (h.shape hs)
  pending := k.pending.trans h.pending
  serial := k.serial.trans h.serial
  secret := k.secret.trans h.secret
  vmap := k.vmap.trans h.vmap

/-- A write of the whole box, one word an axis. -/
theorem State.Keeps.of_fixed_box {s t : State} (h : t.fixed = { s.fixed with box := 8 }) : s.Keeps t where
  shape hs := by
    have hs := s.shape_iff.1 hs
    rw [State.shape_iff, h]
    tauto
  pending := congrArg Fixed.pending h
  serial := congrArg Fixed.serial h
  secret := congrArg Fixed.secret h
  vmap := congrArg Fixed.vmap h

end Sys2Proof.Machine
end

section
/-! PROOFS. What each function of the model keeps: it answers a state with the same fixed part. In the order of the model. -/

namespace Sys2Proof.Machine

/-! Units, events, issue and faults. -/

@[simp] theorem State.updBlock_fixed (s : State) (n : Nat) (f : Block → Block) : (s.updBlock n f).fixed = s.fixed := by
  simp [State.updBlock, State.fixed_mk, State.fixed_fields]

@[simp] theorem State.updStack_fixed (s : State) (n : Nat) (f : Stack → Stack) : (s.updStack n f).fixed = s.fixed := by
  simp [State.updStack, State.fixed_mk, State.fixed_fields]

@[simp] theorem State.updRegion_fixed (s : State) (r : Nat) (f : Region → Region) : (s.updRegion r f).fixed = s.fixed := by
  simp [State.updRegion, State.fixed_mk, State.fixed_fields]

 

@[simp] theorem State.updEndp_fixed (s : State) (d : Nat) (f : Endp → Endp) : (s.updEndp d f).fixed = s.fixed := by
  simp [State.updEndp, State.fixed_mk, State.fixed_fields]

@[simp] theorem State.updAcu_fixed (s : State) (a : Nat) (f : Acu → Acu) : (s.updAcu a f).fixed = s.fixed := by
  simp [State.updAcu, State.fixed_mk, State.fixed_fields]

@[simp] theorem State.updLink_fixed (s : State) (l : Nat) (f : Link → Link) : (s.updLink l f).fixed = s.fixed := by
  simp [State.updLink, FabS.updLink, State.fixed_mk, State.fixed_fields]

@[simp] theorem State.draw_fixed (s : State) : s.draw.2.fixed = s.fixed := rfl

@[simp] theorem State.emit_fixed (s : State) (code level unit info detail : Nat) :
    (s.emit code level unit info detail).fixed = s.fixed := by
  simp [State.emit, State.fixed_mk, State.fixed_fields, apply_ite State.fixed]

@[simp] theorem State.emits_fixed (s : State) (level unit : Nat) (es : List (Nat × Nat × Nat)) :
    (s.emits level unit es).fixed = s.fixed := by
  simp [State.emits, foldl_fixed]

@[simp] theorem State.putBlock_fixed (s : State) (n : Nat) (b : Block) : (s.putBlock n b).fixed = s.fixed := by
  simp [State.putBlock, State.fixed_mk, State.fixed_fields]

@[simp] theorem State.putRegion_fixed (s : State) (n : Nat) (r : Region) : (s.putRegion n r).fixed = s.fixed := by
  simp [State.putRegion, State.fixed_mk, State.fixed_fields]

@[simp] theorem State.putStack_fixed (s : State) (n : Nat) (k : Stack) : (s.putStack n k).fixed = s.fixed := by
  simp [State.putStack, State.fixed_mk, State.fixed_fields]

@[simp] theorem State.wakeStack_fixed (s : State) (n : Nat) : (s.wakeStack n).fixed = s.fixed := by
  simp [State.wakeStack, apply_ite State.fixed]

@[simp] theorem State.checkDone_fixed (s : State) (n : Nat) : (s.checkDone n).fixed = s.fixed := by
  simp [State.checkDone, apply_ite State.fixed]

@[simp] theorem State.stopBlock_fixed (s : State) (n : Nat) : (s.stopBlock n).fixed = s.fixed := by
  simp [State.stopBlock, apply_ite State.fixed]

@[simp] theorem State.stopFault_fixed (s : State) (n src pc : Nat) (e : ErrI) : (s.stopFault n src pc e).fixed = s.fixed := by
  simp [State.stopFault, apply_ite State.fixed]

@[simp] theorem State.blockFault_fixed (s : State) (n src pc : Nat) (e : ErrI) : (s.blockFault n src pc e).fixed = s.fixed := by
  simp [State.blockFault, apply_ite State.fixed]

@[simp] theorem State.jobFault_fixed (s : State) (n : Nat) (j : Job) (e : ErrI) : (s.jobFault n j e).fixed = s.fixed := by
  simp [State.jobFault]

@[simp] theorem State.issue_fixed (s : State) (n : Nat) (q : Seq) (isW : Nat → Bool) (f : Block → Nat → Iss Block) :
    (s.issue n q isW f).fixed = s.fixed := by
  unfold State.issue
  dsimp only
  split
  · rfl
  · split
    · split <;> simp [apply_ite State.fixed]
    · rfl

/-! Messages and relays. -/

@[simp] theorem State.send_fixed (s : State) (node : Nat) (o : Orig) (ps : List Packet) :
    (s.send node o ps).fixed = s.fixed := by
  simp [State.send]

@[simp] theorem State.request_fixed (s : State) (node typ b job addr len : Nat) (ab : List Byte) (data : List Byte) :
    (s.request node typ b job addr len ab data).fixed = s.fixed := by
  simp [State.request]

@[simp] theorem State.freeSlot_fixed (s : State) (p : Packet) : (s.freeSlot p).fixed = s.fixed := by
  simp [State.freeSlot, apply_ite State.fixed]

@[simp] theorem State.freeSlots_fixed (s : State) (ps : List Packet) : (s.freeSlots ps).fixed = s.fixed := by
  simp [State.freeSlots, foldl_fixed]

@[simp] theorem State.relayHop_fixed (s : State) (typ rec a d left : Nat) : (s.relayHop typ rec a d left).fixed = s.fixed := by
  simp [State.relayHop, apply_ite State.fixed]

@[simp] theorem State.relayAxes_fixed (s : State) (typ rec : Nat) (axes : List Nat) :
    (s.relayAxes typ rec axes).fixed = s.fixed := by
  simp [State.relayAxes, foldl_fixed]

@[simp] theorem State.relayStart_fixed (s : State) (typ rec : Nat) : (s.relayStart typ rec).fixed = s.fixed := by
  simp [State.relayStart, apply_ite State.fixed]

@[simp] theorem State.relayOn_fixed (s : State) (p : Packet) (typ : Nat) : (s.relayOn p typ).fixed = s.fixed := by
  simp [State.relayOn]

@[simp] theorem State.miss_fixed (s : State) (level unit info rec : Nat) : (s.miss level unit info rec).fixed = s.fixed := by
  simp [State.miss, State.fixed_mk, State.fixed_fields]

/-! Accesses. -/

@[simp] theorem State.touchAt_fixed (s : State) (n cls sp stk a len : Nat) :
    (s.touchAt n cls sp stk a len).fixed = s.fixed := by
  unfold State.touchAt
  split <;> simp [foldl_fixed]

@[simp] theorem State.storeStack_fixed (s : State) (k off : Nat) (bs : List PByte) :
    (s.storeStack k off bs).fixed = s.fixed := by
  simp [State.storeStack]

@[simp] theorem State.writeAt_fixed (s : State) (n sp stk a : Nat) (bs : List PByte) :
    (s.writeAt n sp stk a bs).fixed = s.fixed := by
  unfold State.writeAt
  split <;> simp [foldl_fst_fixed]

@[simp] theorem State.wakeAt_fixed (s : State) (sp stk a len : Nat) : (s.wakeAt sp stk a len).fixed = s.fixed := by
  simp [State.wakeAt, foldl_fixed]

@[simp] theorem State.wakeDesc_fixed (s : State) (d : Nat) : (s.wakeDesc d).fixed = s.fixed := by
  simp [State.wakeDesc, foldl_fixed]

@[simp] theorem State.touchDesc_fixed (s : State) (n cls d : Nat) : (s.touchDesc n cls d).fixed = s.fixed := by
  simp [State.touchDesc, foldl_fixed]

@[simp] theorem State.jobErr_fixed (s : State) (n id : Nat) (e : ErrI) : (s.jobErr n id e).fixed = s.fixed := by
  simp [State.jobErr]

@[simp] theorem State.jobParts_fixed (s : State) (n id rem flags : Nat) : (s.jobParts n id rem flags).fixed = s.fixed := by
  simp [State.jobParts]

@[simp] theorem State.nocPut_fixed (s : State) (src dst job : Nat) (rd : Bool) (r : Run) :
    (s.nocPut src dst job rd r).fixed = s.fixed := by
  simp [State.nocPut, State.fixed_mk, State.fixed_fields]

theorem State.nocSend_fixed (s : State) (n id : Nat) (rs : List Run) : (s.nocSend n id rs).1.fixed = s.fixed := by
  simp [State.nocSend, foldl_fixed]

theorem State.nocRead_fixed (s : State) (n id : Nat) (rs : List (Nat × Nat)) : (s.nocRead n id rs).1.fixed = s.fixed := by
  simp [State.nocRead, foldl_fixed]

theorem State.wrSend_fixed (s : State) (n id d srcA : Nat) (rs : List Run) : (s.wrSend n id d srcA rs).1.fixed = s.fixed := by
  refine foldl_fst_fixed (fun p r => ?_) _ _
  split <;> simp

theorem State.rdSend_fixed (s : State) (n id d : Nat) (rs : List (Nat × Nat)) : (s.rdSend n id d rs).1.fixed = s.fixed :=
  foldl_fst_fixed (fun p r => by simp) _ _

theorem State.awaySend_fixed (s : State) (n id d : Nat) (rs : List (Nat × Nat)) : (s.awaySend n id d rs).1.fixed = s.fixed := by
  unfold State.awaySend
  split
  · exact s.rdSend_fixed ..
  · exact s.nocRead_fixed ..

@[simp] theorem State.deliver_fixed (s : State) (n : Nat) (j : Job) (t : Tens) (srcA : Nat) :
    (s.deliver n j t srcA).fixed = s.fixed := by
  simp only [State.deliver, apply_ite State.fixed, State.jobParts_fixed, State.putBlock_fixed]
  refine ite_eq_iff'.2 ⟨fun _ => rfl, fun _ => ?_⟩
  split <;> simp [State.nocSend_fixed, State.wrSend_fixed, foldl_fixed]

theorem State.readIdx_fixed (s : State) (n : Nat) (j : Job) (h d : Nat) : (s.readIdx n j h d).1.fixed = s.fixed := by
  unfold State.readIdx
  dsimp only
  split <;> simp

@[simp] theorem State.startCopy_fixed (s : State) (n : Nat) (j : Job) (st : Bool) :
    (s.startCopy n j st).fixed = s.fixed := by
  unfold State.startCopy
  dsimp only
  split
  · split <;> simp
  · split <;> simp [State.awaySend_fixed]

@[simp] theorem State.startGth_fixed (s : State) (n : Nat) (j : Job) : (s.startGth n j).fixed = s.fixed := by
  have hidx := s.readIdx_fixed n j (bits j.word 29 8) ((j.desc (bits j.word 29 8)).getD 0)
  unfold State.startGth
  dsimp only
  split
  · next heq => rwa [heq] at hidx
  · next heq =>
    rw [heq] at hidx
    split
    · split <;> simpa [State.awaySend_fixed] using hidx
    · simpa [foldl_fixed] using hidx

@[simp] theorem State.finishSca_fixed (s : State) (n : Nat) (j : Job) : (s.finishSca n j).fixed = s.fixed := by
  simp [State.finishSca, apply_ite State.fixed]

@[simp] theorem State.sendSca_fixed (s : State) (n : Nat) (j : Job) (idx : List (Nat × Nat)) (src : Tens) :
    (s.sendSca n j idx src).fixed = s.fixed := by
  unfold State.sendSca
  extract_lets d sd w ret op all rl rows one node pieces e parts scattered
  by_cases hremote : dSpace d = 5
  · simp only [hremote, if_true, apply_ite State.fixed, State.finishSca_fixed, State.jobParts_fixed, ite_self]
    refine foldl_fst_fixed (fun p r => ?_) _ _
    split_ifs <;> simp
  · have hscattered : scattered.fixed = s.fixed := foldl_fixed (fun t p => by simp) _ _
    simp [hremote, apply_ite State.fixed, hscattered]

@[simp] theorem State.startSca_fixed (s : State) (n : Nat) (j : Job) : (s.startSca n j).fixed = s.fixed := by
  have hidx := s.readIdx_fixed n j (bits j.word 38 8) ((j.desc (bits j.word 38 8)).getD 0)
  unfold State.startSca
  dsimp only
  split
  · next heq => rwa [heq] at hidx
  · next heq =>
    rw [heq] at hidx
    split <;> simpa [State.awaySend_fixed] using hidx

@[simp] theorem State.startAccess_fixed (s : State) (n id : Nat) : (s.startAccess n id).fixed = s.fixed := by
  unfold State.startAccess
  split
  · rfl
  · split
    · rfl
    · dsimp only
      split
      · simp
      · split
        · simp [foldl_fixed]
        · split
          · simp
          · split <;> simp

@[simp] theorem State.jobPart_fixed (s : State) (n id : Nat) : (s.jobPart n id).fixed = s.fixed := by
  unfold State.jobPart
  dsimp only
  split <;> simp [apply_ite State.fixed]

@[simp] theorem State.retryAll_fixed (s : State) : (s.retryAll).fixed = s.fixed := by
  simp [State.retryAll, foldl_fixed]

@[simp] theorem State.issueAccess_fixed (s : State) (n : Nat) (isW : Nat → Bool) (prep : Block → Nat → Iss (Block × Nat)) :
    (s.issueAccess n isW prep).fixed = s.fixed := by
  simp [State.issueAccess]

/-! Streams, tokens and completions. -/

@[simp] theorem State.decode_fixed (s : State) (n : Nat) (q : Seq) : (s.decode n q).fixed = s.fixed := by
  unfold State.decode
  dsimp only
  split
  · split
    · simp
    · split <;> simp
  · rfl

@[simp] theorem State.signal_fixed (s : State) (n : Nat) (f : Fence) : (s.signal n f).fixed = s.fixed := by
  unfold State.signal
  dsimp only
  split
  · rfl
  · split
    · simp [State.fixed_mk, State.fixed_fields]
    · split <;> simp

theorem State.signalsOf_fixed (f : Nat) (s : State) (n : Nat) : (State.signalsOf f s n).fixed = s.fixed := by
  induction f generalizing s with
  | zero => rfl
  | succ f ih =>
    unfold State.signalsOf
    dsimp only
    split
    · rw [ih, State.signal_fixed]
    · rfl

@[simp] theorem State.signals_fixed (s : State) (n : Nat) : (s.signals n).fixed = s.fixed := by
  simp [State.signals, State.signalsOf_fixed]

@[simp] theorem State.tokSig_fixed (s : State) (n : Nat) (q : Seq) : (s.tokSig n q).fixed = s.fixed := by
  simp [State.tokSig]

@[simp] theorem State.tokenMessage_fixed (s : State) (src dst : Nat) : (s.tokenMessage src dst).fixed = s.fixed := by
  unfold State.tokenMessage
  split
  · rfl
  · dsimp only
    split
    · rfl
    · simp [State.fixed_mk, State.fixed_fields]
    · simp only [State.signals_fixed]
      split <;> simp [State.fixed_mk, State.fixed_fields]

@[simp] theorem State.complete_fixed (s : State) (n id : Nat) : (s.complete n id).fixed = s.fixed := by
  unfold State.complete
  dsimp only
  split
  · rfl
  · split
    · rfl
    · split
      · simp
      · split <;> simp

@[simp] theorem State.errorDone_fixed (s : State) (n id : Nat) : (s.errorDone n id).fixed = s.fixed := by
  unfold State.errorDone
  repeat' split
  all_goals simp

@[simp] theorem State.hang_fixed (s : State) (n : Nat) : (s.hang n).fixed = s.fixed := by
  simp [State.hang, apply_ite State.fixed]

/-! Compute. -/

@[simp] theorem State.issueX_fixed (s : State) (n : Nat) (c : Ctx) (isOp : Op → Bool) (f : Block → Nat → Iss Block) :
    (s.issueX n c isOp f).fixed = s.fixed := by
  simp [State.issueX]

@[simp] theorem State.strmPass_fixed (s : State) (n : Nat) : (s.strmPass n).fixed = s.fixed := by
  unfold State.strmPass
  dsimp only
  split
  · rfl
  · split
    · split <;> simp
    · rfl

@[simp] theorem State.slabVerdict_fixed (s : State) (n : Nat) : (s.slabVerdict n).fixed = s.fixed := by
  unfold State.slabVerdict
  dsimp only
  split
  · rfl
  · split
    · rfl
    · split <;> simp

@[simp] theorem State.drain_fixed (s : State) (n : Nat) : (s.drain n).fixed = s.fixed := by
  unfold State.drain
  dsimp only
  split
  · rfl
  · split
    · rfl
    · split
      · rfl
      · split_ifs <;> simp [State.nocSend_fixed]

/-! Events of the block. -/

@[simp] theorem State.nocDeliver_fixed (s : State) (src dst : Nat) (bad : Bool) :
    (s.nocDeliver src dst bad).fixed = s.fixed := by
  unfold State.nocDeliver
  repeat' split
  all_goals simp [State.fixed_mk, State.fixed_fields, apply_ite State.fixed]

@[simp] theorem State.nocE2e_fixed (s : State) (n : Nat) : (s.nocE2e n).fixed = s.fixed := by
  unfold State.nocE2e
  repeat' split
  all_goals simp [State.fixed_mk, State.fixed_fields]

@[simp] theorem State.storeNow_fixed (s : State) (r : Nat) (a : RAcc) : (s.storeNow r a).fixed = s.fixed := by
  simp [State.storeNow, State.fixed_mk, State.fixed_fields, apply_ite State.fixed]

@[simp] theorem State.storeAccess_fixed (s : State) (r : Nat) (a : RAcc) : (s.storeAccess r a).fixed = s.fixed := by
  unfold State.storeAccess
  split <;> simp [State.fixed_mk, State.fixed_fields]

@[simp] theorem State.tamperDone_fixed (s : State) (n : Nat) : (s.tamperDone n).fixed = s.fixed := by
  simp [State.tamperDone, State.fixed_mk, State.fixed_fields, apply_ite State.fixed, foldl_fixed]

@[simp] theorem State.startMessage_fixed (s : State) (n : Nat) : (s.startMessage n).fixed = s.fixed := by
  unfold State.startMessage
  split
  · dsimp only
    split <;> simp [apply_ite State.fixed, State.fixed_mk, State.fixed_fields]
  · rfl

@[simp] theorem State.rampDone_fixed (s : State) (n : Nat) : (s.rampDone n).fixed = s.fixed := by
  unfold State.rampDone
  dsimp only
  split <;> simp [apply_ite State.fixed]

@[simp] theorem State.clockGate_fixed (s : State) (n : Nat) : (s.clockGate n).fixed = s.fixed := by
  simp [State.clockGate, apply_ite State.fixed]

/-! Update engines. -/

theorem State.askPin_fixed (s : State) (layer : Nat) : (s.askPin layer).2.fixed = s.fixed := by
  unfold State.askPin
  split
  · rfl
  · split
    · rfl
    · split_ifs <;> simp

@[simp] theorem State.settle_fixed (s : State) (n : Nat) : (s.settle n).fixed = s.fixed := by
  refine foldl_fixed (fun t x => ?_) _ _
  have hask := t.askPin_fixed x.2.2.layer
  split
  · rfl
  · next heq => rw [State.updBlock_fixed, ← hask, heq]

@[simp] theorem State.putSue_fixed (s : State) (n : Nat) (k : Stack) : (s.putSue n k).fixed = s.fixed := by
  simp [State.putSue]

@[simp] theorem State.pinRequest_fixed (s : State) (n h : Nat) : (s.pinRequest n h).fixed = s.fixed := by
  unfold State.pinRequest
  split
  · rfl
  · simp [State.askPin_fixed]

@[simp] theorem State.pinGrant_fixed (s : State) (n h : Nat) : (s.pinGrant n h).fixed = s.fixed := by
  unfold State.pinGrant
  dsimp only
  split
  · rfl
  · split <;> simp [foldl_fixed]

@[simp] theorem State.pinRefused_fixed (s : State) (n h : Nat) : (s.pinRefused n h).fixed = s.fixed := by
  unfold State.pinRefused
  dsimp only
  split
  · rfl
  · split <;> simp

@[simp] theorem State.pinRelease_fixed (s : State) (n h : Nat) : (s.pinRelease n h).fixed = s.fixed := by
  unfold State.pinRelease
  dsimp only
  split
  · rfl
  · split <;> simp

@[simp] theorem State.storeIf_fixed (s : State) (n off : Nat) (bs : List PByte) : (s.storeIf n off bs).fixed = s.fixed := by
  unfold State.storeIf
  split <;> simp

@[simp] theorem State.triggerWrite_fixed (s : State) (n layer w : Nat) : (s.triggerWrite n layer w).fixed = s.fixed := by
  unfold State.triggerWrite
  split <;> simp

@[simp] theorem State.stepWrite_fixed (s : State) (n w : Nat) : (s.stepWrite n w).fixed = s.fixed := by
  unfold State.stepWrite
  split <;> simp

@[simp] theorem State.layerDeadline_fixed (s : State) (n layer : Nat) : (s.layerDeadline n layer).fixed = s.fixed := by
  unfold State.layerDeadline
  repeat' split
  all_goals simp

@[simp] theorem State.pinDeadline_fixed (s : State) (n layer : Nat) : (s.pinDeadline n layer).fixed = s.fixed := by
  unfold State.pinDeadline
  repeat' split
  all_goals simp

@[simp] theorem State.scaApply_fixed (s : State) (n : Nat) : (s.scaApply n).fixed = s.fixed := by
  unfold State.scaApply
  repeat' split
  all_goals simp

/-! Collectives. -/

@[simp] theorem State.updColl_fixed (s : State) (a cseq : Nat) (f : Coll → Coll) : (s.updColl a cseq f).fixed = s.fixed := by
  simp [State.updColl]

@[simp] theorem State.dropColl_fixed (s : State) (a cseq : Nat) : (s.dropColl a cseq).fixed = s.fixed := by
  simp [State.dropColl]

@[simp] theorem State.collSend_fixed (s : State) (a : Nat) (c : Coll) (tag node : Nat) (bs : List Byte) :
    (s.collSend a c tag node bs).fixed = s.fixed := by
  simp [State.collSend]

@[simp] theorem State.collAcked_fixed (s : State) (a cseq : Nat) : (s.collAcked a cseq).fixed = s.fixed := by
  simp [State.collAcked]

theorem State.bothWays_fixed (s : State) {send : State → Nat → List Byte → State}
    (hsend : ∀ t node bs, (send t node bs).fixed = t.fixed) (members : List Nat) (pos : Nat) (wraps : Bool)
    (pay : Nat → Nat → List Byte) : (s.bothWays send members pos wraps pay).fixed = s.fixed := by
  refine foldl_fixed (fun t d => ?_) _ _
  dsimp only
  split
  · rfl
  · exact hsend ..

@[simp] theorem State.sendAbort_fixed (s : State) (axis cseq : Nat) (members : List Nat) (pos : Nat) (wraps : Bool)
    (cause : Nat) : (s.sendAbort axis cseq members pos wraps cause).fixed = s.fixed :=
  s.bothWays_fixed (fun t node bs => by simp) ..

@[simp] theorem State.dropHeld_fixed (s : State) (a cseq : Nat) : (s.dropHeld a cseq).fixed = s.fixed := by
  simp [State.dropHeld]

@[simp] theorem State.abandonColl_fixed (s : State) (a cseq cause node : Nat) :
    (s.abandonColl a cseq cause node).fixed = s.fixed := by
  unfold State.abandonColl
  split
  · rfl
  · dsimp only
    simp only [apply_ite State.fixed, foldl_fixed, State.sendAbort_fixed, State.dropHeld_fixed, implies_true, ite_self]
    split <;> split <;> simp

@[simp] theorem State.abandonAll_fixed (s : State) (cause : Nat) : (s.abandonAll cause).fixed = s.fixed :=
  foldl_fixed (fun t a => foldl_fixed (fun u q => by simp) _ _) _ _

@[simp] theorem State.wakeRuns_fixed (s : State) (sp stk : Nat) (rs : List Run) : (s.wakeRuns sp stk rs).fixed = s.fixed := by
  simp [State.wakeRuns, foldl_fixed]

@[simp] theorem State.writeRuns_fixed (s : State) (sp stk : Nat) (rs : List Run) : (s.writeRuns sp stk rs).fixed = s.fixed := by
  simp [State.writeRuns, foldl_fixed]

@[simp] theorem State.sendHeads_fixed (s : State) (a : Nat) (c : Coll) : (s.sendHeads a c).fixed = s.fixed := by
  simp [State.sendHeads, foldl_fixed]

@[simp] theorem State.startColl_fixed (s : State) (a cseq : Nat) : (s.startColl a cseq).fixed = s.fixed := by
  unfold State.startColl
  split
  · rfl
  · split
    · rfl
    · simp only [apply_ite State.fixed, State.abandonColl_fixed, State.wakeRuns_fixed, State.wakeDesc_fixed,
        State.sendHeads_fixed, State.writeRuns_fixed, State.updColl_fixed, State.touchDesc_fixed, ite_self]

theorem State.sendNext_fixed (s : State) (a cseq d : Nat) : (s.sendNext a cseq d).1.fixed = s.fixed := by
  unfold State.sendNext
  split
  · rfl
  · split
    · rfl
    · split
      · rfl
      · simp

theorem State.sendChain_fixed (f : Nat) (s : State) (a cseq d : Nat) : (State.sendChain f s a cseq d).fixed = s.fixed := by
  induction f generalizing s with
  | zero => rfl
  | succ f ih =>
    have hsend := s.sendNext_fixed a cseq d
    unfold State.sendChain
    split
    · next heq => rw [ih, ← hsend, heq]
    · next heq => rw [← hsend, heq]

@[simp] theorem State.pump_fixed (s : State) (a : Nat) : (s.pump a).fixed = s.fixed := by
  unfold State.pump
  split
  · rfl
  · refine foldl_fst_fixed (fun p q => ?_) _ _
    split
    · rfl
    · dsimp only
      split
      · split
        · simp [foldl_fixed, State.sendChain_fixed]
        · simp
      · simp

@[simp] theorem State.pumpAll_fixed (s : State) : (s.pumpAll).fixed = s.fixed := by
  simp [State.pumpAll, foldl_fixed]

@[simp] theorem State.issueColl_fixed (s : State) (n k : Nat) (transit : List (Nat × Nat)) :
    (s.issueColl n k transit).fixed = s.fixed := by
  unfold State.issueColl
  dsimp only
  generalize s.prepColl (s.block n) = prep
  split
  · rfl
  · simp only [apply_ite State.fixed]
    refine ite_eq_iff'.2 ⟨fun _ => ?_, fun _ => rfl⟩
    split <;> simp [apply_ite State.fixed, foldl_fixed]

theorem State.takeColl_fixed (s : State) (a phase : Nat) (ready : Packet → Bool) {f : State → Packet → State}
    (hf : ∀ t p, t.fixed = s.fixed → (f t p).fixed = s.fixed) : (s.takeColl a phase ready f).fixed = s.fixed := by
  unfold State.takeColl
  split
  · rfl
  · exact hf _ _ (by simp)

@[simp] theorem State.collHead_fixed (s : State) (a : Nat) (p : Packet) : (s.collHead a p).fixed = s.fixed := by
  unfold State.collHead
  dsimp only
  split
  · split
    · rfl
    · simp
  · split
    · split
      · rfl
      · simp
    · rfl

@[simp] theorem State.ownDone_fixed (s : State) (a cseq : Nat) : (s.ownDone a cseq).fixed = s.fixed := by
  unfold State.ownDone
  split
  · rfl
  · simp [apply_ite State.fixed, State.bothWays_fixed]

theorem State.collData_fixed {s0 s : State} (a : Nat) (p : Packet) (h : s0.fixed = s.fixed) :
    (State.collData s0 a s p).fixed = s.fixed := by
  unfold State.collData
  dsimp only
  split
  · rfl
  · split
    · rfl
    · split <;> simp [h]

@[simp] theorem State.collFlag_fixed (s : State) (a : Nat) (p : Packet) : (s.collFlag a p).fixed = s.fixed := by
  unfold State.collFlag
  dsimp only
  split <;> simp [apply_ite State.fixed]

theorem State.closeAdvance_fixed (f : Nat) (s : State) (u cseq : Nat) : (State.closeAdvance f s u cseq).fixed = s.fixed := by
  induction f generalizing s with
  | zero => rfl
  | succ f ih =>
    unfold State.closeAdvance
    split
    · rfl
    · split
      · rfl
      · split
        · rfl
        · split
          · simp [ih, State.bothWays_fixed, foldl_fixed]
          · dsimp only
            split
            · simp
            · split <;> simp [ih]

@[simp] theorem State.closing_fixed (s : State) : s.closing.fixed = s.fixed := by
  unfold State.closing
  dsimp only
  split
  · rfl
  · split <;> simp [State.closeAdvance_fixed, State.fixed_mk, State.fixed_fields]

@[simp] theorem State.collClose_fixed (s : State) (a : Nat) (p : Packet) : (s.collClose a p).fixed = s.fixed := by
  unfold State.collClose
  dsimp only
  split
  · rfl
  · simp [State.closeAdvance_fixed, apply_ite State.fixed]

@[simp] theorem State.collAbort_fixed (s : State) (a : Nat) (p : Packet) : (s.collAbort a p).fixed = s.fixed := by
  unfold State.collAbort
  dsimp only
  split
  · simp [apply_ite State.fixed, State.fixed_mk, State.fixed_fields]
  · split
    · simp [apply_ite State.fixed, State.fixed_mk, State.fixed_fields]
    · split <;> simp [apply_ite State.fixed]

@[simp] theorem State.endColl_fixed (s : State) (a : Nat) (c : Coll) (flags : Nat) : (s.endColl a c flags).fixed = s.fixed := by
  simp [State.endColl, foldl_fixed]

@[simp] theorem State.closeDone_fixed (s : State) (a : Nat) (c : Coll) : (s.closeDone a c).fixed = s.fixed := by
  unfold State.closeDone
  dsimp only
  split_ifs <;> simp [foldl_fixed]

@[simp] theorem State.collComplete_fixed (s : State) (a cseq : Nat) : (s.collComplete a cseq).fixed = s.fixed := by
  unfold State.collComplete
  repeat' split
  all_goals simp

@[simp] theorem State.collLate_fixed (s : State) (a cseq : Nat) : (s.collLate a cseq).fixed = s.fixed := by
  unfold State.collLate
  split
  · rfl
  · split
    · rfl
    · dsimp only
      split_ifs <;> simp

@[simp] theorem State.bar2Now_fixed (s : State) (a : RAcc) : (s.bar2Now a).fixed = s.fixed := by
  unfold State.bar2Now
  dsimp only
  split <;> simp [State.fixed_mk, State.fixed_fields, apply_ite State.fixed, foldl_fixed]

@[simp] theorem State.bar2Take_fixed (s : State) (a : RAcc) : (s.bar2Take a).fixed = s.fixed := by
  simp [State.bar2Take, State.fixed_mk, State.fixed_fields, apply_ite State.fixed]

@[simp] theorem State.bar2Retry_fixed (s : State) : (s.bar2Retry).fixed = s.fixed := by
  simp [State.bar2Retry, State.fixed_mk, State.fixed_fields, foldl_fixed]

@[simp] theorem State.resume_fixed (s : State) : (s.resume).fixed = s.fixed := by
  simp [State.resume]

/-! Stacks. -/

@[simp] theorem State.stackRequest_fixed (s : State) (n cls : Nat) (wr : Bool) (off len : Nat) :
    (s.stackRequest n cls wr off len).fixed = s.fixed := by
  simp [State.stackRequest, apply_ite State.fixed]

@[simp] theorem State.stackRefresh_fixed (s : State) (n : Nat) : (s.stackRefresh n).fixed = s.fixed := by
  simp [State.stackRefresh]

@[simp] theorem State.enterSelf_fixed (s : State) (n : Nat) : (s.enterSelf n).fixed = s.fixed := by
  simp [State.enterSelf, apply_ite State.fixed]

@[simp] theorem State.stackReady_fixed (s : State) (n : Nat) : (s.stackReady n).fixed = s.fixed := by
  simp [State.stackReady, apply_ite State.fixed, foldl_fixed]

/-! The fabric. -/

@[simp] theorem State.dirCheck_fixed (s : State) : (s.dirCheck).fixed = s.fixed := by
  simp [State.dirCheck, State.fixed_mk, State.fixed_fields, foldl_fixed]

@[simp] theorem State.recount_fixed (s : State) (l : Nat) : (s.recount l).fixed = s.fixed := by
  simp [State.recount]

@[simp] theorem State.linkUp_fixed (s : State) (l : Nat) : (s.linkUp l).fixed = s.fixed := by
  simp [State.linkUp, State.fixed_mk, State.fixed_fields]

@[simp] theorem State.wire_fixed (s : State) (l : Nat) (o : Out) : (s.wire l o).fixed = s.fixed := by
  simp [State.wire, State.fixed_mk, State.fixed_fields, apply_ite State.fixed]

@[simp] theorem State.sendPacket_fixed (s : State) (l : Nat) : (s.sendPacket l).fixed = s.fixed := by
  unfold State.sendPacket
  dsimp only
  split <;> simp

@[simp] theorem State.slot_fixed (s : State) (l : Nat) : (s.slot l).fixed = s.fixed := by
  simp [State.slot, apply_ite State.fixed]

@[simp] theorem State.forward_fixed (s : State) (p : Packet) (d t : Nat) (inAxis : Option Nat) :
    (s.forward p d t inAxis).fixed = s.fixed := by
  unfold State.forward
  repeat' split
  all_goals simp

@[simp] theorem State.ingress_fixed (s : State) (l : Nat) (p0 : Packet) (rx : Rx) : (s.ingress l p0 rx).fixed = s.fixed := by
  simp [State.ingress, apply_ite State.fixed]

@[simp] theorem State.wiring_fixed (s : State) (l : Nat) (i : Ident) : (s.wiring l i).fixed = s.fixed := by
  unfold State.wiring
  dsimp only
  split <;> simp [apply_ite State.fixed]

@[simp] theorem State.goodSlot_fixed (s : State) (l : Nat) (c : CtlSlot) : (s.goodSlot l c).fixed = s.fixed := by
  simp [State.goodSlot, State.fixed_mk, State.fixed_fields, apply_ite State.fixed]

@[simp] theorem State.ctlSlot_fixed (s : State) (l : Nat) (bs : List Byte) (rx : Rx) : (s.ctlSlot l bs rx).fixed = s.fixed := by
  simp [State.ctlSlot, apply_ite State.fixed]

@[simp] theorem State.goDown_fixed (s : State) (l : Nat) : (s.goDown l).fixed = s.fixed := by
  simp [State.goDown]

@[simp] theorem State.linkDown_fixed (s : State) (l : Nat) : (s.linkDown l).fixed = s.fixed := by
  simp [State.linkDown, apply_ite State.fixed]

@[simp] theorem State.dropReq_fixed (s : State) (d tag node : Nat) : (s.dropReq d tag node).fixed = s.fixed := by
  simp [State.dropReq]

@[simp] theorem State.sendFailed_fixed (s : State) (d : Nat) (p : Packet) (o : Orig) (code : Nat) :
    (s.sendFailed d p o code).fixed = s.fixed := by
  cases o <;> simp [State.sendFailed, State.fixed_mk, State.fixed_fields]

@[simp] theorem State.inject_fixed (s : State) (d cyc : Nat) : (s.inject d cyc).fixed = s.fixed := by
  unfold State.inject
  dsimp only
  split
  · rfl
  · split
    · rfl
    · split_ifs <;> simp [State.fixed_mk, State.fixed_fields]

@[simp] theorem State.acked_fixed (s : State) (d : Nat) (k : Kept) : (s.acked d k).fixed = s.fixed := by
  unfold State.acked
  dsimp only
  split <;> simp [State.fixed_mk, State.fixed_fields, apply_ite State.fixed]

@[simp] theorem State.applyAck_fixed (s : State) (d : Nat) (p : Packet) : (s.applyAck d p).fixed = s.fixed := by
  simp [State.applyAck, apply_ite State.fixed, foldl_fixed]

@[simp] theorem State.takeAckOf_fixed (s : State) (d : Nat) (is : Packet → Bool) : (s.takeAckOf d is).fixed = s.fixed := by
  unfold State.takeAckOf
  repeat' split
  all_goals simp

@[simp] theorem State.takeAck_fixed (s : State) (d : Nat) : (s.takeAck d).fixed = s.fixed := by
  simp [State.takeAck]

@[simp] theorem State.acksFirst_fixed (s : State) (d node : Nat) : (s.acksFirst d node).fixed = s.fixed := by
  simp [State.acksFirst, foldl_fixed]

@[simp] theorem State.timeout_fixed (s0 : State) (d node : Nat) : (s0.timeout d node).fixed = s0.fixed := by
  unfold State.timeout
  dsimp only
  split <;> simp [apply_ite State.fixed, foldl_fixed]

@[simp] theorem State.sendAck_fixed (s : State) (d node : Nat) : (s.sendAck d node).fixed = s.fixed := by
  simp [State.sendAck]

@[simp] theorem State.commit_fixed (s : State) (d node : Nat) : (s.commit d node).fixed = s.fixed := by
  simp [State.commit, apply_ite State.fixed]

@[simp] theorem State.ackDue_fixed (s : State) (d node : Nat) : (s.ackDue d node).fixed = s.fixed := by
  unfold State.ackDue
  split <;> simp [apply_ite State.fixed]

@[simp] theorem State.sendErr_fixed (s : State) (d : Nat) (p : Packet) (cause : Nat) :
    (s.sendErr d p cause).fixed = s.fixed := by
  simp [State.sendErr]

@[simp] theorem State.setMsg_fixed (s : State) (d node : Nat) (m : Option Msg) : (s.setMsg d node m).fixed = s.fixed := by
  simp [State.setMsg]

@[simp] theorem State.answerReq_fixed (s : State) (d : Nat) (m : Msg) : (s.answerReq d m).fixed = s.fixed := by
  simp [State.answerReq, apply_ite State.fixed]

@[simp] theorem State.refuse_fixed (s : State) (d : Nat) (p head : Packet) (a cause : Nat) :
    (s.refuse d p head a cause).fixed = s.fixed := by
  simp [State.refuse, apply_ite State.fixed]

theorem State.serve_fixed (s : State) (d : Nat) (b : Blk) (m : Msg) (data : List Byte) :
    (s.serve d b m data).1.fixed = s.fixed := by
  unfold State.serve
  split
  · exact foldl_fst_fixed (fun p r => by simp) _ _
  · simp

@[simp] theorem State.onRequest_fixed (s : State) (d : Nat) (p : Packet) : (s.onRequest d p).fixed = s.fixed := by
  have hgo : ∀ (m : Msg) (data : List Byte),
      ((if p.typ = tRD then (s, m) else s.serve d (blkOf m.head) m data).1).fixed = s.fixed := by
    intro m data
    split
    · rfl
    · exact s.serve_fixed ..
  unfold State.onRequest
  dsimp only
  split
  · split
    · simp [apply_ite State.fixed, hgo]
    · simp
  · split
    · rfl
    · split
      · simp
      · split
        · simp [apply_ite State.fixed, hgo]
        · simp

@[simp] theorem State.handOn_fixed (s : State) (d : Nat) (p : Packet) : (s.handOn d p).fixed = s.fixed := by
  simp [State.handOn, State.fixed_mk, State.fixed_fields, apply_ite State.fixed]

@[simp] theorem State.receive_fixed (s : State) (d : Nat) : (s.receive d).fixed = s.fixed := by
  unfold State.receive
  dsimp only
  split
  · rfl
  · split
    · simp [foldl_fixed]
    · split_ifs <;> simp

@[simp] theorem State.takeErr_fixed (s : State) (d : Nat) : (s.takeErr d).fixed = s.fixed := by
  unfold State.takeErr
  dsimp only
  split
  · rfl
  · split
    · simp
    · split <;> simp

@[simp] theorem State.takeResp_fixed (s : State) (d : Nat) : (s.takeResp d).fixed = s.fixed := by
  unfold State.takeResp
  dsimp only
  split
  · rfl
  · split
    · simp
    · split <;> simp

/-! The step counter and records. -/

@[simp] theorem State.syncRound_fixed (s : State) : (s.syncRound).fixed = s.fixed := by
  simp [State.syncRound, State.fixed_mk, State.fixed_fields, foldl_fixed]

@[simp] theorem State.seedTimeout_fixed (s : State) : (s.seedTimeout).fixed = s.fixed := by
  unfold State.seedTimeout
  dsimp only
  split <;> simp [State.fixed_mk, State.fixed_fields, apply_ite State.fixed]

theorem State.takeCtrl_fixed (s : State) (typ : Nat) {f : State → Nat → State} (hf : ∀ t r, (f t r).fixed = t.fixed) :
    (s.takeCtrl typ f).fixed = s.fixed := by
  unfold State.takeCtrl
  split
  · rfl
  · dsimp only
    split <;> simp [hf, State.fixed_mk, State.fixed_fields]

@[simp] theorem State.stopAll_fixed (s : State) : (s.stopAll).fixed = s.fixed := by
  simp [State.stopAll, foldl_fixed]

@[simp] theorem State.sliceStop_fixed (s : State) : (s.sliceStop).fixed = s.fixed := by
  unfold State.sliceStop
  dsimp only
  split <;> simp [State.fixed_mk, State.fixed_fields, apply_ite State.fixed]

/-! Events and interrupts. -/

@[simp] theorem State.msix_fixed (s : State) (v : Nat) : (s.msix v).fixed = s.fixed := by
  simp [State.msix, State.fixed_mk, State.fixed_fields, apply_ite State.fixed]

@[simp] theorem State.summarise_fixed (s : State) (bits : Nat) (always : Bool) : (s.summarise bits always).fixed = s.fixed := by
  simp [State.summarise, State.fixed_mk, State.fixed_fields, apply_ite State.fixed]

@[simp] theorem State.recordIrq_fixed (s : State) (cls : Nat) : (s.recordIrq cls).fixed = s.fixed := by
  unfold State.recordIrq
  repeat' split
  all_goals simp [State.fixed_mk, State.fixed_fields]

@[simp] theorem State.logEvent_fixed (s : State) (e : Ev) : (s.logEvent e).fixed = s.fixed := by
  simp [State.logEvent, State.fixed_mk, State.fixed_fields, apply_ite State.fixed]

@[simp] theorem State.tamperAct_fixed (s : State) : (s.tamperAct).fixed = s.fixed := by
  simp [State.tamperAct, State.fixed_mk, State.fixed_fields, apply_ite State.fixed, foldl_fixed]

@[simp] theorem State.summary_fixed (s : State) (level unit kind : Nat) : (s.summary level unit kind).fixed = s.fixed := by
  simp [State.summary, apply_ite State.fixed]

/-! Crust's registers. -/

@[simp] theorem State.lateWrite_fixed (s : State) : (s.lateWrite).fixed = s.fixed := rfl

@[simp] theorem State.wakeChip_fixed (s : State) : (s.wakeChip).fixed = s.fixed := by
  simp [State.wakeChip, State.fixed_mk, State.fixed_fields, apply_ite State.fixed]

@[simp] theorem State.mbxWrite_fixed (s : State) (m off : Nat) (data : List Byte) :
    (s.mbxWrite m off data).fixed = s.fixed := by
  simp [State.mbxWrite, State.fixed_mk, State.fixed_fields, apply_ite State.fixed]

@[simp] theorem State.summaryWrite_fixed (s : State) (v : Nat) : (s.summaryWrite v).fixed = s.fixed := by
  simp [State.summaryWrite, State.fixed_mk, State.fixed_fields, apply_ite State.fixed]

@[simp] theorem State.hbWrite_fixed (s : State) (v : Nat) : (s.hbWrite v).fixed = s.fixed := by
  simp [State.hbWrite, State.fixed_mk, State.fixed_fields, apply_ite State.fixed]

@[simp] theorem State.tailWrite_fixed (s : State) (v : Nat) : (s.tailWrite v).fixed = s.fixed := by
  simp [State.tailWrite, State.fixed_mk, State.fixed_fields, apply_ite State.fixed]

@[simp] theorem State.stcNowRead_fixed (s : State) (off size : Nat) : (s.stcNowRead off size).fixed = s.fixed := by
  unfold State.stcNowRead
  repeat' split
  all_goals simp [State.fixed_mk, State.fixed_fields]

@[simp] theorem State.msixWrite_fixed (s : State) (x : Nat) (bs : List Byte) : (s.msixWrite x bs).fixed = s.fixed := rfl

@[simp] theorem State.word32_fixed (s : State) (off v : Nat) : (s.word32 off v).fixed = s.fixed := by
  simp [State.word32, State.fixed_mk, State.fixed_fields, apply_ite State.fixed]

@[simp] theorem State.regWrite_fixed (s : State) (off size v : Nat) : (s.regWrite off size v).fixed = s.fixed := by
  simp [State.regWrite, apply_ite State.fixed]

@[simp] theorem State.bar2Access_fixed (s : State) (wr : Bool) (off len : Nat) (data : List Byte) :
    (s.bar2Access wr off len data).fixed = s.fixed := by
  simp [State.bar2Access, State.fixed_mk, State.fixed_fields, apply_ite State.fixed]

@[simp] theorem State.flr_fixed (s : State) : (s.flr).fixed = s.fixed := by
  simp [State.flr, State.fixed_mk, State.fixed_fields, apply_ite State.fixed]

@[simp] theorem State.heartbeat_fixed (s : State) : (s.heartbeat).fixed = s.fixed := by
  simp [State.heartbeat, State.fixed_mk, State.fixed_fields, apply_ite State.fixed]

@[simp] theorem State.hostSilent_fixed (s : State) : (s.hostSilent).fixed = s.fixed := by
  simp [State.hostSilent, State.fixed_mk, State.fixed_fields, apply_ite State.fixed]

/-! Commands. -/

@[simp] theorem State.updCmd_fixed (s : State) (m : Nat) (f : Cmd → Cmd) : (s.updCmd m f).fixed = s.fixed := rfl

@[simp] theorem State.answer_fixed (s : State) (m st : Nat) (res : List Byte) : (s.answer m st res).fixed = s.fixed := rfl

@[simp] theorem State.ok_fixed (s : State) (m : Nat) (res : List Byte) : (s.ok m res).fixed = s.fixed := rfl

@[simp] theorem State.keep_fixed (s : State) (m : Nat) (l : List Nat) : (s.keep m l).fixed = s.fixed := rfl

theorem State.cmdRowIf_keeps (s : State) (m op : Nat) (is : Cmd → Bool) {f : State → Cmd → State}
    (hf : ∀ (t : State) (c : Cmd), t.Keeps (f t c)) : s.Keeps (s.cmdRowIf m op is f) := by
  unfold State.cmdRowIf
  split
  · split
    · exact .trans (.of_fixed (by simp)) (hf _ _)
    · exact .of_fixed rfl
  · exact .of_fixed rfl

theorem State.cmdRowIf_fixed (s : State) (m op : Nat) (is : Cmd → Bool) {f : State → Cmd → State}
    (hf : ∀ t c, (f t c).fixed = t.fixed) : (s.cmdRowIf m op is f).fixed = s.fixed := by
  unfold State.cmdRowIf
  split
  · split <;> simp [hf]
  · rfl

theorem State.cmdRow_fixed (s : State) (m op : Nat) {f : State → Cmd → State} (hf : ∀ t c, (f t c).fixed = t.fixed) :
    (s.cmdRow m op f).fixed = s.fixed := s.cmdRowIf_fixed m op _ hf

@[simp] theorem State.authLog_fixed (s : State) (purpose cause : Nat) : (s.authLog purpose cause).fixed = s.fixed := by
  simp [State.authLog]

theorem State.deny_fixed {s t : State} {op : Nat} {p : List Byte} (h : s.deny op p = some t) : t.fixed = s.fixed := by
  unfold State.deny at h
  split at h
  · split at h
    · obtain rfl := Option.some.inj h; simp
    · cases h
  · split_ifs at h; obtain rfl := Option.some.inj h; rfl
  · split_ifs at h; obtain rfl := Option.some.inj h; rfl
  · split_ifs at h; obtain rfl := Option.some.inj h; rfl
  · split_ifs at h; obtain rfl := Option.some.inj h; rfl
  · dsimp only at h
    split at h
    · obtain rfl := Option.some.inj h; rfl
    · split at h
      · obtain rfl := Option.some.inj h; simp
      · cases h
  · dsimp only at h
    split at h
    · obtain rfl := Option.some.inj h; rfl
    · split at h
      · obtain rfl := Option.some.inj h; simp
      · cases h
  · split_ifs at h; obtain rfl := Option.some.inj h; rfl
  · cases h

@[simp] theorem State.fixed_begin_ (s : State) (m : Nat) : (s.begin_ m).fixed = s.fixed := by
  unfold State.begin_
  extract_lets h op len dl0 p c cl put others clash tamper
  have hput : ∀ t st, (put t st).fixed = t.fixed := fun _ _ => rfl
  clear_value put
  split
  · exact hput s _
  · simp only [apply_ite State.fixed, hput]
    split
    · rfl
    · split
      · rfl
      · split
        · next heq => rw [hput, State.deny_fixed heq]
        · simp only [apply_ite State.fixed, hput, ite_self]

@[simp] theorem State.finish_fixed (s : State) (c : Cmd) (st : Nat) (res : List Byte) :
    (s.finish c st res).fixed = s.fixed := by
  simp [State.finish, State.fixed_mk, State.fixed_fields, apply_ite State.fixed]

/-! Power. -/

@[simp] theorem State.updRegionBlocks_fixed (s : State) (r : Nat) (f : Nat → Block → Block) :
    (s.updRegionBlocks r f).fixed = s.fixed := by
  simp [State.updRegionBlocks, foldl_fixed]

@[simp] theorem State.regionEnter_fixed (s : State) (r : Nat) (n : RegSt) : (s.regionEnter r n).fixed = s.fixed := by
  unfold State.regionEnter
  dsimp only
  split <;> simp [State.fixed_mk, State.fixed_fields, apply_ite State.fixed]

@[simp] theorem State.regionStep_fixed (s : State) (r : Nat) : (s.regionStep r).fixed = s.fixed := by
  unfold State.regionStep
  dsimp only
  split <;> simp [apply_ite State.fixed]

@[simp] theorem State.regionsStep_fixed (s : State) : (s.regionsStep).fixed = s.fixed := by
  simp [State.regionsStep]

@[simp] theorem State.chipStep_fixed (s : State) : (s.chipStep).fixed = s.fixed := by
  simp [State.chipStep, State.fixed_mk, State.fixed_fields, apply_ite State.fixed]

@[simp] theorem State.regionsGo_fixed (s : State) : (s.regionsGo).fixed = s.fixed := by
  simp [State.regionsGo]

@[simp] theorem State.regionDone_fixed (s : State) (r : Nat) : (s.regionDone r).fixed = s.fixed := by
  unfold State.regionDone
  dsimp only
  split <;> simp [apply_ite State.fixed, foldl_fixed]

@[simp] theorem State.chipDone_fixed (s : State) : (s.chipDone).fixed = s.fixed := by
  unfold State.chipDone
  dsimp only
  split <;> simp [State.fixed_mk, State.fixed_fields, apply_ite State.fixed]

@[simp] theorem State.selfEntered_fixed (s : State) (n : Nat) : (s.selfEntered n).fixed = s.fixed := by
  simp [State.selfEntered]

@[simp] theorem State.linkDone_fixed (s : State) (l : Nat) : (s.linkDone l).fixed = s.fixed := by
  unfold State.linkDone
  dsimp only
  split
  · rfl
  · split
    · split <;> simp
    · simp
    · simp
    · rfl

@[simp] theorem State.pwrChip_fixed (s : State) (c : Cmd) : (s.pwrChip c).fixed = s.fixed := by
  simp [State.pwrChip, State.fixed_mk, State.fixed_fields, apply_ite State.fixed]

@[simp] theorem State.pwrRegion_fixed (s : State) (c : Cmd) : (s.pwrRegion c).fixed = s.fixed := by
  simp [State.pwrRegion, apply_ite State.fixed, foldl_fixed]

@[simp] theorem State.pwrStack_fixed (s : State) (c : Cmd) : (s.pwrStack c).fixed = s.fixed := by
  simp [State.pwrStack, apply_ite State.fixed, foldl_fixed]

@[simp] theorem State.pwrLink_fixed (s : State) (c : Cmd) : (s.pwrLink c).fixed = s.fixed := by
  simp [State.pwrLink, apply_ite State.fixed, foldl_fixed]

@[simp] theorem State.pwrQuery_fixed (s : State) (c : Cmd) : (s.pwrQuery c).fixed = s.fixed := rfl

/-! Memory commands. -/

@[simp] theorem State.mapWindow_fixed (s : State) (c : Cmd) : (s.mapWindow c).fixed = s.fixed := by
  simp [State.mapWindow, State.fixed_mk, State.fixed_fields, apply_ite State.fixed]

@[simp] theorem State.wipe_fixed (s : State) (scope stks : Nat) : (s.wipe scope stks).fixed = s.fixed := by
  simp [State.wipe, State.fixed_mk, State.fixed_fields, apply_ite State.fixed, foldl_fixed]

@[simp] theorem State.fullWipe_fixed (s : State) : (s.fullWipe).fixed = s.fixed := rfl

@[simp] theorem State.memWipe_fixed (s : State) (c : Cmd) : (s.memWipe c).fixed = s.fixed := by
  unfold State.memWipe
  dsimp only
  split_ifs <;> simp [foldl_fixed]

@[simp] theorem State.wipeDone_fixed (s : State) (c : Cmd) : (s.wipeDone c).fixed = s.fixed := by
  simp [State.wipeDone, apply_ite State.fixed]

@[simp] theorem State.hostStore_fixed (s : State) (sp stk a : Nat) (bs : List PByte) :
    (s.hostStore sp stk a bs).fixed = s.fixed := by
  simp [State.hostStore, foldl_fixed]

@[simp] theorem State.logDenied_fixed (s : State) (m st addr : Nat) : (s.logDenied m st addr).fixed = s.fixed := by
  simp [State.logDenied, apply_ite State.fixed]

@[simp] theorem State.again_fixed (s : State) (m : Nat) : (s.again m).fixed = s.fixed := rfl

@[simp] theorem State.memFill_fixed (s : State) (c : Cmd) : (s.memFill c).fixed = s.fixed := by
  simp [State.memFill, apply_ite State.fixed]

@[simp] theorem State.dmaErr_fixed (s : State) (m : Nat) : (s.dmaErr m).fixed = s.fixed := by
  simp [State.dmaErr]

@[simp] theorem State.memCopy_fixed (dma : Option (List Byte)) (s : State) (c : Cmd) : (s.memCopy dma c).fixed = s.fixed := by
  simp [State.memCopy, State.fixed_mk, State.fixed_fields, apply_ite State.fixed]

@[simp] theorem State.scrubSet_fixed (s : State) (c : Cmd) : (s.scrubSet c).fixed = s.fixed := by
  simp [State.scrubSet, apply_ite State.fixed, foldl_fixed]

@[simp] theorem State.readBack_fixed (s : State) (c : Cmd) : (s.readBack c).fixed = s.fixed := by
  simp [State.readBack, apply_ite State.fixed]

/-! Program commands. -/

@[simp] theorem State.loadBlocks_fixed (s : State) (bl : List Nat) (bs : List Byte) (digest : Nat) :
    (s.loadBlocks bl bs digest).fixed = s.fixed := by
  simp [State.loadBlocks, State.fixed_mk, State.fixed_fields, foldl_fixed]

@[simp] theorem State.prgLoad_fixed (dma : Option (List Byte)) (s : State) (c : Cmd) : (s.prgLoad dma c).fixed = s.fixed := by
  unfold State.prgLoad
  split <;> simp [apply_ite State.fixed]

@[simp] theorem State.prgStart_fixed (s : State) (c : Cmd) : (s.prgStart c).fixed = s.fixed := by
  simp [State.prgStart, State.fixed_mk, State.fixed_fields, apply_ite State.fixed]

@[simp] theorem State.prgStop_fixed (s : State) (c : Cmd) : (s.prgStop c).fixed = s.fixed := by
  simp [State.prgStop, apply_ite State.fixed, foldl_fixed]

@[simp] theorem State.prgStatus_fixed (s : State) (c : Cmd) : (s.prgStatus c).fixed = s.fixed := by
  simp [State.prgStatus, apply_ite State.fixed]

@[simp] theorem State.descWrite_fixed (s : State) (c : Cmd) : (s.descWrite c).fixed = s.fixed := by
  simp [State.descWrite, State.fixed_mk, State.fixed_fields, apply_ite State.fixed]

@[simp] theorem State.fetchImage_fixed (s : State) (n : Nat) : (s.fetchImage n).fixed = s.fixed := by
  simp [State.fetchImage, State.fixed_mk, State.fixed_fields, apply_ite State.fixed]

@[simp] theorem State.blockTest_fixed (s : State) (fails : List (Nat × Nat)) : (s.blockTest fails).fixed = s.fixed := by
  simp [State.blockTest, State.fixed_mk, State.fixed_fields, apply_ite State.fixed, foldl_fixed]

/-! Flash and settings. -/

@[simp] theorem State.setFlash_fixed (s : State) (d : Nat) (f : Flash → Flash) : (s.setFlash d f).fixed = s.fixed := rfl

@[simp] theorem State.flashBoth_fixed (s : State) (f : Flash → Flash) : (s.flashBoth f).fixed = s.fixed := by
  simp [State.flashBoth, apply_ite State.fixed]

@[simp] theorem State.inForce_fixed (s : State) (i : Nat) (bs : List Byte) : (s.inForce i bs).fixed = s.fixed := rfl

@[simp] theorem State.putOwn_fixed (s : State) (i : Nat) (body : List Byte) : (s.putOwn i body).fixed = s.fixed := by
  simp [State.putOwn, State.fixed_mk, State.fixed_fields]

@[simp] theorem State.putSecRecord_fixed (s : State) : (s.putSecRecord).fixed = s.fixed := by
  simp [State.putSecRecord]

@[simp] theorem State.halt_fixed (s : State) (n : Nat) (rom : Bool) : (s.halt n rom).fixed = s.fixed := by
  simp [State.halt, State.fixed_mk, State.fixed_fields, apply_ite State.fixed]

@[simp] theorem State.discover_fixed (s : State) (f0 f1 : Sfdp) : (s.discover f0 f1).fixed = s.fixed := by
  simp [State.discover, State.fixed_mk, State.fixed_fields, apply_ite State.fixed]

@[simp] theorem State.fwVerify_fixed (s : State) : (s.fwVerify).fixed = s.fixed := by
  unfold State.fwVerify
  repeat' split
  all_goals simp [State.fixed_mk, State.fixed_fields]

@[simp] theorem State.takeSetting_fixed (s : State) (f : Flash) (i : Nat) : (s.takeSetting f i).fixed = s.fixed := by
  unfold State.takeSetting
  split <;> simp [apply_ite State.fixed]

@[simp] theorem State.applySettings_fixed (s : State) : (s.applySettings).fixed = s.fixed := by
  simp [State.applySettings, State.fixed_mk, State.fixed_fields, apply_ite State.fixed]

@[simp] theorem State.takeSecRecord_fixed (s : State) (f : Flash) : (s.takeSecRecord f).fixed = s.fixed := by
  simp [State.takeSecRecord, State.fixed_mk, State.fixed_fields]

@[simp] theorem State.setVerify_fixed (s : State) : (s.setVerify).fixed = s.fixed := by
  simp [State.setVerify, State.fixed_mk, State.fixed_fields, apply_ite State.fixed, foldl_fixed]

@[simp] theorem State.fwStage_fixed (dma : Option (List Byte)) (s : State) (c : Cmd) : (s.fwStage dma c).fixed = s.fixed := by
  unfold State.fwStage
  split <;> simp [State.fixed_mk, State.fixed_fields, apply_ite State.fixed]

@[simp] theorem State.fwSwitch_fixed (s : State) (c : Cmd) : (s.fwSwitch c).fixed = s.fixed := by
  simp [State.fwSwitch, State.fixed_mk, State.fixed_fields, apply_ite State.fixed]

@[simp] theorem State.setRead_fixed (dmaOk : Bool) (s : State) (c : Cmd) : (s.setRead dmaOk c).fixed = s.fixed := by
  unfold State.setRead
  dsimp only
  split <;> simp [State.fixed_mk, State.fixed_fields, apply_ite State.fixed]

@[simp] theorem State.setWrite_fixed (dma : Option (List Byte)) (s : State) (c : Cmd) : (s.setWrite dma c).fixed = s.fixed := by
  unfold State.setWrite
  split <;> simp [apply_ite State.fixed]

@[simp] theorem State.gradeDown_fixed (s : State) (c : Cmd) : (s.gradeDown c).fixed = s.fixed := by
  simp [State.gradeDown, State.fixed_mk, State.fixed_fields, apply_ite State.fixed]

/-! Fabric and time commands. -/

@[simp] theorem State.devIdentify_fixed (s : State) (c : Cmd) : (s.devIdentify c).fixed = s.fixed := rfl

@[simp] theorem State.devGrade_fixed (s : State) (c : Cmd) : (s.devGrade c).fixed = s.fixed := rfl

@[simp] theorem State.devFw_fixed (s : State) (c : Cmd) : (s.devFw c).fixed = s.fixed := rfl

@[simp] theorem State.devHeartbeat_fixed (s : State) (c : Cmd) : (s.devHeartbeat c).fixed = s.fixed := by
  simp [State.devHeartbeat, State.fixed_mk, State.fixed_fields, apply_ite State.fixed]

@[simp] theorem State.fabProfile_fixed (s : State) (c : Cmd) : (s.fabProfile c).fixed = s.fixed := by
  simp [State.fabProfile, State.fixed_mk, State.fixed_fields, apply_ite State.fixed]

@[simp] theorem State.linkStatus_fixed (s : State) (c : Cmd) : (s.linkStatus c).fixed = s.fixed := by
  simp [State.linkStatus, apply_ite State.fixed]

/-- FAB_SLICE_SET writes the whole box, one word an axis (R422). -/
theorem State.sliceSet_keeps (s : State) (c : Cmd) : s.Keeps (s.sliceSet c) := by
  unfold State.sliceSet
  dsimp only
  split
  · exact .of_fixed (by simp)
  · split
    · exact .of_fixed (by simp)
    · exact .of_fixed_box (by simp [FabS.freshPairs, State.fixed_mk, State.fixed_fields])

theorem State.sliceClear_keeps (s : State) (c : Cmd) : s.Keeps (s.sliceClear c) := by
  unfold State.sliceClear
  split_ifs
  · exact .of_fixed (by simp)
  · exact .of_fixed_box (by simp [FabS.freshPairs, State.fixed_mk, State.fixed_fields])

@[simp] theorem State.acceptWiring_fixed (s : State) (c : Cmd) : (s.acceptWiring c).fixed = s.fixed := by
  unfold State.acceptWiring
  dsimp only
  split
  · simp
  · split
    · simp
    · split
      · simp
      · split
        · simp
        · split <;> simp [State.fixed_mk, State.fixed_fields]

@[simp] theorem State.retrain_fixed (s : State) (c : Cmd) : (s.retrain c).fixed = s.fixed := by
  simp [State.retrain, apply_ite State.fixed]

@[simp] theorem State.transitOnly_fixed (s : State) (c : Cmd) : (s.transitOnly c).fixed = s.fixed := by
  simp [State.transitOnly, State.fixed_mk, State.fixed_fields, apply_ite State.fixed]

@[simp] theorem State.stcRead_fixed (s : State) (c : Cmd) : (s.stcRead c).fixed = s.fixed := rfl

@[simp] theorem State.epoch_fixed (s : State) (c : Cmd) : (s.epoch c).fixed = s.fixed := rfl

@[simp] theorem State.seed_fixed (s : State) (c : Cmd) : (s.seed c).fixed = s.fixed := by
  simp [State.seed, State.fixed_mk, State.fixed_fields, apply_ite State.fixed]

@[simp] theorem State.disarm_fixed (s : State) (off : Nat → Bool) (m : Nat) : (s.disarm off m).fixed = s.fixed := by
  simp [State.disarm, State.fixed_mk, State.fixed_fields, apply_ite State.fixed]

@[simp] theorem State.deadlinePolicy_fixed (s : State) (c : Cmd) : (s.deadlinePolicy c).fixed = s.fixed := by
  simp [State.deadlinePolicy, State.fixed_mk, State.fixed_fields]

/-! Update commands. -/

@[simp] theorem State.loadRule_fixed (s : State) (c : Cmd) : (s.loadRule c).fixed = s.fixed := by
  simp [State.loadRule, apply_ite State.fixed, foldl_fixed]

@[simp] theorem State.dropBind_fixed (s : State) (layer : Nat) : (s.dropBind layer).fixed = s.fixed := by
  simp [State.dropBind, State.fixed_mk, State.fixed_fields]

@[simp] theorem State.bindLayer_fixed (s : State) (c : Cmd) : (s.bindLayer c).fixed = s.fixed := by
  unfold State.bindLayer
  dsimp only
  split_ifs
  · simp
  · simp
  · simp
  · split <;> simp

@[simp] theorem State.unbindLayer_fixed (s : State) (c : Cmd) : (s.unbindLayer c).fixed = s.fixed := by
  unfold State.unbindLayer
  split <;> simp [apply_ite State.fixed]

@[simp] theorem State.versionState_fixed (s : State) (c : Cmd) : (s.versionState c).fixed = s.fixed := by
  unfold State.versionState
  dsimp only
  split <;> simp

theorem State.withStack_fixed (s : State) (c : Cmd) (n : Nat) {f : State → State} (hf : (f s).fixed = s.fixed) :
    (s.withStack c n f).fixed = s.fixed := by
  unfold State.withStack
  split <;> simp [hf]

@[simp] theorem State.statsRead_fixed (s : State) (c : Cmd) : (s.statsRead c).fixed = s.fixed := by
  unfold State.statsRead
  split
  · simp
  · exact s.withStack_fixed _ _ (by simp)

@[simp] theorem State.scaleMode_fixed (s : State) (c : Cmd) : (s.scaleMode c).fixed = s.fixed := by
  simp [State.scaleMode, State.fixed_mk, State.fixed_fields, apply_ite State.fixed]

@[simp] theorem State.sueRollback_fixed (s : State) (c : Cmd) : (s.sueRollback c).fixed = s.fixed := by
  simp [State.sueRollback, apply_ite State.fixed, State.withStack_fixed]

/-! Telemetry and faults. -/

@[simp] theorem State.telCounters_fixed (dmaOk : Bool) (s : State) (c : Cmd) : (s.telCounters dmaOk c).fixed = s.fixed := by
  simp [State.telCounters, State.fixed_mk, State.fixed_fields, apply_ite State.fixed]

@[simp] theorem State.telSensors_fixed (s : State) (c : Cmd) : (s.telSensors c).fixed = s.fixed := rfl

@[simp] theorem State.telZero_fixed (s : State) (level u : Nat) : (s.telZero level u).fixed = s.fixed := by
  unfold State.telZero
  dsimp only
  split <;> simp [State.fixed_mk, State.fixed_fields]

@[simp] theorem State.telClear_fixed (s : State) (c : Cmd) : (s.telClear c).fixed = s.fixed := by
  simp [State.telClear, apply_ite State.fixed, foldl_fixed]

@[simp] theorem State.fltRead_fixed (s : State) (c : Cmd) : (s.fltRead c).fixed = s.fixed := by
  simp [State.fltRead, apply_ite State.fixed]

@[simp] theorem State.fltClear_fixed (s : State) (c : Cmd) : (s.fltClear c).fixed = s.fixed := by
  unfold State.fltClear
  dsimp only
  split
  · split_ifs
    · simp
    · simp
    · split <;> simp [State.fixed_mk, State.fixed_fields]
  · simp [State.fixed_mk, State.fixed_fields]

@[simp] theorem State.injectFault_fixed (s : State) (kind u arg : Nat) : (s.injectFault kind u arg).fixed = s.fixed := by
  unfold State.injectFault
  dsimp only
  split <;> simp

@[simp] theorem State.fltInject_fixed (s : State) (c : Cmd) : (s.fltInject c).fixed = s.fixed := by
  simp [State.fltInject, apply_ite State.fixed]

@[simp] theorem State.lockstep_fixed (s : State) : (s.lockstep).fixed = s.fixed := by
  simp [State.lockstep, State.fixed_mk, State.fixed_fields, apply_ite State.fixed]

/-! Sporecast. -/

@[simp] theorem State.sendCast_fixed (s : State) (node : Nat) (o : Orig) (head data : List Byte) :
    (s.sendCast node o head data).fixed = s.fixed := by
  simp [State.sendCast]

@[simp] theorem State.castHop_fixed (s : State) (o : Orig) (h : CastHd) (data : List Byte) (a d left : Nat) :
    (s.castHop o h data a d left).fixed = s.fixed := by
  simp [State.castHop, apply_ite State.fixed]

@[simp] theorem State.castAxes_fixed (s : State) (o : Orig) (h : CastHd) (data : List Byte) (axes : List Nat) :
    (s.castAxes o h data axes).fixed = s.fixed := by
  simp [State.castAxes, foldl_fixed]

@[simp] theorem State.castRelay_fixed (s : State) (h : CastHd) (data : List Byte) : (s.castRelay h data).fixed = s.fixed := by
  simp [State.castRelay, apply_ite State.fixed]

theorem State.castTake_fixed (s : State) (kinds : Nat → Bool) {f : State → CastHd → List Byte → Nat → Bool → State}
    (hf : ∀ t h bs n b, (f t h bs n b).fixed = t.fixed) : (s.castTake kinds f).fixed = s.fixed := by
  unfold State.castTake
  split
  · rfl
  · split
    · rfl
    · split
      · rfl
      · simp [hf, State.fixed_mk, State.fixed_fields]

@[simp] theorem State.setCast_fixed (s : State) (f : Cast → Cast) : (s.setCast f).fixed = s.fixed := rfl

@[simp] theorem State.castOpen_fixed (s : State) (c : Cmd) : (s.castOpen c).fixed = s.fixed := by
  simp [State.castOpen, State.fixed_mk, State.fixed_fields, apply_ite State.fixed]

@[simp] theorem State.castSegment_fixed (dma : Option (List Byte)) (s : State) (c : Cmd) :
    (s.castSegment dma c).fixed = s.fixed := by
  unfold State.castSegment
  repeat' split
  all_goals simp [apply_ite State.fixed]

@[simp] theorem State.castAsk_fixed (s : State) : (s.castAsk).fixed = s.fixed := by
  unfold State.castAsk
  dsimp only
  split <;> simp [apply_ite State.fixed, foldl_fixed]

@[simp] theorem State.castClose_fixed (s : State) (c : Cmd) : (s.castClose c).fixed = s.fixed := by
  unfold State.castClose
  split <;> simp [apply_ite State.fixed]

@[simp] theorem State.dropCast_fixed (s : State) : (s.dropCast).fixed = s.fixed := rfl

@[simp] theorem State.closeFails_fixed (s : State) : (s.closeFails).fixed = s.fixed := by
  unfold State.closeFails
  split <;> simp

@[simp] theorem State.castAccept_fixed (s : State) (h : CastHd) (data : List Byte) : (s.castAccept h data).fixed = s.fixed := by
  unfold State.castAccept
  dsimp only
  split <;> simp [apply_ite State.fixed]

@[simp] theorem State.castFetch_fixed (s : State) (h : CastHd) (src : Nat) : (s.castFetch h src).fixed = s.fixed := by
  unfold State.castFetch
  dsimp only
  split <;> simp [apply_ite State.fixed]

@[simp] theorem State.castRefused_fixed (s : State) (h : CastHd) : (s.castRefused h).fixed = s.fixed := by
  unfold State.castRefused
  split <;> simp [apply_ite State.fixed]

/-! Security. -/

@[simp] theorem State.attest_fixed (s : State) (c : Cmd) : (s.attest c).fixed = s.fixed := rfl

@[simp] theorem State.lcWipe_fixed (s : State) : (s.lcWipe).fixed = s.fixed := by
  simp [State.lcWipe, State.fixed_mk, State.fixed_fields, apply_ite State.fixed]

@[simp] theorem State.lcWipes_fixed (s : State) : (s.lcWipes).fixed = s.fixed := by
  simp [State.lcWipes, State.fixed_mk, State.fixed_fields]

@[simp] theorem State.lifecycle_fixed (s : State) (c : Cmd) : (s.lifecycle c).fixed = s.fixed := by
  simp [State.lifecycle, State.fixed_mk, State.fixed_fields, apply_ite State.fixed]

@[simp] theorem State.lcDone_fixed (s : State) (c : Cmd) : (s.lcDone c).fixed = s.fixed := by
  simp [State.lcDone]

@[simp] theorem State.ownerKey_fixed (s : State) (c : Cmd) : (s.ownerKey c).fixed = s.fixed := by
  simp [State.ownerKey, State.fixed_mk, State.fixed_fields, apply_ite State.fixed]

@[simp] theorem State.tamper_fixed (s : State) (sensor : Nat) : (s.tamper sensor).fixed = s.fixed := by
  simp [State.tamper, State.fixed_mk, State.fixed_fields, apply_ite State.fixed]

@[simp] theorem State.debugDenied_fixed (s : State) (port : Nat) : (s.debugDenied port).fixed = s.fixed := by
  simp [State.debugDenied, State.fixed_mk, State.fixed_fields, apply_ite State.fixed]

@[simp] theorem State.debugOut_fixed (s : State) (bs : List Byte) : (s.debugOut bs).fixed = s.fixed := rfl

@[simp] theorem State.hostDebug_fixed (s : State) (b : Nat) (wr : Bool) (off len : Nat) (data : List Byte) :
    (s.hostDebug b wr off len data).fixed = s.fixed := by
  simp [State.hostDebug, apply_ite State.fixed]

@[simp] theorem State.jtag_fixed (s : State) (ir v : Nat) : (s.jtag ir v).fixed = s.fixed := by
  unfold State.jtag
  dsimp only
  split_ifs <;> simp [State.fixed_mk, State.fixed_fields]

/-! Resets, supplies and clocks. -/

@[simp] theorem State.stackCoreReset_fixed (s : State) (n : Nat) : (s.stackCoreReset n).fixed = s.fixed := by
  simp [State.stackCoreReset]

@[simp] theorem State.coreReset_fixed (s : State) (cause : Nat) : (s.coreReset cause).fixed = s.fixed := by
  simp [State.coreReset, State.fixed_mk, State.fixed_fields, foldl_fixed]

@[simp] theorem State.coreRelease_fixed (s : State) : (s.coreRelease).fixed = s.fixed := by
  simp [State.coreRelease, State.fixed_mk, State.fixed_fields, apply_ite State.fixed]

@[simp] theorem State.coreDieReset_fixed (s : State) (rail : Nat) : (s.coreDieReset rail).fixed = s.fixed := by
  simp [State.coreDieReset, State.fixed_mk, State.fixed_fields, apply_ite State.fixed]

@[simp] theorem State.coreRailsBack_fixed (s : State) : (s.coreRailsBack).fixed = s.fixed := by
  simp [State.coreRailsBack, State.fixed_mk, State.fixed_fields, apply_ite State.fixed]

@[simp] theorem State.resetLow_fixed (s : State) : (s.resetLow).fixed = s.fixed := by
  simp [State.resetLow, State.fixed_mk, State.fixed_fields, apply_ite State.fixed]

@[simp] theorem State.resetRises_fixed (s : State) : (s.resetRises).fixed = s.fixed := by
  simp [State.resetRises, State.fixed_mk, State.fixed_fields, apply_ite State.fixed]

/-- A state cleared by a package reset (R449, R511) holds the units that the links of the old one do not fix. -/
theorem State.cleared_keeps (s : State) : s.Keeps s.cleared where
  shape hs := by
    obtain ⟨-, -, -, hlinks, -⟩ := s.shape_iff.1 hs
    have hlinks : s.cleared.fixed.links = 64 := (List.length_map _).trans hlinks
    exact s.cleared.shape_iff.2 ⟨List.length_replicate, List.length_replicate, List.length_replicate, hlinks, rfl,
      List.length_replicate, List.length_replicate⟩
  pending := rfl
  serial := rfl
  secret := rfl
  vmap := rfl

@[simp] theorem State.crustStarts_fixed (s : State) : (s.crustStarts).fixed = s.fixed := rfl

theorem State.packageReset_keeps (s : State) (cause : Nat) : s.Keeps (s.packageReset cause) := by
  have hc : ∀ t, t.fixed = s.cleared.fixed → s.Keeps t := fun t ht => s.cleared_keeps.trans (.of_fixed ht)
  unfold State.packageReset
  dsimp only
  split_ifs
  · exact hc _ rfl
  · split
    · split
      · exact hc _ (by simp [State.fixed_mk, State.fixed_fields])
      · exact .of_fixed rfl
    · exact .of_fixed rfl
  · exact hc _ rfl
  · exact .of_fixed rfl

@[simp] theorem State.goodRises_fixed (s : State) (oscWait smbAddr : Nat) : (s.goodRises oscWait smbAddr).fixed = s.fixed := by
  simp [State.goodRises, State.fixed_mk, State.fixed_fields, apply_ite State.fixed]

@[simp] theorem State.oscEnds_fixed (s : State) (low : List Nat) : (s.oscEnds low).fixed = s.fixed := by
  simp [State.oscEnds, State.fixed_mk, State.fixed_fields, apply_ite State.fixed]

@[simp] theorem State.railsBack_fixed (s : State) : (s.railsBack).fixed = s.fixed := by
  simp [State.railsBack, apply_ite State.fixed]

@[simp] theorem State.supplyWarn_fixed (s : State) (rail : Nat) : (s.supplyWarn rail).fixed = s.fixed := by
  simp [State.supplyWarn, State.fixed_mk, State.fixed_fields, apply_ite State.fixed]

@[simp] theorem State.supplyResume_fixed (s : State) : (s.supplyResume).fixed = s.fixed := by
  unfold State.supplyResume
  repeat' split
  all_goals simp [State.fixed_mk, State.fixed_fields]

@[simp] theorem State.supplyHigh_fixed (s : State) (rail : Nat) : (s.supplyHigh rail).fixed = s.fixed := by
  simp [State.supplyHigh, apply_ite State.fixed]

@[simp] theorem State.thermWarn_fixed (s : State) (i : Nat) (t : Int) : (s.thermWarn i t).fixed = s.fixed := by
  simp [State.thermWarn, State.fixed_mk, State.fixed_fields, apply_ite State.fixed]

@[simp] theorem State.thermTrip_fixed (s : State) (i : Nat) (t : Int) : (s.thermTrip i t).fixed = s.fixed := by
  simp [State.thermTrip, State.fixed_mk, State.fixed_fields, apply_ite State.fixed]

@[simp] theorem State.thermal_fixed (s : State) (core dies : List Int) : (s.thermal core dies).fixed = s.fixed := by
  simp [State.thermal, State.fixed_mk, State.fixed_fields, apply_ite State.fixed]

@[simp] theorem State.tripClocks_fixed (s : State) : (s.tripClocks).fixed = s.fixed := by
  unfold State.tripClocks
  dsimp only
  split <;> simp [State.fixed_mk, State.fixed_fields, apply_ite State.fixed]

@[simp] theorem State.tripStack_fixed (s : State) (n : Nat) : (s.tripStack n).fixed = s.fixed := by
  simp [State.tripStack, State.fixed_mk, State.fixed_fields, apply_ite State.fixed]

@[simp] theorem State.oscStops_fixed (s : State) : (s.oscStops).fixed = s.fixed := by
  simp [State.oscStops, State.fixed_mk, State.fixed_fields, apply_ite State.fixed]

@[simp] theorem State.keepAlive_fixed (s : State) (d : Nat) : (s.keepAlive d).fixed = s.fixed := by
  simp [State.keepAlive, State.fixed_mk, State.fixed_fields, apply_ite State.fixed]

@[simp] theorem State.linkRef_fixed (s : State) (d : Nat) : (s.linkRef d).fixed = s.fixed := by
  simp [State.linkRef, State.fixed_mk, State.fixed_fields, apply_ite State.fixed]

@[simp] theorem State.dieLost_fixed (s : State) (d : Nat) : (s.dieLost d).fixed = s.fixed := by
  simp [State.dieLost, State.fixed_mk, State.fixed_fields, apply_ite State.fixed]

/-! Start-up. -/

@[simp] theorem State.fuseRead_fixed (s : State) (ok : Bool) : (s.fuseRead ok).fixed = s.fixed := by
  simp [State.fuseRead, State.fixed_mk, State.fixed_fields, apply_ite State.fixed]

@[simp] theorem State.romBoot_fixed (s : State) (ok : Bool) : (s.romBoot ok).fixed = s.fixed := by
  simp [State.romBoot, State.fixed_mk, State.fixed_fields, apply_ite State.fixed]

@[simp] theorem State.bootStage_fixed (s : State) : (s.bootStage).fixed = s.fixed := by
  simp [State.bootStage, State.fixed_mk, State.fixed_fields, apply_ite State.fixed]

@[simp] theorem State.trainFail_fixed (s : State) (l corrected uncorr : Nat) :
    (s.trainFail l corrected uncorr).fixed = s.fixed := by
  simp [State.trainFail]

@[simp] theorem State.trainer_fixed (s : State) (l : Nat) (t : Train) : (s.trainer l t).fixed = s.fixed := by
  unfold State.trainer
  repeat' split
  all_goals simp [apply_ite State.fixed]

@[simp] theorem State.gateEnd_fixed (s : State) (l corrected uncorr : Nat) (slot : List Byte) :
    (s.gateEnd l corrected uncorr slot).fixed = s.fixed := by
  simp only [State.gateEnd, apply_ite State.fixed]
  cases (s.link l).retrain <;> simp [apply_ite State.fixed]

@[simp] theorem State.memTrained_fixed (s : State) (n : Nat) (v : MemVerdict) : (s.memTrained n v).fixed = s.fixed := by
  unfold State.memTrained
  split <;> simp [State.fixed_mk, State.fixed_fields, apply_ite State.fixed]

@[simp] theorem State.abortMbx_fixed (s : State) (m : Nat) : (s.abortMbx m).fixed = s.fixed := by
  simp [State.abortMbx, State.fixed_mk, State.fixed_fields, apply_ite State.fixed]

@[simp] theorem State.abortMbxs_fixed (s : State) (map : Nat) : (s.abortMbxs map).fixed = s.fixed := by
  simp [State.abortMbxs, apply_ite State.fixed, foldl_fixed]

@[simp] theorem State.resetLogged_fixed (s : State) (cause : Nat) : (s.resetLogged cause).fixed = s.fixed := by
  simp [State.resetLogged, State.fixed_mk, State.fixed_fields]

@[simp] theorem State.setReady_fixed (s : State) : s.setReady.fixed = s.fixed := by
  unfold State.setReady
  split
  · dsimp only
    split <;> simp [State.fixed_mk, State.fixed_fields, apply_ite State.fixed]
  · rfl

@[simp] theorem State.switched_fixed (s : State) : (s.switched).fixed = s.fixed := by
  unfold State.switched
  dsimp only
  split <;> simp [State.fixed_mk, State.fixed_fields, apply_ite State.fixed]

@[simp] theorem State.restarted_fixed (s : State) : (s.restarted).fixed = s.fixed := by
  simp [State.restarted, State.fixed_mk, State.fixed_fields, apply_ite State.fixed]

/-! Pins of the package. -/

@[simp] theorem State.updPort_fixed (s : State) (p : Nat) (f : Link → Link) : (s.updPort p f).fixed = s.fixed := by
  simp [State.updPort]

@[simp] theorem State.plugged_fixed (s : State) (p : Nat) : (s.plugged p).fixed = s.fixed := by
  simp [State.plugged, apply_ite State.fixed]

@[simp] theorem State.unplugged_fixed (s : State) (p : Nat) : (s.unplugged p).fixed = s.fixed := by
  simp [State.unplugged, apply_ite State.fixed]

@[simp] theorem State.sideShort_fixed (s : State) (p pin : Nat) : (s.sideShort p pin).fixed = s.fixed := by
  simp [State.sideShort, apply_ite State.fixed]

@[simp] theorem State.smbNack_fixed (s : State) : (s.smbNack).fixed = s.fixed := rfl

theorem State.smbReg_fixed {s t : State} {code : Nat} {bs : List Byte} (h : s.smbReg code = some (bs, t)) :
    t.fixed = s.fixed := by
  unfold State.smbReg at h
  split at h <;> cases h <;> rfl

@[simp] theorem State.smbus_fixed (s : State) (code : Nat) (wr : Bool) : (s.smbus code wr).fixed = s.fixed := by
  unfold State.smbus
  split
  · rfl
  · split
    · simp
    · split
      · simp
      · next heq => simpa [State.fixed_mk, State.fixed_fields] using State.smbReg_fixed heq

@[simp] theorem State.smbArp_fixed (s : State) : (s.smbArp).fixed = s.fixed := by
  simp [State.smbArp, State.fixed_mk, State.fixed_fields, apply_ite State.fixed]

@[simp] theorem State.smbDrop_fixed (s : State) : (s.smbDrop).fixed = s.fixed := by
  simp [State.smbDrop, State.fixed_mk, State.fixed_fields, apply_ite State.fixed]

/-! Sporecast. -/

theorem State.castEnd_fixed {s t : State} {st : Nat} {bs : List Byte} (h : s.castEnd = some (t, st, bs)) :
    t.fixed = s.fixed := by
  unfold State.castEnd at h
  split at h
  · cases h; rfl
  · dsimp only at h
    split_ifs at h <;> cases h <;> simp

/-! Ends of commands. -/

theorem State.answered_fixed {s t : State} {m st : Nat} {bs : List Byte} (h : s.answered m = some (t, st, bs)) :
    t.fixed = s.fixed := by
  unfold State.answered at h
  split at h
  · obtain ⟨a, _, ha⟩ := Option.map_eq_some_iff.1 h
    cases ha
    rfl
  · cases h

theorem State.ending_fixed {s t : State} {c : Cmd} {st : Nat} {bs : List Byte} (h : s.ending c = some (t, st, bs)) :
    t.fixed = s.fixed := by
  have hplain : ∀ a : Option (Nat × List Byte), a.map (fun x => (s, x.1, x.2)) = some (t, st, bs) → t.fixed = s.fixed := by
    intro a ha
    obtain ⟨x, _, hx⟩ := Option.map_eq_some_iff.1 ha
    cases hx
    rfl
  unfold State.ending at h
  dsimp only at h
  split at h
  case h_5 => 
    split at h
    · simpa using State.answered_fixed h
    · cases h
  case h_7 => exact State.castEnd_fixed h
  case h_12 =>
    split at h
    · simpa using State.answered_fixed h
    · cases h
  case h_13 => cases h
  all_goals exact hplain _ h

@[simp] theorem State.cmdDone_fixed (s : State) (m : Nat) : (s.cmdDone m).fixed = s.fixed := by
  unfold State.cmdDone
  split
  · rfl
  · next c _ =>
    have hend : ∀ {t st bs}, (match c.ans with
        | some a => some (s, a.1, a.2)
        | none => if c.begun then s.ending c else none) = some (t, st, bs) → t.fixed = s.fixed := by
      intro t st bs h
      split at h
      · cases h; rfl
      · split at h
        · exact State.ending_fixed h
        · cases h
    split
    · rfl
    · split
      · rfl
      · next heq => simpa [apply_ite State.fixed] using hend heq

@[simp] theorem State.stopLate_fixed (s : State) (c : Cmd) : (s.stopLate c).fixed = s.fixed := by
  have hlate : s.closeLate.2.fixed = s.fixed := by
    unfold State.closeLate
    split <;> simp
  unfold State.stopLate
  split
  case h_4 => split <;> simp [hlate]
  all_goals simp [State.fixed_mk, State.fixed_fields]

@[simp] theorem State.mbxDeadline_fixed (s : State) (m : Nat) : (s.mbxDeadline m).fixed = s.fixed := by
  unfold State.mbxDeadline
  dsimp only
  split <;> simp [apply_ite State.fixed]

/-! The clock. -/

@[simp] theorem State.blockTick_fixed (s : State) (c n : Nat) : (s.blockTick c n).fixed = s.fixed := by
  simp [State.blockTick, apply_ite State.fixed]

@[simp] theorem State.stackTick_fixed (s : State) (n : Nat) : (s.stackTick n).fixed = s.fixed := by
  simp [State.stackTick, apply_ite State.fixed]

@[simp] theorem State.tick_fixed (s : State) : (s.tick).fixed = s.fixed := by
  simp [State.tick, State.fixed_mk, State.fixed_fields, apply_ite State.fixed, foldl_fixed]

end Sys2Proof.Machine
end

section
/-! PROOFS. What every step keeps (R9, R12, R227, R315, R511, R516). -/

namespace Sys2Proof.Machine

/-- Where an answer is a next state, that state keeps what `s` has. -/
def Res.KeepsOf (r : Res) (s : State) : Prop := ∀ t, r = .next t → s.Keeps t

theorem next_keepsOf {s t : State} (h : s.Keeps t) : Res.KeepsOf (.next t) s := by
  rintro _ ⟨⟩
  exact h

theorem onUnit_keepsOf {s t : State} {ok : Bool} (h : s.Keeps t) : Res.KeepsOf (onUnit ok t) s := by
  unfold onUnit
  split
  · exact next_keepsOf h
  · rintro _ ⟨⟩

theorem onPart_keepsOf {s t : State} {ok : Bool} (h : s.Keeps t) : Res.KeepsOf (onPart s ok t) s := by
  unfold onPart
  split
  · exact onUnit_keepsOf (.of_fixed rfl)
  · exact onUnit_keepsOf h

/-- Every command keeps the queue and the fused identity, and every unit of the part: each row's meaning keeps the fixed part, but
for the two commands that write the whole box and for the package reset. -/
theorem exec_keepsOf (c : Instr) (s : State) : Res.KeepsOf (exec c s) s := by
  cases c with
  | spillComplete b =>
    refine onUnit_keepsOf (.of_fixed ?_)
    split
    · split <;> simp
    · rfl
  | collDataReceive a =>
    exact onPart_keepsOf (.of_fixed (s.takeColl_fixed _ _ _ fun t p ht => by rw [State.collData_fixed a p ht.symm, ht]))
  | eventLogEntry =>
    refine next_keepsOf (.of_fixed ?_)
    split
    · rfl
    · simp [apply_ite State.fixed, State.fixed_mk, State.fixed_fields]
  | evtIrqGapExpiry =>
    refine next_keepsOf (.of_fixed ?_)
    split
    · rfl
    · split <;> simp [apply_ite State.fixed, State.fixed_mk, State.fixed_fields]
  | thallusWake =>
    refine next_keepsOf (.of_fixed ?_)
    split
    · rfl
    · simp [apply_ite State.fixed, State.fixed_mk, State.fixed_fields]
  | devIdentify m => exact onUnit_keepsOf (.of_fixed (s.cmdRow_fixed _ _ State.devIdentify_fixed))
  | devGrade m => exact onUnit_keepsOf (.of_fixed (s.cmdRow_fixed _ _ State.devGrade_fixed))
  | devFwVersion m => exact onUnit_keepsOf (.of_fixed (s.cmdRow_fixed _ _ State.devFw_fixed))
  | pwrQuery m => exact onUnit_keepsOf (.of_fixed (s.cmdRow_fixed _ _ State.pwrQuery_fixed))
  | fabSliceSet m => exact onUnit_keepsOf (s.cmdRowIf_keeps _ _ _ State.sliceSet_keeps)
  | fabSliceClear m => exact onUnit_keepsOf (s.cmdRowIf_keeps _ _ _ State.sliceClear_keeps)
  | stcRead m => exact onUnit_keepsOf (.of_fixed (s.cmdRow_fixed _ _ State.stcRead_fixed))
  | stcSetEpoch m => exact onUnit_keepsOf (.of_fixed (s.cmdRowIf_fixed _ _ _ fun t c => rfl))
  | telSensors m => exact onUnit_keepsOf (.of_fixed (s.cmdRow_fixed _ _ State.telSensors_fixed))
  | secAttest m => exact onUnit_keepsOf (.of_fixed (s.cmdRow_fixed _ _ State.attest_fixed))
  | packageReset cause => exact onUnit_keepsOf (s.packageReset_keeps _)
  | instructionDecode | loop | tokWait | tokSig | ctxMark | descSet | descSetAdd | descSetLcr | descSetVimm | ld | st | gth
  | sca | collRs | collAg | collAr | collBc | collA2a | collShift | mmMul | mmL1 | mmL2sq | mmMaxp | mmMinp | bld
  | shadowLoadComplete | swp | strmPassStart | packHoldExpiry | slabVerdict | drainComplete | spl | rsm | cvt | qPush | qPop
  | queueEntryCommit | vopAdd | vopSub | vopMul | vopFma | vopMax | vopMin | vopAbs | vopNeg | vopDiv | vopSqrt | vopRcp
  | vopRsqrt | vopExp | vopExp2 | vopLog | vopLog2 | vopTanh | vopSigm | vopCmpEq | vopCmpNe | vopCmpLt | vopCmpLe | vopSel
  | vopRsum | vopRmax | vopRmin | vopRssq | vopAcc | vopMset | rowLnF | rowLnB | rowRmsF | rowRmsB | rowSmF | rowSmB | rowSmCh
  | rowSmMrg | rowGet | rowSt | rowLd | streamHang | scratchpadScrubTick | blockClockRampComplete | suePassEnd | errReceive
  | respReceive | mbxHandoff | commandCompletion | mailboxDeadline | mailboxWrite | registerWrite | bar2Access
  | devHeartbeat | pwrChipState | pwrRegionState | pwrStackState | pwrLinkState | memMapWindow | memWipe | memFill | memCopy
  | memScrubSet | memReadBack | prgLoad | prgCastOpen | prgCastSegment | prgCastClose | prgStart | prgStop | prgStatus
  | descWrite | fabProfile | fabLinkStatus | fabAcceptWiring | fabRetrainLink | fabTransitOnly | stcSetEpochSeed
  | deadlinePolicy | sueLoadRule | sueBindLayer | sueUnbindLayer | sueVersionState | sueScaleMode | sueRollback | sueStatsRead
  | telCounters | telClear | fltRead | fltClear | fltInject | blkGradeDown | secLifecycle | secOwnerKey | fwStage | fwSwitch
  | setRead | setWrite | oscWaitExpiry | coreDieReset | supplyWarn | supplyHigh | thermalSample | tripStackStop
  | keepAliveLoss | linkReferenceStop | linkDieLost | regionTransitionComplete | memoryTrainingComplete | blockFetch
  | blockTest | tamperEvent | hostDebugAccess | cablePresent | sidebandShort | cableRemoved =>
    exact onUnit_keepsOf (.of_fixed (by simp [State.cmdRow_fixed, State.cmdRowIf_fixed, apply_ite State.fixed]))
  | tokenMessage | completionEvent | errorCompletion | nocTransferDelivery | nocE2e | regionStoreAccess | secureWipeComplete
  | blockStartMessage | blockClockGate | pinRequest | pinGrant | pinRefused | pinRelease | triggerWrite | suePassStart
  | stepWordWrite | stepClose | rollbackComplete | layerUpdateDeadline | pinDeadline | scaRowApply | stackRequest
  | stackWriteAccept | wcbLineTimeout | writePromotion | channelDirectionSwitch | stackRefresh | stackTemperatureSample
  | patrolScrub | selfRefreshEntry | stackWake | linkSlotTransmit | packetIngress | controlSlotReceive | linkDown
  | packetInjection | endpointReceive | ackTimer | ackReceive | resendTimeout | collHeadReceive | collFlagReceive
  | collCloseReceive | collAbortReceive | collCompletion | collDeadline | correctedSummary | linkTransitionComplete
  | linkTrainerStart | linkGateVerdict =>
    exact onPart_keepsOf (.of_fixed (by simp [State.takeColl_fixed, apply_ite State.fixed]))
  | closingCollective | stcSeedTimeout | deadlineRecordReceive | sliceStopRecordReceive | castSegmentReceive
  | castFetchReceive | castRefuseReceive | stcSyncRound | sliceStop | faultSummaryWrite | hostHbWrite | evtTailWrite
  | stcNowRead | functionLevelReset | heartbeat | hostSilent | thallusLockstep | thallusRestartComplete | pwrGoodRise
  | resetNLow | warmReset | supplyResume | tripClockStop | oscillatorStop | chipTransitionComplete | fuseReadComplete
  | romBootComplete | flashDiscovery | firmwareVerify | settingsVerify | ready | jtagAccess | smbusCommand
  | smbusAlertResponse | smbusTimeout | coreDieResetRelease | resetLevelRelease =>
    exact next_keepsOf (.of_fixed (by
      simp [State.takeCtrl_fixed, State.castTake_fixed, State.fixed_mk, State.fixed_fields, apply_ite State.fixed]))

/-- On an empty queue a cycle passes; otherwise the front command takes effect on the state with the rest of the queue. -/
theorem step_keeps {s t : State} (h : step s = .next t) :
    State.Keeps { s with pending := s.pending.tail } t := by
  unfold step at h
  split at h
  · next hnil =>
    obtain rfl := Host.Outcome.next.inj h
    have hs : { s with pending := s.pending.tail } = s := by rw [hnil]; exact congrArg _ hnil.symm
    rw [hs]
    exact .of_fixed s.tick_fixed
  · next hcons =>
    rw [hcons]
    exact exec_keepsOf _ _ _ h

/-- Settles O6: every command's meaning keeps the count of each unit and the queue it is run on, or sets a count to what the part
has; and a step runs the front command on the rest of the queue. -/
theorem stepKeepsShapeAndQueue : Obligations.StepKeepsShapeAndQueue := by
  intro s t hshape hstep
  have hk := step_keeps hstep
  exact ⟨hk.shape hshape, hk.pending⟩

/-- Settles O7: no command's meaning writes the three fuses, a package reset and a life-cycle change among them. -/
theorem stepKeepsFusedIdentity : Obligations.StepKeepsFusedIdentity := by
  intro s t hstep
  have hk := step_keeps hstep
  exact ⟨hk.serial, hk.secret, hk.vmap⟩

end Sys2Proof.Machine
end

section
/-! PROOFS. What a command comes to: it stops where it is ill-formed, and an instruction of a block issues, waits, faults, or,
where the block may not issue, changes nothing (R167, R169, R452). -/

namespace Sys2Proof.Machine

/-! The answer of a command. -/

@[simp] theorem onUnit_true (t : State) : onUnit true t = .next t := rfl
@[simp] theorem onUnit_false (t : State) : onUnit false t = .fault .noSuchUnit := rfl

theorem onUnit_of {p : Prop} [Decidable p] (h : p) (t : State) : onUnit (decide p) t = .next t := by simp [h]

/-- While the reference clock runs, a unit of the part acts (R24). -/
theorem onPart_of {s : State} {p : Prop} [Decidable p] (hclk : s.pwr.stopped = false) (h : p) (t : State) :
    onPart s (decide p) t = .next t := by simp [onPart, hclk, h]

theorem onPart_of_two {s : State} {p q : Prop} [Decidable p] [Decidable q] (hclk : s.pwr.stopped = false) (hp : p) (hq : q)
    (t : State) : onPart s (decide p && decide q) t = .next t := by simp [onPart, hclk, hp, hq]

/-- Every command's check of the units it names is that of `Instr.wf`. -/
theorem exec_eq_onUnit (c : Instr) (s : State) : ∃ t, exec c s = onUnit c.wf t := by
  cases c
  all_goals exact ⟨_, rfl⟩

/-- Settles O4: each command answers through the check that its form's `wf` makes. -/
theorem commandsStopExactlyOutsideThePart : Obligations.CommandsStopExactlyOutsideThePart := by
  constructor
  · intro c s hwf
    obtain ⟨t, ht⟩ := exec_eq_onUnit c s
    rw [ht, hwf, onUnit_false]
  · intro c s hwf
    obtain ⟨t, ht⟩ := exec_eq_onUnit c s
    exact ⟨t, by rw [ht, hwf, onUnit_true]⟩

theorem step_cons {s : State} {c : Instr} {rest : List Instr} (h : s.pending = c :: rest) :
    step s = exec c { s with pending := rest } := by
  simp only [step, h]

/-- Settles O1: the command at the front is the one that `step` matches on. -/
theorem stepRunsFrontCommand : Obligations.StepRunsFrontCommand := fun _ _ _ h => step_cons h

/-! Instructions of a block: which meaning stands behind each mnemonic. -/

theorem exec_vop {ik : (Nat → Ctx → Instr) × Nat} (h : ik ∈ elementwiseVops ++ reductionVops) (n : Nat) (c : Ctx) (s : State) :
    exec (ik.1 n c) s = onUnit (n < 144) (s.issue n (seqOf c) (fun w => isVop ik.2 (opOf (seqOf c) w))
      (fun k w => k.issueVop (seqOf c) w ik.2 (vopBf (seqOf c) w))) := by
  simp only [elementwiseVops, reductionVops, List.cons_append, List.nil_append] at h
  fin_cases h <;> rfl

theorem exec_row {ik : (Nat → Ctx → Instr) × Nat} (h : ik ∈ tensorRows) (n : Nat) (c : Ctx) (s : State) :
    exec (ik.1 n c) s = onUnit (n < 144) (s.issue n (seqOf c) (fun w => opOf (seqOf c) w == .row ik.2)
      (fun k w => k.issueRow (seqOf c) w ik.2)) := by
  simp only [tensorRows] at h
  fin_cases h <;> rfl

theorem exec_mm {ik : (Nat → Ctx → Instr) × Nat} (h : ik ∈ arrayModes) (n : Nat) (c : Ctx) (s : State) :
    exec (ik.1 n c) s = onUnit (n < 144) (s.issue n (seqOf c) (fun w => opOf (seqOf c) w == .mm ik.2)
      (fun k w => k.issueMM (seqOf c) c w s.now)) := by
  simp only [arrayModes] at h
  fin_cases h <;> rfl

/-! What such an instruction answers. -/

section
variable {s : State} {n : Nat} {q : Seq} {w : Nat} {isW : Nat → Bool} {f : Block → Nat → Iss Block}

theorem onUnit_issue_go {b1 : Block} (h : s.ready n q w) (hw : isW w = true) (hf : f (s.block n) w = .go b1) :
    onUnit (n < 144) (s.issue n q isW f) = .next (s.issued n b1) := by
  rw [onUnit_of h.1, State.issue_go h hw hf]

theorem onUnit_issue_hold (h : s.ready n q w) (hw : isW w = true) (hf : f (s.block n) w = .hold) :
    onUnit (n < 144) (s.issue n q isW f) = .next s := by
  rw [onUnit_of h.1, State.issue_hold h hw hf]

/-- A fault that read no slot of the side store. -/
theorem onUnit_issue_fault {e : ErrI} (h : s.ready n q w) (hw : isW w = true) (hf : f (s.block n) w = .fault e)
    (he : e.reads = []) :
    onUnit (n < 144) (s.issue n q isW f) = .next (s.blockFault n (srcOf q) ((s.block n).seqr q).pc e) := by
  rw [onUnit_of h.1, State.issue_fault h hw hf, he]
  rfl

theorem onUnit_issue_off (hn : n < 144) (h : s.canIssue n = false) : onUnit (n < 144) (s.issue n q isW f) = .next s := by
  rw [onUnit_of hn, State.issue_off q isW f h]

end

/-- Settles O5: each of these mnemonics is an issue, and an issue in a block that may not issue is no change. -/
theorem nothingIssuesWhilePaused : Obligations.NothingIssuesWhilePaused := by
  intro s n c hn hoff
  refine ⟨fun ik hik => ?listed, fun k hk => ?named, fun k hk => ?descSets⟩
  case listed =>
    rw [List.mem_append, List.mem_append] at hik
    rcases hik with (hvop | hrow) | hmm
    · rw [exec_vop hvop, onUnit_issue_off hn hoff]
    · rw [exec_row hrow, onUnit_issue_off hn hoff]
    · rw [exec_mm hmm, onUnit_issue_off hn hoff]
  case named => fin_cases hk <;> exact onUnit_issue_off hn hoff
  case descSets => fin_cases hk <;> exact onUnit_issue_off hn hoff

end Sys2Proof.Machine
end

section
/-! PROOFS. A cycle on an empty queue (log entry 1). -/

namespace Sys2Proof.Machine

/-- Crust runs, Thallus restarts, and a stack holds an event that it has found and not yet forwarded. -/
def restartingWithEvent : State :=
  { State.reset with
    blocks := []
    stks := [{ Stack.reset with st := .active, evs := [(0x0102, 0, 5)] }]
    pwr := { PwrS.reset with crust := true, pause := some 0 }
    boot := { BootS.reset with restart := true } }

/-- In the cycle the stack forwards its event, and Crust holds it until Thallus is back (R485). -/
theorem restartingWithEvent_tick_heldEv : restartingWithEvent.tick.boot.heldEv.length = 1 := by decide +kernel

/-- Refutes O2: it says that the start-up state stays as it is in a cycle, but the stacks forward what they have found in that
cycle, and during a Thallus restart Crust's held events are part of that state. -/
theorem not_emptyQueueTicks : ¬ Obligations.EmptyQueueTicks := by
  intro h
  obtain ⟨-, hup⟩ := h restartingWithEvent rfl
  obtain ⟨t, hstep, -, -, -, hboot, -⟩ := hup rfl
  rw [step_of_pending_nil rfl] at hstep
  obtain rfl := Host.Outcome.next.inj hstep
  have hheld := restartingWithEvent_tick_heldEv
  rw [hboot] at hheld
  cases hheld

end Sys2Proof.Machine
end

section
/-! PROOFS. The sequences of a block: how a sequence moves past an instruction (R198, R222), and what its decode, loops and tokens
come to. -/

namespace Sys2Proof.Machine

/-! A move of a sequence touches that sequence only, and looks only at its memory and its range. -/

/-- A sequence after the ENDLs that fold at `r`, its memory read by `fetch` and its range ended at `stop`. -/
def foldSeqr (q : Seq) (fetch : Nat → IWord) (stop : Nat) : Nat → Seqr → Seqr
  | 0, r => r
  | n + 1, r =>
    if r.pc ≥ stop then r
    else
      match r.loops with
      | [] => r
      | e :: es =>
        if opOf q (fetch r.pc).w = .endl ∧ (e.stop = r.pc && (fetch r.pc).ok && !(illegalWord q (fetch r.pc).w)) = true then
          if e.left > 1 then { r with pc := e.start, loops := { e with left := e.left - 1 } :: es }
          else foldSeqr q fetch stop n { r with pc := r.pc + 1, loops := es }
        else r

@[simp] theorem Block.seqr_setSeqr (b : Block) (q : Seq) (r : Seqr) : (b.setSeqr q r).seqr q = r := by cases q <;> rfl
@[simp] theorem Block.setSeqr_seqr (b : Block) (q : Seq) : b.setSeqr q (b.seqr q) = b := by cases q <;> rfl
@[simp] theorem Block.setSeqr_setSeqr (b : Block) (q : Seq) (r r' : Seqr) :
    (b.setSeqr q r).setSeqr q r' = b.setSeqr q r' := by cases q <;> rfl
@[simp] theorem Block.iword_setSeqr (b : Block) (q : Seq) (r : Seqr) : (b.setSeqr q r).iword q = b.iword q := by
  cases q <;> rfl
@[simp] theorem Block.rangeEnd_setSeqr (b : Block) (q : Seq) (r : Seqr) : (b.setSeqr q r).rangeEnd q = b.rangeEnd q := by
  cases q <;> rfl

theorem foldEndl_eq (n : Nat) (b : Block) (q : Seq) :
    foldEndl n b q = b.setSeqr q (foldSeqr q (b.iword q) (b.rangeEnd q) n (b.seqr q)) := by
  induction n generalizing b with
  | zero => simp [foldEndl, foldSeqr]
  | succ n ih =>
    simp only [foldEndl, foldSeqr, ih]
    split
    case isTrue => simp
    case isFalse =>
      split
      case h_1 e es hop hl =>
        rw [hl]
        simp only [hop, true_and]
        split_ifs <;> simp
      case h_2 hne =>
        cases hl : (b.seqr q).loops with
        | nil => simp
        | cons e es => simp [show opOf q (b.iword q (b.seqr q).pc).w ≠ .endl from fun hop => hne e es hop hl]

/-- Where a sequence stands after the instruction at its program counter has issued (R198). -/
def Block.past (b : Block) (q : Seq) : Seqr :=
  foldSeqr q (b.iword q) (b.rangeEnd q) 5 { b.seqr q with pc := (b.seqr q).pc + 1, word := none }

theorem Block.adv_eq (b : Block) (q : Seq) : b.adv q = b.setSeqr q (b.past q) := by
  simp only [Block.adv, foldEndl_eq, Block.past, Block.setSeqr_setSeqr, Block.iword_setSeqr, Block.rangeEnd_setSeqr,
    Block.seqr_setSeqr]

/-- Two blocks have the same streams: instruction memories, the run's header and the sequences. -/
structure Block.SameStreams (a b : Block) : Prop where
  imA  : a.imA = b.imA
  imX  : a.imX = b.imX
  run  : a.run = b.run
  seqA : a.seqA = b.seqA
  seqF : a.seqF = b.seqF
  seqB : a.seqB = b.seqB

theorem Block.SameStreams.refl (b : Block) : b.SameStreams b := ⟨rfl, rfl, rfl, rfl, rfl, rfl⟩

/-- A move of a sequence does to a block what it does to one with the same streams. -/
theorem Block.SameStreams.adv_eq {a b : Block} (h : a.SameStreams b) (q : Seq) :
    a.adv q = { a with seqA := (b.adv q).seqA, seqF := (b.adv q).seqF, seqB := (b.adv q).seqB } := by
  obtain ⟨hA, hX, hrun, hsA, hsF, hsB⟩ := h
  have hfetch : a.iword q = b.iword q := by
    funext pc
    cases q <;> simp only [Block.iword, Block.imem, hA, hX]
  have hpast : a.past q = b.past q := by
    rw [Block.past, Block.past, hfetch]
    cases q <;> simp only [Block.rangeEnd, Block.seqr, hrun, hsA, hsF, hsB]
  cases q <;> simp only [Block.adv_eq, hpast, Block.setSeqr, ← hsA, ← hsF, ← hsB]

/-! Decode (R198 to R200). -/

theorem exec_instructionDecode {n : Nat} (hn : n < 144) (q : Seq) (s : State) :
    exec (.instructionDecode n q) s = .next (s.decode n q) := onUnit_of hn _

/-- Settles O8: a sequence of a block that may issue comes to its next word, and the check and the form of that word decide. -/
theorem decodeHoldsFoldsOrFaults : Obligations.DecodeHoldsFoldsOrFaults := by
  intro s n q hn hi he hw b iw
  refine ⟨fun e hf => ?faults, fun hf hop => ?folds, fun hf hop => ?held⟩
  all_goals
    rw [exec_instructionDecode hn]
    simp only [State.decode, hi, he, hw, Bool.not_false, Bool.and_true, Option.isNone_none, if_true]
    simp only [b, iw] at hf
    rw [hf]
  case folds => simp only [show opOf q ((s.block n).iword q ((s.block n).seqr q).pc).w = .endl from hop]
  case held =>
    dsimp only
    split
    case h_1 hend => exact (hop hend).elim
    case h_2 => rfl

/-! Loops and tokens. -/

/-- What the waits served before take of a token is never more than it holds. -/
theorem Block.leftFor_le (b : Block) (t : Nat) (q : Seq) : b.leftFor t q ≤ b.toks.getD t 0 := by
  have hstep (v : Nat) (p : Seq) : (if b.waitCount t p ≤ v then v - b.waitCount t p else v) ≤ v := by
    split_ifs <;> omega
  cases q
  case a => exact le_refl _
  case b => exact hstep _ .a
  case f => exact (hstep _ .b).trans (hstep _ .a)

theorem loopEntersSkipsOrFaults : claimLoopEntersSkipsOrFaults := by
  intro s n q w hr hop b r last cnt
  have hw : (opOf q w == .loop) = true := beq_iff_eq.2 hop
  refine ⟨fun h0 => ?skips, fun h0 hl => ?enters, fun h0 hl => ?faults⟩
  case skips => exact onUnit_issue_go hr hw (if_pos h0)
  case enters => exact onUnit_issue_go hr hw ((if_neg h0).trans (if_neg (not_le.2 hl)))
  case faults => exact onUnit_issue_fault hr hw ((if_neg h0).trans (if_pos hl)) rfl

theorem tokWaitTakesOrWaits : claimTokWaitTakesOrWaits := by
  intro s n q w hr hop b v left
  have hw : (opOf q w == .tokWait) = true := beq_iff_eq.2 hop
  refine ⟨fun hle => ?takes, fun hlt => ?waits, fun hq => ?first, b.leftFor_le _ q⟩
  case takes => exact onUnit_issue_go hr hw (if_neg (not_lt.2 hle))
  case waits => exact onUnit_issue_hold hr hw (if_pos hlt)
  case first => subst hq; rfl

/-- A TOK.SIG that may issue does what its meaning says, and then the block's signals go that may. -/
theorem exec_tokSig {s : State} {n : Nat} (hn : n < 144) (q : Seq) : exec (.tokSig n q) s = .next (s.tokSig n q) :=
  onUnit_of hn _

theorem State.tokSig_go {s : State} {n : Nat} {q : Seq} {w : Nat} {b1 : Block} (hr : s.ready n q w) (hop : opOf q w = .tokSig)
    (h : (s.block n).issueTokSig n q w = .go (b1, true)) : s.tokSig n q = (s.issued n b1).signals n := by
  rw [State.tokSig, State.issue_go hr (by simp [hop]) (b1 := b1) (by rw [h]; rfl)]

theorem State.tokSig_overflow {s : State} {n : Nat} {q : Seq} {w : Nat} {b1 : Block} (hr : s.ready n q w)
    (hop : opOf q w = .tokSig) (h : (s.block n).issueTokSig n q w = .go (b1, false)) :
    s.tokSig n q = (s.blockFault n (srcOf q) ((s.block n).seqr q).pc { ErrI.of 8 with handle := bits w 43 6 }).signals n := by
  rw [State.tokSig, State.issue_fault hr (by simp [hop]) (e := { ErrI.of 8 with handle := bits w 43 6 }) (by rw [h]; rfl)]
  rfl

theorem Block.tokAdd_of_le {b : Block} {t k : Nat} (h : b.toks.getD t 0 + k ≤ 65535) :
    b.tokAdd t k = some { b with toks := b.toks.set t (b.toks.getD t 0 + k) } := if_neg (not_lt.2 h)

theorem Block.tokAdd_of_lt {b : Block} {t k : Nat} (h : 65535 < b.toks.getD t 0 + k) : b.tokAdd t k = none := if_pos h

theorem tokSigAddsOrStandsFenced : claimTokSigAddsOrStandsFenced := by
  intro s n q w hr hop b t k v
  rw [exec_tokSig hr.1]
  refine ⟨fun hf hb hv => ?adds, fun hf hb hv => ?overflows, fun hfb => ?fenced⟩
  case adds =>
    have hadd := Block.tokAdd_of_le hv
    exact congrArg _ (State.tokSig_go hr hop (by simp [Block.issueTokSig, hf, hb, hadd, b, t, k, v]))
  case overflows =>
    have hadd := Block.tokAdd_of_lt hv
    exact congrArg _ (State.tokSig_overflow hr hop (b1 := b.adv q) (by simp [Block.issueTokSig, hf, hb, hadd, b, t, k]))
  case fenced =>
    have hor : (bit w 34 || bit w 33) = true := by simpa using hfb
    intro j f
    rw [State.tokSig_go hr hop]
    simp only [Block.issueTokSig, hor, Bool.not_true, Bool.false_eq_true, if_false]
    rfl

theorem exec_tokenMessage {s : State} {src dst : Nat} (hs : src < 144) (hd : dst < 144) (hclk : s.pwr.stopped = false) :
    exec (.tokenMessage src dst) s = .next (s.tokenMessage src dst) := onPart_of_two hclk hs hd _

theorem tokenMessageArrives : claimTokenMessageArrives := by
  intro s src dst m hs hd hclk hm s1 s2
  rw [exec_tokenMessage hs hd hclk, State.tokenMessage, hm]
  refine ⟨fun hg hv => ?adds, fun hg hv => ?overflows, fun hg => ?waits, fun hg => ?refused⟩
  all_goals simp only [hg]
  case adds => rw [Block.tokAdd_of_le hv]
  case overflows => rw [Block.tokAdd_of_lt hv]
  case refused => rfl

/-- Settles O11: what a loop, a wait, a signal and a message come to, each by the cases of its meaning. -/
theorem loopsAndTokens : Obligations.LoopsAndTokens :=
  ⟨loopEntersSkipsOrFaults, tokWaitTakesOrWaits, tokSigAddsOrStandsFenced, tokenMessageArrives⟩

/-! Markers and DESC.SET. -/

theorem isDescSet_of {form w : Nat} (hop : opOf .a w = .descSet) (hf : bits w 47 2 = form) : isDescSet form w = true := by
  simp [isDescSet, hop, hf]

theorem marksAndDescSetWriteOneRegister : claimMarksAndDescSetWriteOneRegister := by
  refine ⟨fun s n c w hr hop => ?marks, fun s n w f hr hop hf h12 hset => ?sets, fun s n w hr hop hf => ?adds,
    fun s n w hr hop hf => ?counts, fun s n w hr hop hf => ?immediates⟩
  case marks => cases c <;> exact onUnit_issue_go hr (beq_iff_eq.2 hop) rfl
  case sets =>
    refine onUnit_issue_go hr (isDescSet_of hop hf) ?_
    simp only [Block.issueDescSet, h12, if_false, hset]
  case adds => exact onUnit_issue_go hr (isDescSet_of hop hf) rfl
  case counts => exact onUnit_issue_go hr (isDescSet_of hop hf) rfl
  case immediates => exact onUnit_issue_go hr (isDescSet_of hop hf) rfl

@[simp] theorem Block.setPin_descs (b : Block) (p : Pin) : (b.setPin p).descs = b.descs := by
  unfold Block.setPin; split <;> rfl

/-- The block that a write of VER leaves before its sequence moves on (R263). -/
def Block.verWritten (b : Block) (q : Seq) (h v : Nat) : Block :=
  let p := b.pin h
  let b1 := b.releasePin h
  let b2 := if p.pending then { b1 with pinq := b1.pinq.map (fun r => if r.req = p.req then { r with sup := true } else r) } else b1
  let b3 := b2.setDesc h (descFix (fVer.set (b.desc h) v))
  if v = 1 then
    let b4 := b3.setPin ⟨h, false, true, 0, fLayer.get (descFix (fVer.set (b.desc h) v)), 0, b.nextReq⟩
    { b4 with
      pinq := b4.pinq ++ [⟨b.nextReq, h, fLayer.get (descFix (fVer.set (b.desc h) v)), false, q, (b.seqr q).pc, .waiting⟩]
      nextReq := b.nextReq + 1 }
  else b3.setPin ⟨h, false, false, 0, 0, 0, 0⟩

/-- Exactly what a write of VER may change before its sequence moves on. -/
theorem Block.verWritten_frame (b : Block) (q : Seq) (h v : Nat) :
    b.verWritten q h v = { b with
      descs := b.descs.set h (descFix (fVer.set (b.desc h) v)), pins := (b.verWritten q h v).pins
      pinq := (b.verWritten q h v).pinq, nextReq := if v = 1 then b.nextReq + 1 else b.nextReq
      rels := if (b.pin h).pinned then b.rels ++ [⟨h, (b.pin h).layer, (b.pin h).slot, b.namers h⟩] else b.rels } := by
  simp only [Block.verWritten, Block.releasePin, Block.setPin, Block.setDesc]
  split_ifs <;> rfl

theorem Block.setVer_go {b : Block} {q : Seq} {h v : Nat} (hp : ¬ ((b.pin h).pending = true ∧ 16 ≤ b.superseded)) :
    b.setVer q h v = .go ((b.verWritten q h v).adv q) := by
  have hp' : ((b.pin h).pending && decide (b.superseded ≥ 16)) = false := by simpa using hp
  simp only [Block.setVer, hp', Block.verWritten, Bool.false_eq_true, if_false]
  split_ifs <;> rfl

theorem Block.setVer_hold {b : Block} {q : Seq} {h v : Nat} (hp : (b.pin h).pending = true ∧ 16 ≤ b.superseded) :
    b.setVer q h v = .hold := by
  simp [Block.setVer, hp.1, hp.2]

theorem Block.verWritten_sameStreams (b : Block) (q : Seq) (h v : Nat) : (b.verWritten q h v).SameStreams b := by
  rw [b.verWritten_frame]
  exact ⟨rfl, rfl, rfl, rfl, rfl, rfl⟩

/-- VER = 1 sends a request of its own. -/
theorem Block.verWritten_asks (b : Block) (q : Seq) (h : Nat) :
    ∃ r ∈ (b.verWritten q h 1).pinq, r.req = b.nextReq ∧ r.h = h ∧ r.ans = .waiting ∧ r.sup = false :=
  ⟨_, List.mem_append_right _ (List.mem_singleton_self _), rfl, rfl, rfl, rfl⟩

theorem descSetVersionRequestsAPin : claimDescSetVersionRequestsAPin := by
  intro s n w hr hop hf h12 b h v p
  have hw := isDescSet_of hop hf
  have hset : b.issueDescSet .a w = b.setVer .a h v := if_pos h12
  refine ⟨fun hp => ?waits, fun hp => ⟨_, onUnit_issue_go hr hw (hset.trans (Block.setVer_go hp)), ?_⟩⟩
  case waits => exact onUnit_issue_hold hr hw (hset.trans (Block.setVer_hold hp))
  have hasks (hv : v = 1) : ∃ r ∈ (b.verWritten .a h v).pinq, r.req = b.nextReq ∧ r.h = h ∧ r.ans = .waiting ∧ r.sup = false := by
    rw [hv]
    exact b.verWritten_asks .a h
  rw [(b.verWritten_sameStreams .a h v).adv_eq, (Block.SameStreams.refl b).adv_eq]
  rw [b.verWritten_frame] at hasks ⊢
  exact ⟨rfl, rfl, rfl, hasks, rfl⟩

/-- Settles O12. -/
theorem marksAndDescriptorWrites : Obligations.MarksAndDescriptorWrites :=
  ⟨marksAndDescSetWriteOneRegister, descSetVersionRequestsAPin⟩

end Sys2Proof.Machine
end

section
/-! PROOFS. The elementwise vector operations: which of two shapes that R120 counts as one binds the other operands. -/

namespace Sys2Proof.Machine

/-- A descriptor of two FP32 elements at `addr`, one to a row: rank, sizes and strides beyond that are `more`. -/
def twoRows (addr more : Nat) : Nat := descFix (addr + 2 ^ 256 + more)

/-- Sizes [1, 2]. -/
def flatRows : Nat := twoRows 1024 (2 * 2 ^ 59 + 2 ^ 152 + 2 ^ 272)

/-- Sizes [1, 1, 2]. -/
def deepRows : Nat := twoRows 2048 (3 * 2 ^ 59 + 2 ^ 176 + 2 ^ 272 + 2 ^ 308)

/-- VOP.ADD of the entry at the head of queue 0 and descriptor 1 into descriptor 2. -/
def queueAndTensor : Nat := 0x40 * 2 ^ 56 + 0x102 * 2 ^ 38 + 0x200 * 2 ^ 27 + 0x101 * 2 ^ 16

/-- Block 0 RUNNING with that word next in context F; the entry holds two rows of one FP32 value. -/
def queueFirstState : State :=
  let s := State.reset
  { s with
    pwr := { s.pwr with crust := true }
    regions := s.regions.map (fun g => { g with st := .run })
    blocks := s.blocks.set 0 { Block.reset with
      st := .running, seqF := { Seqr.zero with word := some queueAndTensor }
      descs := [0, flatRows, deepRows], qs := [⟨⟨false, true, 1, 0⟩, 2, [⟨0, 2, true, none⟩]⟩]
      spad := ⟨[(3, 2)], []⟩ } }

theorem queueFirstState_ready : queueFirstState.ready 0 .f queueAndTensor := by decide +kernel

/-- The tensor's shape binds the destination, and its sizes are others. -/
theorem queueFirstState_faults :
    (queueFirstState.block 0).issueVop .f queueAndTensor 0 false = .fault { ErrI.of 0x14 with handle := 2 } := by
  decide +kernel

/-- The state of block 0 after a command. -/
def Res.blockState (r : Res) : Option BlkSt :=
  match r with
  | .next t => some (t.block 0).st
  | _ => none

theorem queueFirstState_exec_faulted : Res.blockState (exec (.vopAdd 0 .f) queueFirstState) = some .faulted := by
  have hexec : exec (.vopAdd 0 .f) queueFirstState = .next (queueFirstState.blockFault 0 (srcOf .f) 0 { ErrI.of 0x14 with handle := 2 }) :=
    onUnit_issue_fault queueFirstState_ready (by decide +kernel) queueFirstState_faults rfl
  rw [hexec]
  decide +kernel

/-- Refutes O13: it takes the shape of the first operand that has one, and lets an entry's row count stand for the outer sizes of
every descriptor. The tensor's shape binds the destination (R120), and an entry first in order leaves that open: in
`queueFirstState` the entry, the tensor and the destination agree in their two rows, the descriptors' sizes differ, and VOP.ADD
stops the block with VEC_SHAPE. -/
theorem not_elementwiseVops : ¬ Obligations.ElementwiseVops := by
  intro ⟨h, _⟩
  have hexec := h (.vopAdd, 0) List.mem_cons_self queueFirstState 0 .f queueAndTensor false
    (some (.queue 0 ⟨1, [2], true⟩)) (some (.tens flatRows true ⟨1, [2], false⟩)) none (.desc 2 deepRows) ⟨1, [2], true⟩
    queueFirstState_ready (by decide +kernel) (by decide +kernel) (by decide +kernel) (by decide +kernel) (by decide +kernel)
    (by decide +kernel) (by decide +kernel) (by decide +kernel) (by decide +kernel) (by decide +kernel)
  have hst := congrArg Res.blockState hexec
  rw [queueFirstState_exec_faulted] at hst
  revert hst
  decide +kernel

end Sys2Proof.Machine
end

section
/-! PROOFS. The row reductions (R125). -/

namespace Sys2Proof.Machine

theorem Iss.go_bind {α β : Type} (a : α) (f : α → Iss β) : (Iss.go a).bind f = f a := rfl

theorem Block.vsrc_none {b : Block} {ok : List Fmt} {v : Nat} (h : spKind v = 0) : b.vsrc ok v = .go none := by
  simp [Block.vsrc, h]

theorem vecShape_single {h : Nat} {x : VSrc} {sh : Shape} (dst : Option (Nat × Shape)) (hx : x.shape = some sh) :
    vecShape [(h, x)] dst true = some sh := by
  cases x <;> simp_all [vecShape, VSrc.shape]

theorem vecFault_single {h : Nat} {x : VSrc} {sh : Shape} {dst : Option (Nat × Shape)} (hx : x.shape = some sh)
    (hs : sh.same sh = true) (hf : x.fits sh = true) (hd : ∀ t, dst.map Prod.snd = some t → t.same ⟨1, sh.outer, sh.queue⟩ = true) :
    vecFault [(h, x)] dst true sh = none := by
  cases dst with
  | none => simp [vecFault, hx, hs, hf]
  | some ht =>
    have ht' := hd ht.2 rfl
    simp only [Shape.same, Bool.and_eq_true, beq_iff_eq] at ht'
    obtain ⟨hn0, hrest⟩ := ht'
    cases hq : sh.queue
    case false => simp_all [vecFault, Shape.same]; split_ifs at * <;> simp_all [Shape.rows]
    case true => simp_all [vecFault, Shape.same, Shape.rows]

/-- Rows that keep none of the destination's elements go to a queue as they are. -/
theorem map_unkept {l : List (List RElem)} (h : ∀ r ∈ l, ∀ e ∈ r, e.keep = false) :
   l.map (fun r => r.map (fun e => if e.keep then { e with v := .zero false, keep := false } else e)) = l := by
  refine (List.map_congr_left fun r hr => ?_).trans l.map_id
  refine (List.map_congr_left fun e he => ?_).trans r.map_id
  simp [h r hr e he]

/-- A destination descriptor with its handle. -/
def VDst.named : VDst → Option (Nat × Shape)
  | .desc h d => some (h, descShape d)
  | _ => none

/-- A reduction's word on one source: the shape is the source's, nothing faults, and the rows are those of the claim. -/
theorem rowReductionResult : claimRowReductionResult := by
  intro ik hik s n c w bf x dst sh q b hr hop hk1 hk2 hx hsh hdst hss hfit hdsh hroom lanes mask row elem j
  have hred : (decide (23 ≤ ik.2) && decide (ik.2 ≤ 26)) = true := by
    simp only [reductionVops] at hik
    fin_cases hik <;> rfl
  have hbf : vopBf (seqOf c) w = bf := by simp only [vopBf, q] at hop ⊢; rw [hop]
  have hisVop : isVop ik.2 (opOf q w) = true := by simp [isVop, hop]
  have hshape := vecShape_single (h := spVal (bits w 27 11)) dst.named hsh
  have hfault : vecFault [(spVal (bits w 27 11), x)] dst.named true sh = none := by
    refine vecFault_single hsh hss hfit fun t ht => ?_
    cases dst <;> simp_all [VDst.named]
  rw [exec_vop (List.mem_append_right _ hik)]
  refine onUnit_issue_go hr hisVop ?_
  rw [hbf]
  simp only [vopSrcFmts, vopDstFmts] at hx hdst
  simp only [Block.issueVop, List.getD_cons_zero, List.getD_cons_succ, hx, hdst, Block.vsrc_none hk1, Block.vsrc_none hk2,
    Iss.go_bind, b]
  have hunkept : ∀ r ∈ (List.range sh.rows).map (fun r => [elem r]), ∀ e ∈ r, e.keep = false := by simp [elem]
  cases dst
  all_goals
    simp only [VDst.named] at hshape hfault
    simp only [List.map_cons, List.map_nil, List.zip_cons_cons, List.zip_nil_right, List.filterMap_cons, List.filterMap_nil,
      Option.map_some, Option.map_none, id, hred, hshape, hfault, if_true]
  case desc => rfl
  case nothing => rfl
  case queue k f =>
    rw [hroom, Iss.go_bind]
    conv_rhs => rw [← map_unkept hunkept]
    rfl

/-- Settles O14. -/
theorem rowReductions : Obligations.RowReductions := rowReductionResult

end Sys2Proof.Machine
end

section
/-! PROOFS. Code-checked reads and writes of the scratchpad, and the delivery of results (R145, R147, R176). -/

namespace Sys2Proof.Machine

/-! Code-checked reads and the writes that hold them. -/

/-- A read that is recorded changes counters, the events found and the second's corrections. -/
theorem Block.note_frame (b : Block) (m : Mem) (ws : List Nat) (ci kind k : Nat) :
    b.note m ws ci kind k = { b with
      ctr := (b.note m ws ci kind k).ctr, evs := (b.note m ws ci kind k).evs, corrNow := (b.note m ws ci kind k).corrNow } := by
  simp only [Block.note]
  split <;> rfl

@[simp] theorem Block.note_spad (b : Block) (m : Mem) (ws : List Nat) (ci kind k : Nat) :
    (b.note m ws ci kind k).spad = b.spad := by rw [Block.note_frame]

theorem Block.note_nil (b : Block) (m : Mem) (ci kind k : Nat) : b.note m [] ci kind k = b := by
  simp [Block.note, splitWords]

theorem partWords_of_errs_nil {m : Mem} (h : m.errs = []) (rs : List Run) : partWords m rs = [] := by
  simp [partWords, h]

theorem Block.writeR_frame (b : Block) (rs : List Run) :
    b.writeR rs = { b with
      spad := b.spad.writeRuns rs, ctr := (b.writeR rs).ctr, evs := (b.writeR rs).evs, corrNow := (b.writeR rs).corrNow } := by
  simp only [Block.writeR, Block.note_spad]
  rw [Block.note_frame]

/-! Delivery. -/

theorem encodesAnew {rows : List (List RElem)} (h : ∀ r ∈ rows, ∀ e ∈ r, e.keep = false) :
    rows.any (fun r => r.any RElem.keep) = false := by
  simpa using h

/-- Rows that keep nothing of a descriptor's present elements. -/
theorem Block.deliver_desc {rows : List (List RElem)} (hk : ∀ r ∈ rows, ∀ e ∈ r, e.keep = false) (b : Block) (j : Job)
    (h d unit : Nat) :
    b.deliver j (.desc h d) unit rows =
      ((b.writeR (tensWrites d { fmt := dF d, n0 := dN0 d, rows := (encodeRows (dF d) (dSatB d) rows []).1 })).count3 unit
        (encodeRows (dF d) (dSatB d) rows []).2).addJob { j with
          dst := some h, handles := h :: j.handles, done := true
          flags := cntFlags (encodeRows (dF d) (dSatB d) rows []).2 +
            32 * b2n ((encodeRows (dF d) (dSatB d) rows []).1.any (fun r => r.elems.any Prod.snd)) } := by
  simp [Block.deliver, encodesAnew hk, Block.writeT]

theorem find?_append_self {α : Type} {p : α → Bool} {l : List α} {a : α} (h : ∀ x ∈ l, p x = false) (ha : p a = true) :
    (l ++ [a]).find? p = some a := by
  rw [List.find?_append, List.find?_eq_none.2 (by simpa using h)]
  simp [ha]

theorem Block.q_setQ_self {b : Block} {k : Nat} (h : k < b.qs.length) (f : Queue → Queue) : (b.setQ k f).q k = f (b.q k) :=
  getD_updAt_self _ _ _ _ h

/-- An entry reserved for a job is the one that the job fills. -/
theorem Block.fillEntry_reserved {b b2 b3 : Block} {k n id : Nat} (hk : k < b.qs.length)
    (hid : ∀ e ∈ (b.q k).ents, e.job ≠ some id) (hres : b.reserve k n (some id) = some b2) (hqs : b3.qs = b2.qs) (t : Tens) :
    b3.fillEntry k id t = b3.writeR (entRuns (b.q k).cfg (b.q k).next (entBytes t)) := by
  have hq3 : b3.q k = b2.q k := by rw [Block.q, hqs, Block.q]
  have hq := b.q_setQ_self hk (fun q => { q with
    next := (q.next + n) % max 1 (ringWords q.cfg), ents := q.ents ++ [⟨q.next, n, false, some id⟩] })
  simp only [Block.reserve] at hres
  split at hres
  case isFalse => cases hres
  case isTrue =>
    obtain rfl := Option.some.inj hres
    have hfind := find?_append_self (p := fun e : QEnt => e.job == some id) (l := (b.q k).ents)
      (a := ⟨(b.q k).next, n, false, some id⟩) (by simpa using hid) (by simp)
    simp only [Block.fillEntry, hq3, hq, hfind]


@[simp] theorem Block.writeR_qs (b : Block) (rs : List Run) : (b.writeR rs).qs = b.qs := by rw [Block.writeR_frame]
@[simp] theorem Block.writeR_jobs (b : Block) (rs : List Run) : (b.writeR rs).jobs = b.jobs := by rw [Block.writeR_frame]
@[simp] theorem Block.writeR_nextJob (b : Block) (rs : List Run) : (b.writeR rs).nextJob = b.nextJob := by
  rw [Block.writeR_frame]
@[simp] theorem Block.writeR_spad (b : Block) (rs : List Run) : (b.writeR rs).spad = b.spad.writeRuns rs := by
  simp [Block.writeR]

/-- A reservation changes the queues alone. -/
theorem Block.reserve_frame {b b2 : Block} {k n : Nat} {id : Option Nat} (h : b.reserve k n id = some b2) :
    b2 = { b with qs := b2.qs } := by
  simp only [Block.reserve] at h
  split at h
  case isFalse => cases h
  case isTrue =>
    obtain rfl := Option.some.inj h
    rfl

/-- Rows for a queue whose entry has room. -/
theorem Block.deliver_queue {b b2 : Block} {j : Job} {k unit : Nat} {f : Fmt} {rows : List (List RElem)} (hk : k < b.qs.length)
    (hid : ∀ e ∈ (b.q k).ents, e.job ≠ some j.id)
    (hres : b.reserve k (entWords f ((rows.head?.map List.length).getD 0) rows.length) (some j.id) = some b2) :
    b.deliver j (.queue k f) unit rows =
      ((b2.addJob { j with rem := 1 }).writeR (entRuns (b.q k).cfg (b.q k).next (entBytes
        { fmt := f, n0 := (rows.head?.map List.length).getD 0, rows := (encodeRows f false rows []).1 }))).count3 unit
        (encodeRows f false rows []).2 := by
  simp only [Block.deliver, hres]
  rw [Block.fillEntry_reserved hk hid hres (b3 := b2.addJob { j with rem := 1 }) rfl]

/-- Settles O15: both deliveries are a write of runs, with its counts and its job. -/
theorem deliveryWritesOrFillsAnEntry : Obligations.DeliveryWritesOrFillsAnEntry := by
  constructor
  · intro b j h d rows hk rc runs b0 b1
    have hb1 : b1 = ((b.writeR runs).count3 cVec rc.2).addJob _ := b.deliver_desc hk j h d cVec
    rw [hb1]
    refine ⟨b.writeR_spad runs, rfl, by rw [Block.addJob, Block.count3, b.writeR_jobs], ?_, fun he => ?_⟩
    · rw [Block.writeR, show b.note b.spad (partWords b.spad runs) cSpadCorr 0 0 = b0 from rfl, show b0 = _ from b.note_frame ..]
      rfl
    · simp only [b0, partWords_of_errs_nil he, Block.note_nil]
  · intro b j k f rows b2 hk hid n0 hres b1
    have hb1 : b1 = _ := Block.deliver_queue (unit := cVec) hk hid hres
    obtain ⟨qs, rfl⟩ : ∃ qs, b2 = { b with qs := qs } := ⟨_, Block.reserve_frame hres⟩
    rw [hb1, Block.count3, Block.writeR_frame]
    exact ⟨rfl, rfl, rfl, rfl⟩
end Sys2Proof.Machine
end

section
/-! PROOFS. VOP.MSET, VOP.ACC and CVT (R126, R127, R211 to R213). -/

namespace Sys2Proof.Machine

theorem Block.touch_frame (b : Block) (rs : List (Nat × Nat)) :
    b.touch rs = { b with ctr := (b.touch rs).ctr, evs := (b.touch rs).evs, corrNow := (b.touch rs).corrNow } :=
  b.note_frame ..

/-- The block that VOP.MSET leaves before its sequence moves on. -/
def Block.maskLoaded (b : Block) (c : Ctx) (w d : Nat) : Block :=
  { b.touch [(dAddr d, 16)] with
    maskF := if c = .f then b.maskF.set (bits w 1 3) (ofLE (b.spad.read (dAddr d) 16)) else b.maskF
    maskB := if c = .b then b.maskB.set (bits w 1 3) (ofLE (b.spad.read (dAddr d) 16)) else b.maskB
    jobs := b.jobs ++ [{ b.freshJob (seqOf c) w .vec with done := true, handles := [spVal (bits w 27 11)] }]
    nextJob := b.nextJob + 1 }

theorem Block.issueMset_go {b : Block} {c : Ctx} {w d : Nat} (hd : b.operandNow (localSrc allFmts) (spVal (bits w 27 11)) = .go d)
    (hsize : 128 ≤ (dMaxOff d + 1) * (dF d).width) : b.issueMset (seqOf c) w = .go ((b.maskLoaded c w d).adv (seqOf c)) := by
  simp only [Block.issueMset, hd, Iss.go_bind, if_neg (not_lt.2 hsize), Block.maskLoaded, Block.addJob]
  rw [Block.touch_frame]
  cases c <;> rfl

theorem isVop_of {o : Op} {k : Nat} {bf : Bool} (h : o = .vop k bf) : isVop k o = true := by simp [isVop, h]

theorem Iss.bind_of {α β : Type} {x : Iss α} {a : α} {f : α → Iss β} {y : Iss β} (hx : x = .go a) (hf : f a = y) :
    x.bind f = y := by rw [hx]; exact hf

theorem maskSetReadsSixteenBytes : claimMaskSetReadsSixteenBytes := by
  intro s n c w d bf q b h hr hop hd hsize
  refine ⟨_, onUnit_issue_go hr (isVop_of hop) (Block.issueMset_go hd hsize), ?_⟩
  have hstr : (b.maskLoaded c w d).SameStreams b := by
    rw [Block.maskLoaded, Block.touch_frame]
    exact ⟨rfl, rfl, rfl, rfl, rfl, rfl⟩
  rw [hstr.adv_eq, (Block.SameStreams.refl b).adv_eq]
  refine ⟨?_, ?_, ?_⟩
  · rintro rfl
    exact ⟨rfl, rfl⟩
  · rintro rfl
    exact ⟨rfl, rfl⟩
  · simp only [Block.maskLoaded]
    rw [Block.touch_frame]

theorem vopAccAddsRowsToTheTile : claimVopAccAddsRowsToTheTile := by
  intro s n c w bf o sh ds b1 q b f fam af hr hop hsp hdue hsrc hsh hn0 hrows hds htake rows b2 b3 j
  refine onUnit_issue_go hr (isVop_of hop) ?_
  have hfits : (decide (sh.n0 ≠ 32) || decide (sh.rows ≠ (accF w).m)) = false := by simp [hn0, hrows, f]
  have hwait : (b.spilling f.base || b.partialsDue f.base) = false := by simp [hsp, hdue]
  simp only [f, b, fam, af] at hsrc hds htake hwait
  simp only [Block.issueAcc, hwait, hsrc, Iss.go_bind, hsh, hfits, hds, htake, Bool.false_eq_true, if_false]
  rfl

theorem cvtSeedsOrConverts : claimCvtSeedsOrConverts := by
  refine ⟨fun s n c w hr hop hk => ?seeds, ?converts⟩
  case seeds =>
    exact onUnit_issue_go hr (beq_iff_eq.2 hop) (if_pos hk)
  case converts =>
    intro s n c w o dst sh q b sv dsh sf hr hop hsrc hdst hshape hpath hfault hroom seeded drawn mask elem rows j
    refine onUnit_issue_go hr (beq_iff_eq.2 hop) ?_
    have hk : spKind (bits w 27 11) ≠ 0 := by
      intro hk
      rw [Block.vsrc_none hk] at hsrc
      cases hsrc
    refine (if_neg hk).trans (Iss.bind_of hsrc (Iss.bind_of hdst ?_))
    dsimp only
    generalize hv : vecShape _ _ _ = v
    obtain rfl : v = some sh := hv.symm.trans hshape
    have hp : ¬ (!cvtPath sf dst.fmt) = true := by simp [hpath]
    refine (if_neg hp).trans ?_
    generalize hf : vecFault _ _ _ _ = e
    obtain rfl : e = none := hf.symm.trans hfault
    exact Iss.bind_of hroom rfl

/-- Settles O16. -/
theorem masksAccumulateConvert : Obligations.MasksAccumulateConvert :=
  ⟨maskSetReadsSixteenBytes, vopAccAddsRowsToTheTile, cvtSeedsOrConverts⟩
end Sys2Proof.Machine
end

section
/-! PROOFS. The row operations: what they read, keep and deliver, and what a missing lookup does (R129 to R142). -/

namespace Sys2Proof.Machine

/-! Lengths of the rows that a source gives. -/

theorem length_chunksF_le {α : Type} {n k : Nat} (f : Nat) (l : List α) (h : l.length ≤ k * n) :
    (chunksF f n l).length ≤ k := by
  induction f generalizing l k with
  | zero => simp [chunksF]
  | succ f ih =>
    cases l with
    | nil => simp [chunksF]
    | cons a l =>
      cases k with
      | zero => simp at h
      | succ k =>
        have hrest := ih (k := k) ((a :: l).drop n) (by rw [List.length_drop]; rw [Nat.succ_mul] at h; omega)
        simpa [chunksF] using hrest

theorem length_chunks_le {α : Type} {n k : Nat} (hn : 0 < n) {l : List α} (h : l.length ≤ k * n) : (chunks n l).length ≤ k :=
  length_chunksF_le _ l (by rwa [max_eq_left hn])

theorem flatten_chunksF {α : Type} {n : Nat} (hn : 0 < n) (f : Nat) (l : List α) (h : l.length ≤ f) : (chunksF f n l).flatten = l := by
  induction f generalizing l with
  | zero => simp_all [chunksF]
  | succ f ih =>
    cases l with
    | nil => simp [chunksF]
    | cons a l =>
      have hrest := ih ((a :: l).drop n) (by rw [List.length_drop]; simp at h ⊢; omega)
      simp only [chunksF, List.flatten_cons, hrest, List.take_append_drop]

theorem flatten_chunks {α : Type} (n : Nat) (l : List α) : (chunks n l).flatten = l := flatten_chunksF (by omega) _ l le_rfl

theorem length_zip_flatMap_le {α β γ : Type} (g : α × β → α → γ) (ls : List (List α)) (rs : List β) :
    ((ls.zip rs).flatMap (fun cs => cs.1.map (fun e => g (e, cs.2) e))).length ≤ ls.flatten.length := by
  induction ls generalizing rs with
  | nil => simp
  | cons l ls ih =>
    cases rs with
    | nil => simp
    | cons r rs => simpa using ih rs

theorem length_rowVals_le (f : Fmt) (r : TRow) : (rowVals f r).length ≤ r.elems.length := by
  unfold rowVals
  split
  · have := length_zip_flatMap_le (fun (es : El × El) (_ : El) => (f.decode es.2.1 es.1.1, es.1.2 || es.2.2))
      (chunks f.block r.elems) r.scales
    rwa [flatten_chunks] at this
  · simp

theorem length_unpack_le {f : Fmt} {n : Nat} {bs : List PByte} (h : bs.length ≤ n * (f.width / 8) ∨ f = .lg4) :
    (unpack f n bs).length ≤ n := by
  unfold unpack
  split
  · simp
  case isFalse hf =>
    have hw : 0 < f.width / 8 := by
      cases f
      case lg4 => exact (hf rfl).elim
      all_goals decide
    rw [List.length_map]
    exact length_chunks_le hw (h.resolve_right hf)

theorem rowBytes_le (f : Fmt) (n : Nat) : rowBytes f n ≤ n * (f.width / 8) ∨ f = .lg4 := by
  cases f
  case lg4 => exact .inr rfl
  all_goals
    left
    simp only [rowBytes, cdiv, Fmt.width, OfNat.ofNat_ne_zero, if_false]
    omega

@[simp] theorem Mem.length_readP (m : Mem) (off len : Nat) : (m.readP off len).length = len := by
  unfold Mem.readP
  split <;> simp [Mem.raw]

theorem length_flatMap_const {α β : Type} {g : α → List β} {c : Nat} {l : List α} (h : ∀ a ∈ l, (g a).length = c) :
    (l.flatMap g).length = l.length * c := by
  induction l with
  | nil => simp
  | cons a l ih =>
    rw [List.flatMap_cons, List.length_append, h a (by simp), ih (fun x hx => h x (by simp [hx]))]
    simp [Nat.succ_mul, Nat.add_comm]

theorem Block.length_readT_row {b : Block} {d : Nat} {r : TRow} (h : r ∈ (b.readT d).rows) : r.elems.length ≤ dN0 d := by
  simp only [Block.readT, readTens, List.mem_map] at h
  obtain ⟨or, -, rfl⟩ := h
  refine length_unpack_le ?_
  unfold rowRuns
  dsimp only
  split
  · simpa using rowBytes_le (dF d) (dN0 d)
  · left
    rw [length_flatMap_const (c := (dF d).width / 8)]
    · simp
    · simp

theorem length_entTens_row {f : Fmt} {n0 n1 : Nat} {p : Bool} {bs : List PByte} {r : TRow}
    (h : r ∈ (entTens f n0 n1 p bs).rows) : r.elems.length ≤ n0 := by
  simp only [entTens, List.mem_map] at h
  obtain ⟨i, -, rfl⟩ := h
  rw [List.length_map]
  refine length_unpack_le ((rowBytes_le f n0).imp_left fun hb => ?_)
  rw [List.length_take]
  omega


/-! What the row engine leaves of a block. -/

theorem Iss.bind_eq_go {α β : Type} {x : Iss α} {f : α → Iss β} {y : β} : x.bind f = .go y ↔ ∃ a, x = .go a ∧ f a = .go y := by
  cases x <;> simp [Iss.bind]

/-- A block changed in its side memory and in its records of reads alone. -/
def Block.SideKept (a b : Block) : Prop :=
  ∃ sideV sideT ctr evs corrNow, a = { b with sideV := sideV, sideT := sideT, ctr := ctr, evs := evs, corrNow := corrNow }

/-- A block changed in its scratchpad, its side memory and its records of reads alone. -/
def Block.StoresKept (a b : Block) : Prop :=
  ∃ spad sideV sideT ctr evs corrNow,
    a = { b with spad := spad, sideV := sideV, sideT := sideT, ctr := ctr, evs := evs, corrNow := corrNow }

theorem Block.SideKept.refl (b : Block) : b.SideKept b := ⟨_, _, _, _, _, rfl⟩

theorem Block.SideKept.trans {a b c : Block} (h : a.SideKept b) (h' : b.SideKept c) : a.SideKept c := by
  obtain ⟨_, _, _, _, _, rfl⟩ := h'
  obtain ⟨_, _, _, _, _, rfl⟩ := h
  exact ⟨_, _, _, _, _, rfl⟩

theorem Block.SideKept.spad {a b : Block} (h : a.SideKept b) : a.spad = b.spad := by
  obtain ⟨_, _, _, _, _, rfl⟩ := h
  rfl

theorem Block.SideKept.stores {a b : Block} (h : a.SideKept b) : a.StoresKept b := ⟨b.spad, h⟩

theorem Block.StoresKept.trans {a b c : Block} (h : a.StoresKept b) (h' : b.StoresKept c) : a.StoresKept c := by
  obtain ⟨_, _, _, _, _, _, rfl⟩ := h'
  obtain ⟨_, _, _, _, _, _, rfl⟩ := h
  exact ⟨_, _, _, _, _, _, rfl⟩

/-- A fold of steps that each change no more changes no more. -/
theorem Block.SideKept.foldl {α : Type} {f : Block → α → Block} (hf : ∀ b x, (f b x).SideKept b) (l : List α) (b : Block) :
    (l.foldl f b).SideKept b := by
  induction l generalizing b with
  | nil => exact .refl b
  | cons x l ih => exact (ih _).trans (hf b x)

theorem Block.note_sideKept (b : Block) (m : Mem) (ws : List Nat) (ci kind k : Nat) : (b.note m ws ci kind k).SideKept b :=
  ⟨_, _, _, _, _, b.note_frame m ws ci kind k⟩

theorem Block.count_sideKept (b : Block) (i n : Nat) : (b.count i n).SideKept b := ⟨_, _, _, _, _, rfl⟩

theorem Block.setTag_sideKept (b : Block) (i key kind : Nat) (valid : Bool) : (b.setTag i key kind valid).SideKept b :=
  ⟨_, _, _, _, _, rfl⟩

theorem Block.setSideV_sideKept (b : Block) (m : Mem) : { b with sideV := m }.SideKept b := ⟨_, _, _, _, _, rfl⟩

theorem Block.touchSlots_sideKept (b : Block) (is : List Nat) : (b.touchSlots is).SideKept b :=
  (Block.note_sideKept _ _ _ _ _ _).trans (Block.note_sideKept _ _ _ _ _ _)

theorem Block.writeSlot_sideKept (b : Block) (i key kind : Nat) (valid : Bool) (vs : List Byte) :
    (b.writeSlot i key kind valid vs).SideKept b :=
  (Block.setSideV_sideKept _ _).trans ((Block.setTag_sideKept _ _ _ _ _).trans (b.touchSlots_sideKept [i]))

theorem Block.putSlot_sideKept (b : Block) (i key kind v0 v1 : Nat) : (b.putSlot i key kind v0 v1).SideKept b := by
  unfold Block.putSlot
  dsimp only
  split
  · exact (Block.writeSlot_sideKept _ _ _ _ _ _).trans (b.count_sideKept _ _)
  · exact b.writeSlot_sideKept _ _ _ _ _

theorem Block.keepStat_sideKept (b : Block) (key slot : Nat) (r : RowRes × Bool) : (b.keepStat key slot r).SideKept b := by
  unfold Block.keepStat
  split
  · dsimp only
    split
    · exact (Block.setSideV_sideKept _ _).trans (b.putSlot_sideKept ..)
    · exact b.putSlot_sideKept ..
  · exact .refl b

theorem Block.dropBad_sideKept (b : Block) (is : List Nat) : (b.dropBad is).SideKept b :=
  Block.SideKept.foldl (fun bb _ => bb.setTag_sideKept ..) _ _

theorem Block.writeT_storesKept (b : Block) (d : Nat) (t : Tens) : (b.writeT d t).StoresKept b :=
  ⟨_, _, _, _, _, _, b.writeR_frame _⟩

theorem Block.putVec_storesKept (b : Block) (d : Nat) (vs : List (Val × Bool)) : (b.putVec d vs).1.StoresKept b :=
  b.writeT_storesKept ..

/-- Where one of two changes is made, and both are of this kind, so is what is made. -/
theorem Block.SideKept.ite {a a' b : Block} {c : Prop} [Decidable c] (h : a.SideKept b) (h' : a'.SideKept b) :
    (if c then a else a').SideKept b := by
  split
  · exact h
  · exact h'

theorem Block.touch_sideKept (b : Block) (rs : List (Nat × Nat)) : (b.touch rs).SideKept b := b.note_sideKept ..

/-- Rows of a ROW operation as its lanes give them. -/
def rowLanes (sat : Bool) (res : List (RowRes × Bool)) : List (List RElem) :=
  res.map (fun rb => rb.1.y.map (fun v =>
    ({ v := (laneRes false sat v).1, bad := rb.2, cnt := (laneRes false sat v).2 } : RElem)))

/-- A ROW operation ends in the delivery of its rows; what comes before changes stores, and the scratchpad only where there is a
row vector or an x̂ to write. -/
theorem Block.rowFinish_eq (b : Block) (q : Seq) (w k : Nat) (o : RowOps) :
    ∃ (b6 : Block) (c2 c3 : Cnt) (hs : List Nat) (fl : Job → Nat) (more : Job → List (Nat × Nat)),
      b6.StoresKept (b.consume o.x) ∧ (k ≠ 6 → bit w 6 = false → b6.spad = (b.consume o.x).spad) ∧
      b.rowFinish q w k o =
        (((((b6.deliver { b.freshJob q w .vec with handles := hs } o.dst cVec (rowLanes o.dst.sat (b.rowResults w k o))).count3
          cVec c2).count3 cVec c3).count cRows o.s.rows).updJob b.nextJob (fun x => { x with flags := fl x, more := more x })).adv q := by
  simp only [Block.rowFinish]
  generalize hb1 : (b.consume o.x).touch _ = b1
  generalize hb4 : (if rowLooks k (bit w 4) = true then Block.dropBad _ _ else _) = b4
  generalize hp5 : (if k = 6 then Block.putVec b4 _ _ else (b4, _)) = p5
  generalize hp6 : (if (bit w 6 && (k == 1 || k == 3)) = true then (_, _) else (p5.1, _)) = p6
  have hb1s : b1.SideKept (b.consume o.x) := hb1 ▸ Block.touch_sideKept _ _
  have hb4s : b4.SideKept b1 := by
    have hread (is : List Nat) : (if rowLooks k (bit w 4) = true then b1.touchSlots is else b1).SideKept b1 :=
      .ite (b1.touchSlots_sideKept is) (.refl b1)
    have hstat (krs : List ((Nat × Nat) × RowRes × Bool)) (b2 : Block) :
        (krs.foldl (fun bb kr => bb.keepStat kr.1.1 kr.1.2 kr.2) b2).SideKept b2 :=
      .foldl (fun bb kr => bb.keepStat_sideKept kr.1.1 kr.1.2 kr.2) krs b2
    rw [← hb4]
    exact .ite ((Block.dropBad_sideKept _ _).trans ((hstat _ _).trans (hread _))) ((hstat _ _).trans (hread _))
  have hp5s : p5.1.StoresKept b4 ∧ (k ≠ 6 → p5.1 = b4) := by
    rw [← hp5]
    split
    case isTrue hk => exact ⟨b4.putVec_storesKept _ _, fun h => (h hk).elim⟩
    case isFalse => exact ⟨(Block.SideKept.refl b4).stores, fun _ => rfl⟩
  have hp6s : p6.1.StoresKept p5.1 ∧ (bit w 6 = false → p6.1 = p5.1) := by
    rw [← hp6]
    split
    case isTrue hx => exact ⟨p5.1.writeT_storesKept _ _, fun h => by simp [h] at hx⟩
    case isFalse => exact ⟨(Block.SideKept.refl p5.1).stores, fun _ => rfl⟩
  have hb4c := hb4s.trans hb1s
  refine ⟨p6.1, p5.2, p6.2, _, _, _, hp6s.1.trans (hp5s.1.trans hb4c.stores), fun hk hx => ?_, rfl⟩
  rw [hp6s.2 hx, hp5s.2 hk, hb4c.spad]

/-! What a source that is consumed leaves. -/

theorem Queue.used_eq (q : Queue) : q.used = (q.ents.map QEnt.words).sum := by
  have hfold (l : List QEnt) (n : Nat) : l.foldl (fun a e => a + e.words) n = n + (l.map QEnt.words).sum := by
    induction l generalizing n with
    | nil => simp
    | cons e l ih => rw [List.foldl_cons, ih, List.map_cons, List.sum_cons]; omega
  rw [Queue.used, hfold, Nat.zero_add]

theorem Queue.used_drop_le (q : Queue) : Queue.used { q with ents := q.ents.drop 1 } ≤ q.used := by
  rw [Queue.used_eq, Queue.used_eq]
  cases q.ents <;> simp

theorem Block.q_setQ_other {b : Block} {k i : Nat} (h : i ≠ k) (f : Queue → Queue) : (b.setQ k f).q i = b.q i :=
  getD_updAt_other _ _ _ _ _ h

theorem Block.q_setQ_beyond {b : Block} {k : Nat} (h : b.qs.length ≤ k) (f : Queue → Queue) : (b.setQ k f).q k = b.q k := by
  have hnil : (updAt b.qs k f)[k]? = none := by rw [List.getElem?_eq_none_iff, length_updAt]; exact h
  rw [Block.q, Block.q, Block.setQ, List.getD_eq_getElem?_getD, List.getD_eq_getElem?_getD, hnil,
    List.getElem?_eq_none_iff.2 h]

/-- A queue set up as before with no more of its ring in use. -/
def Queue.freer (q q' : Queue) : Prop := q.cfg = q'.cfg ∧ q.used ≤ q'.used

theorem Block.setQ_freer {b : Block} {k : Nat} {f : Queue → Queue} (hf : (f (b.q k)).freer (b.q k)) (i : Nat) :
    ((b.setQ k f).q i).freer (b.q i) := by
  by_cases hi : i = k
  · subst hi
    by_cases hlen : i < b.qs.length
    · rw [b.q_setQ_self hlen]
      exact hf
    · rw [b.q_setQ_beyond (by omega)]
      exact ⟨rfl, le_rfl⟩
  · rw [b.q_setQ_other hi]
    exact ⟨rfl, le_rfl⟩

/-- What a block has after an entry was taken from a queue, or none: its queues as they were or one entry shorter. -/
def Block.Consumed (a b : Block) : Prop :=
  ∃ qs, a.SideKept { b with qs := qs } ∧ ∀ i, (a.q i).freer (b.q i)

theorem Block.Consumed.of_sideKept {a b : Block} (h : a.SideKept b) : a.Consumed b := by
  refine ⟨b.qs, h, fun i => ?_⟩
  obtain ⟨_, _, _, _, _, rfl⟩ := h
  exact ⟨rfl, le_rfl⟩

theorem Block.popEntry_consumed {b b' : Block} {k : Nat} {t : Tens} (h : b.popEntry k = some (t, b')) : b'.Consumed b := by
  unfold Block.popEntry at h
  split at h
  case h_1 => cases h
  case h_2 e he =>
    dsimp only at h
    split at h
    case h_1 => cases h
    case h_2 =>
      obtain ⟨-, rfl⟩ := Prod.mk.inj (Option.some.inj h)
      have hkept := b.touch_sideKept (ringRuns (b.q k).cfg e.off e.words)
      generalize b.touch _ = b1 at hkept
      obtain ⟨_, _, _, _, _, rfl⟩ := hkept
      exact ⟨_, ⟨_, _, _, _, _, rfl⟩, Block.setQ_freer (k := k) ⟨rfl, Queue.used_drop_le _⟩⟩

theorem Block.consume_consumed (b : Block) (o : VSrc) : (b.consume o).Consumed b := by
  unfold Block.consume
  cases o with
  | tens d _ _ => exact .of_sideKept (b.touch_sideKept _)
  | rowB d => exact .of_sideKept (b.touch_sideKept _)
  | colB d => exact .of_sideKept (b.touch_sideKept _)
  | imm v => exact .of_sideKept (.refl b)
  | queue k s =>
    dsimp only
    split
    case h_1 hpop => exact Block.popEntry_consumed hpop
    case h_2 => exact .of_sideKept (.refl b)

/-! Operands that have resolved. -/

theorem Iss.eq_go_of_againstX {α : Type} {r : Iss α} {s : Shape} {xv : Nat} {a : α} (h : r.againstX s xv = .go a) : r = .go a := by
  cases r with
  | fault e =>
    simp only [Iss.againstX] at h
    split at h <;> cases h
  | hold => exact h
  | go a => exact h

/-- The shape of a source is its descriptor's, or the one that its entry's header gives. -/
theorem Block.vsrc_shape {b : Block} {ok : List Fmt} {v : Nat} {o : VSrc} {s : Shape} (ho : b.vsrc ok v = .go (some o))
    (hs : o.shape = some s) :
    (∃ d k, o = .tens d k s ∧ s.n0 = dN0 d) ∨
      ∃ k f n0 n1 p, o = .queue k s ∧ s.n0 = n0 ∧ b.headFields k = some (some (f, n0, n1, p)) := by
  unfold Block.vsrc at ho
  dsimp only at ho
  split at ho
  · cases ho
  · cases ho
    cases hs
  · split at ho
    case h_1 => cases ho
    case h_2 => cases ho
    case h_3 f n0 n1 p hf =>
      split at ho
      · cases ho
        cases hs
        exact .inr ⟨_, f, n0, n1, p, rfl, rfl, hf⟩
      · cases ho
  · obtain ⟨d, -, ho⟩ := Iss.bind_eq_go.1 ho
    split_ifs at ho
    all_goals
      cases ho
      cases hs
    exact .inl ⟨d, true, rfl, rfl⟩

/-- An entry's tensor has the sizes of its header. -/
theorem Block.popEntry_length_le {b b' : Block} {k n0 n1 : Nat} {f : Fmt} {p : Bool} {t : Tens}
    (hf : b.headFields k = some (some (f, n0, n1, p))) (h : b.popEntry k = some (t, b')) {r : TRow} (hr : r ∈ t.rows) :
    r.elems.length ≤ n0 := by
  obtain ⟨e, he, hfe⟩ := Option.map_eq_some_iff.1 hf
  simp only [Block.popEntry, he, hfe] at h
  obtain ⟨rfl, -⟩ := Prod.mk.inj (Option.some.inj h)
  exact length_entTens_row hr

/-- The rows of a source with a shape of its own are no longer than that shape's. -/
theorem VSrc.length_get_le {b : Block} {ok : List Fmt} {v : Nat} {o : VSrc} {s s' : Shape} (ho : b.vsrc ok v = .go (some o))
    (hs : o.shape = some s) {r : List (Val × Bool)} (hr : r ∈ o.get b s') : r.length ≤ s.n0 := by
  obtain ⟨d, k, rfl, hn0⟩ | ⟨k, f, n0, n1, p, rfl, hn0, hf⟩ := Block.vsrc_shape ho hs
  · obtain ⟨t, ht, rfl⟩ := List.mem_map.1 hr
    exact (length_rowVals_le _ _).trans (hn0 ▸ Block.length_readT_row ht)
  · simp only [VSrc.get] at hr
    split at hr
    case h_1 t b' hpop =>
      obtain ⟨u, hu, rfl⟩ := List.mem_map.1 hr
      exact (length_rowVals_le _ _).trans (hn0 ▸ Block.popEntry_length_le hf hpop hu)
    case h_2 => simp at hr

theorem Block.rowX_go {b : Block} {qx : Bool} {v : Nat} {o : VSrc} {s : Shape} (h : b.rowX qx v = .go (o, s)) :
    ∃ sp, b.vsrc [.fp32, .bf16] sp = .go (some o) ∧ o.shape = some s := by
  obtain ⟨o', ho', h⟩ := Iss.bind_eq_go.1 h
  cases o' with
  | none => cases h
  | some o' =>
    dsimp only at h
    cases hs : o'.shape with
    | none => rw [hs] at h; cases h
    | some s' =>
      rw [hs] at h
      obtain ⟨rfl, rfl⟩ := Prod.mk.inj (Iss.go.inj h)
      exact ⟨_, ho', hs⟩

theorem Block.rowY_queue {b : Block} {qy : Bool} {v k : Nat} {f : Fmt} {s : Shape} (h : b.rowY qy v s = .go (.queue k f)) :
    f = .fp32 ∧ b.room (.queue k .fp32) s.n0 s.rows = .go () := by
  unfold Block.rowY at h
  split at h
  · obtain ⟨_, hroom, h⟩ := Iss.bind_eq_go.1 h
    cases h
    exact ⟨rfl, hroom⟩
  · obtain ⟨d, -, h⟩ := Iss.bind_eq_go.1 h
    split at h <;> cases h

/-- What of the operands the results depend on: X has the shape, and a queue has room for Y. -/
theorem Block.rowOps_go {b : Block} {w k : Nat} {o : RowOps} (h : b.rowOps w k = .go o) :
    (∃ sp, b.vsrc [.fp32, .bf16] sp = .go (some o.x) ∧ o.x.shape = some o.s) ∧
      ∃ qy v, b.rowY qy v o.s = .go o.dst := by
  obtain ⟨⟨x, s⟩, hx, h⟩ := Iss.bind_eq_go.1 h
  obtain ⟨gd, -, h⟩ := Iss.bind_eq_go.1 h
  obtain ⟨bd, -, h⟩ := Iss.bind_eq_go.1 h
  obtain ⟨dyd, -, h⟩ := Iss.bind_eq_go.1 h
  obtain ⟨ad, -, h⟩ := Iss.bind_eq_go.1 h
  obtain ⟨xd, -, h⟩ := Iss.bind_eq_go.1 h
  obtain ⟨dst, hdst, h⟩ := Iss.bind_eq_go.1 h
  cases h
  exact ⟨Block.rowX_go hx, _, _, Iss.eq_go_of_againstX hdst⟩

theorem rowWork_length_le (k : Nat) (first : Bool) (c : Val) {x z : List Val} (g be dy : List Val) (v0 v1 : Nat) {m : Nat}
    (hx : x.length ≤ m) (hz : z.length ≤ m) : (rowWork k first c x z g be dy v0 v1).y.length ≤ m := by
  unfold rowWork
  split
  case h_7 => split <;> simpa [rowSmCh] using hz
  all_goals
    simp only [rowLnF, rowB, rowRmsF, rowSmF, rowSmB, List.length_map, List.length_zip]
    omega

@[simp] theorem smScaled_length (sigma : Val) (causal : Bool) (off : Int) (i : Nat) (xs : List Val) :
    (smScaled sigma causal off i xs).length = xs.length := by simp [smScaled]

/-- The rows of a ROW operation, as its lanes give them, are as many as X's and no longer. -/
theorem Block.length_rowResults (b : Block) (w k : Nat) (o : RowOps) : (b.rowResults w k o).length = o.s.rows := by
  simp [Block.rowResults]

theorem Block.rowResults_length_le {b : Block} {w k m : Nat} {o : RowOps} (hx : ∀ r ∈ o.x.get b o.s, r.length ≤ m)
    {rb : RowRes × Bool} (h : rb ∈ b.rowResults w k o) : rb.1.y.length ≤ m := by
  simp only [Block.rowResults, List.mem_map] at h
  obtain ⟨i, -, rfl⟩ := h
  have hrow : ((o.x.get b o.s).getD i []).length ≤ m := by
    by_cases hi : i < (o.x.get b o.s).length
    · rw [List.getD_eq_getElem _ _ hi]
      exact hx _ (List.getElem_mem hi)
    · rw [List.getD_eq_default _ _ (by omega)]
      exact Nat.zero_le m
  exact rowWork_length_le _ _ _ _ _ _ _ _ (by simpa using hrow) (by simpa using hrow)

/-! The delivery of its rows. -/

/-- A block changed in its stores, queues and jobs and in its records of reads alone. -/
def Block.RowKept (a b : Block) : Prop :=
  ∃ spad sideV sideT qs ctr jobs nextJob evs corrNow, a = { b with
    spad := spad, sideV := sideV, sideT := sideT, qs := qs, ctr := ctr, jobs := jobs, nextJob := nextJob, evs := evs
    corrNow := corrNow }

theorem Block.RowKept.trans {a b c : Block} (h : a.RowKept b) (h' : b.RowKept c) : a.RowKept c := by
  obtain ⟨_, _, _, _, _, _, _, _, _, rfl⟩ := h'
  obtain ⟨_, _, _, _, _, _, _, _, _, rfl⟩ := h
  exact ⟨_, _, _, _, _, _, _, _, _, rfl⟩

theorem Block.StoresKept.rowKept {a b : Block} (h : a.StoresKept b) : a.RowKept b := by
  obtain ⟨_, _, _, _, _, _, rfl⟩ := h
  exact ⟨_, _, _, _, _, _, _, _, _, rfl⟩

theorem Block.Consumed.rowKept {a b : Block} (h : a.Consumed b) : a.RowKept b := by
  obtain ⟨_, ⟨_, _, _, _, _, rfl⟩, _⟩ := h
  exact ⟨_, _, _, _, _, _, _, _, _, rfl⟩

theorem Block.count3_rowKept (b : Block) (i : Nat) (c : Cnt) : (b.count3 i c).RowKept b := ⟨_, _, _, _, _, _, _, _, _, rfl⟩
theorem Block.count_rowKept (b : Block) (i n : Nat) : (b.count i n).RowKept b := ⟨_, _, _, _, _, _, _, _, _, rfl⟩
theorem Block.updJob_rowKept (b : Block) (id : Nat) (f : Job → Job) : (b.updJob id f).RowKept b :=
  ⟨_, _, _, _, _, _, _, _, _, rfl⟩
theorem Block.addJob_rowKept (b : Block) (j : Job) : (b.addJob j).RowKept b := ⟨_, _, _, _, _, _, _, _, _, rfl⟩

@[simp] theorem Block.count3_jobs (b : Block) (i : Nat) (c : Cnt) : (b.count3 i c).jobs = b.jobs := rfl
@[simp] theorem Block.count3_nextJob (b : Block) (i : Nat) (c : Cnt) : (b.count3 i c).nextJob = b.nextJob := rfl
@[simp] theorem Block.count3_spad (b : Block) (i : Nat) (c : Cnt) : (b.count3 i c).spad = b.spad := rfl
@[simp] theorem Block.count_jobs (b : Block) (i n : Nat) : (b.count i n).jobs = b.jobs := rfl
@[simp] theorem Block.count_nextJob (b : Block) (i n : Nat) : (b.count i n).nextJob = b.nextJob := rfl
@[simp] theorem Block.count_spad (b : Block) (i n : Nat) : (b.count i n).spad = b.spad := rfl
@[simp] theorem Block.updJob_nextJob (b : Block) (id : Nat) (f : Job → Job) : (b.updJob id f).nextJob = b.nextJob := rfl
@[simp] theorem Block.updJob_spad (b : Block) (id : Nat) (f : Job → Job) : (b.updJob id f).spad = b.spad := rfl
theorem Block.updJob_jobs (b : Block) (id : Nat) (f : Job → Job) :
    (b.updJob id f).jobs = b.jobs.map (fun j => if j.id = id then f j else j) := rfl

/-- A block so changed moves a sequence on as it did before. -/
theorem Block.RowKept.adv_eq {a b : Block} (h : a.RowKept b) (q : Seq) :
    a.adv q = { b.adv q with
      spad := a.spad, sideV := a.sideV, sideT := a.sideT, qs := a.qs, ctr := a.ctr, jobs := a.jobs, nextJob := a.nextJob
      evs := a.evs, corrNow := a.corrNow } := by
  have hs : a.SameStreams b := by
    obtain ⟨_, _, _, _, _, _, _, _, _, rfl⟩ := h
    exact ⟨rfl, rfl, rfl, rfl, rfl, rfl⟩
  rw [hs.adv_eq q, (Block.SameStreams.refl b).adv_eq q]
  obtain ⟨_, _, _, _, _, _, _, _, _, rfl⟩ := h
  rfl

theorem Block.fillEntry_frame (b : Block) (k id : Nat) (t : Tens) :
    ∃ spad ctr evs corrNow, b.fillEntry k id t = { b with spad := spad, ctr := ctr, evs := evs, corrNow := corrNow } := by
  unfold Block.fillEntry
  dsimp only
  split
  · exact ⟨_, _, _, _, b.writeR_frame _⟩
  · exact ⟨_, _, _, _, rfl⟩

/-- What a delivery comes to, whatever the destination is: one job more, and a descriptor's rows in the scratchpad. -/
theorem Block.deliver_frame {b : Block} {j : Job} {dst : VDst} {unit : Nat} {rows : List (List RElem)}
    (hk : ∀ r ∈ rows, ∀ e ∈ r, e.keep = false)
    (hroom : ∀ k f, dst = .queue k f → ∃ b2, b.reserve k (entWords f ((rows.head?.map List.length).getD 0) rows.length)
      (some j.id) = some b2) :
    ∃ j',
      (b.deliver j dst unit rows).RowKept b ∧ (b.deliver j dst unit rows).jobs = b.jobs ++ [j'] ∧
      (b.deliver j dst unit rows).nextJob = b.nextJob + 1 ∧
      (j'.id = j.id ∧ j'.tok = j.tok ∧ j'.kind = j.kind) ∧
      (∀ h d, dst = .desc h d → j'.done = true ∧ j'.dst = some h ∧ (b.deliver j dst unit rows).spad =
        b.spad.writeRuns (tensWrites d { fmt := dF d, n0 := dN0 d, rows := (encodeRows (dF d) (dSatB d) rows []).1 })) ∧
      (∀ k f, dst = .queue k f → j'.done = j.done ∧ j'.rem = 1) := by
  cases dst with
  | nothing => exact ⟨_, b.addJob_rowKept _, rfl, rfl, ⟨rfl, rfl, rfl⟩, fun _ _ h => (nomatch h), fun _ _ h => (nomatch h)⟩
  | desc h d =>
    rw [Block.deliver_desc hk, Block.addJob, Block.count3, Block.writeR_frame]
    refine ⟨_, ⟨_, _, _, _, _, _, _, _, _, rfl⟩, rfl, rfl, ⟨rfl, rfl, rfl⟩, fun h' d' hd => ?_, fun _ _ hq => (nomatch hq)⟩
    cases hd
    exact ⟨rfl, rfl, rfl⟩
  | queue k f =>
    obtain ⟨b2, hres⟩ := hroom k f rfl
    obtain ⟨qs, rfl⟩ : ∃ qs, b2 = { b with qs := qs } := ⟨_, Block.reserve_frame hres⟩
    obtain ⟨_, _, _, _, hfill⟩ := Block.fillEntry_frame ({ b with qs := qs }.addJob { j with rem := 1 }) k j.id
      ⟨f, (rows.head?.map List.length).getD 0, (encodeRows f false rows []).1⟩
    simp only [Block.deliver, hres, hfill]
    exact ⟨{ j with rem := 1 }, ⟨_, _, _, _, _, _, _, _, _, rfl⟩, rfl, rfl, ⟨rfl, rfl, rfl⟩, fun _ _ hd => (nomatch hd),
      fun _ _ _ => ⟨rfl, rfl⟩⟩

theorem Block.reserve_of_room {a b : Block} {k n w : Nat} (h : (a.q k).freer (b.q k)) (hroom : (b.q k).used + w ≤ ringWords (b.q k).cfg)
    (hn : n ≤ w) (id : Option Nat) : ∃ b2, a.reserve k n id = some b2 := by
  refine ⟨_, if_pos ?_⟩
  rw [h.1]
  exact (Nat.add_le_add h.2 hn).trans hroom

theorem cdiv_le_cdiv {a b : Nat} (h : a ≤ b) (c : Nat) : cdiv a c ≤ cdiv b c := by
  unfold cdiv
  split
  · exact le_rfl
  · exact Nat.div_le_div_right (by omega)

theorem entWords_fp32_le {m n : Nat} (h : m ≤ n) (r : Nat) : entWords .fp32 m r ≤ entWords .fp32 n r := by
  have hrow : rowBytes .fp32 m ≤ rowBytes .fp32 n := cdiv_le_cdiv (Nat.mul_le_mul_right _ h) 8
  have hscales : rowScales .fp32 m = rowScales .fp32 n := rfl
  have hwords := cdiv_le_cdiv (Nat.mul_le_mul_left r hrow) 32
  rw [entWords, entWords, hscales]
  omega

theorem Block.room_queue {b : Block} {k n0 n1 : Nat} {f : Fmt} (h : b.room (.queue k f) n0 n1 = .go ()) :
    (b.q k).used + entWords f n0 n1 ≤ ringWords (b.q k).cfg := by
  simp only [Block.room] at h
  split_ifs at h
  omega

/-- Where the operands resolved, the queue that Y names still has room once the reads are done. -/
theorem Block.rowOps_reserve {b b6 : Block} {w k : Nat} {o : RowOps} (hops : b.rowOps w k = .go o)
    (h6 : b6.StoresKept (b.consume o.x)) (id : Nat) :
    ∀ qn f, o.dst = .queue qn f → ∃ b2, b6.reserve qn
      (entWords f (((rowLanes o.dst.sat (b.rowResults w k o)).head?.map List.length).getD 0)
        (rowLanes o.dst.sat (b.rowResults w k o)).length) (some id) = some b2 := by
  intro qn f hdst
  obtain ⟨⟨sp, hx, hshape⟩, qy, v, hy⟩ := Block.rowOps_go hops
  rw [hdst] at hy
  obtain ⟨rfl, hroom⟩ := Block.rowY_queue hy
  obtain ⟨qs, hkept, hq⟩ := b.consume_consumed o.x
  have hfree : (b6.q qn).freer (b.q qn) := by
    obtain ⟨_, _, _, _, _, _, rfl⟩ := h6
    exact hq qn
  refine Block.reserve_of_room hfree (Block.room_queue hroom) ?_ _
  have hlen : (rowLanes o.dst.sat (b.rowResults w k o)).length = o.s.rows := by
    rw [rowLanes, List.length_map, Block.length_rowResults]
  rw [hlen]
  refine entWords_fp32_le ?_ _
  rw [rowLanes, List.head?_map, Option.map_map]
  cases hhead : (b.rowResults w k o).head? with
  | none => exact Nat.zero_le _
  | some rb =>
    have hle := Block.rowResults_length_le (fun r hr => VSrc.length_get_le hx hshape hr) (List.mem_of_head? hhead)
    simpa using hle

theorem rowLanes_unkept (sat : Bool) (res : List (RowRes × Bool)) : ∀ r ∈ rowLanes sat res, ∀ e ∈ r, e.keep = false := by
  intro r hr e he
  obtain ⟨rb, -, rfl⟩ := List.mem_map.1 hr
  obtain ⟨v, -, rfl⟩ := List.mem_map.1 he
  rfl

theorem Block.updJob_append_fresh {l : List Job} {j : Job} {id : Nat} (hid : j.id = id) (f : Job → Job)
    (hl : ∀ x ∈ l, x.id ≠ id) : (l ++ [j]).map (fun x => if x.id = id then f x else x) = l ++ [f j] := by
  have hmap : l.map (fun x => if x.id = id then f x else x) = l :=
    (List.map_congr_left fun x hx => if_neg (hl x hx)).trans (List.map_id' l)
  simp [hid, hmap]

/-- What a ROW operation comes to: its frame, its job, and where Y is. -/
theorem Block.rowFinish_frame {b : Block} {q : Seq} {w k : Nat} {o : RowOps} (hops : b.rowOps w k = .go o) :
    ∃ (b1 : Block) (j : Job),
      b.rowFinish q w k o = b1.adv q ∧ b1.RowKept b ∧ b1.nextJob = b.nextJob + 1 ∧
      b1.jobs.getLast? = some j ∧ ((∀ x ∈ b.jobs, x.id ≠ b.nextJob) → b1.jobs = b.jobs ++ [j]) ∧
      (j.id = b.nextJob ∧ j.tok = tokOf q w ∧ j.kind = .vec) ∧
      (∀ h d, o.dst = .desc h d → j.done = true ∧ j.dst = some h ∧ (k ≠ 6 → bit w 6 = false →
        b1.spad = b.spad.writeRuns (tensWrites d
          { fmt := dF d, n0 := dN0 d
            rows := (encodeRows (dF d) (dSatB d) (rowLanes o.dst.sat (b.rowResults w k o)) []).1 }))) ∧
      (∀ qn f, o.dst = .queue qn f → j.done = false ∧ j.rem = 1) := by
  obtain ⟨b6, c2, c3, hs, fl, more, h6, hspad, heq⟩ := b.rowFinish_eq q w k o
  obtain ⟨j, hkept, hjobs, hnext, ⟨hid, htok, hkind⟩, hdesc, hqueue⟩ := Block.deliver_frame (unit := cVec)
    (j := { b.freshJob q w .vec with handles := hs }) (rowLanes_unkept o.dst.sat (b.rowResults w k o)) (Block.rowOps_reserve hops h6 _)
  have hcons := b.consume_consumed o.x
  have h6b : b6.jobs = b.jobs ∧ b6.nextJob = b.nextJob ∧ (b.consume o.x).spad = b.spad := by
    obtain ⟨qs, ⟨_, _, _, _, _, hc⟩, -⟩ := hcons
    obtain ⟨_, _, _, _, _, _, rfl⟩ := h6
    rw [hc]
    exact ⟨rfl, rfl, rfl⟩
  obtain ⟨hj6, hn6, hs6⟩ := h6b
  rw [hj6] at hjobs
  generalize b6.deliver _ _ _ _ = D at hkept hjobs hnext hdesc heq
  refine ⟨_, { j with flags := fl j, more := more j }, heq, ?frame, ?next, ?last, fun hne => ?only, ⟨hid, htok, hkind⟩, ?desc, ?queue⟩
  case frame =>
    exact (Block.updJob_rowKept _ _ _).trans ((Block.count_rowKept _ _ _).trans ((Block.count3_rowKept _ _ _).trans
      ((Block.count3_rowKept _ _ _).trans (hkept.trans (h6.rowKept.trans hcons.rowKept)))))
  case next => simp only [Block.updJob_nextJob, Block.count_nextJob, Block.count3_nextJob, hnext, hn6]
  case last =>
    simp only [Block.updJob_jobs, Block.count_jobs, Block.count3_jobs, hjobs, List.getLast?_map]
    simp [hid, Block.freshJob, Job.mk0]
  case only =>
    simp only [Block.updJob_jobs, Block.count_jobs, Block.count3_jobs, hjobs]
    exact Block.updJob_append_fresh hid _ hne
  case desc =>
    intro h d hdst
    obtain ⟨hdone, hdst', hsp⟩ := hdesc h d hdst
    refine ⟨hdone, hdst', fun hk hw => ?_⟩
    simp only [Block.updJob_spad, Block.count_spad, Block.count3_spad, hsp, hspad hk hw, hs6]
  case queue => exact hqueue

theorem tensorRows_lt {ik : (Nat → Ctx → Instr) × Nat} (h : ik ∈ tensorRows) : ik.2 ≤ 6 := by
  simp only [tensorRows] at h
  fin_cases h <;> decide

theorem Block.issueRow_eq {k : Nat} (hk : k ≤ 6) (b : Block) (q : Seq) (w : Nat) : b.issueRow q w k = b.issueRowX q w k := by
  simp [Block.issueRow, show k ≠ 7 by omega, show k ≠ 8 by omega, show k ≠ 9 by omega, show k ≠ 10 by omega]

theorem rowOperationsIssue : claimRowOperationsIssue := by
  intro ik hik s n c w o q b hr hop hops hmiss rows
  obtain ⟨b1, j, hfin, hkept, hnext, hlast, honly, ⟨hid, htok, hkind⟩, hdesc, hqueue⟩ := Block.rowFinish_frame (q := q) hops
  rw [exec_row hik]
  have hgo : b.issueRow q w ik.2 = .go (b1.adv q) := by
    rw [Block.issueRow_eq (tensorRows_lt hik), Block.issueRowX, hops, Iss.go_bind, hmiss, ← hfin]
  refine ⟨b1.adv q, j, onUnit_issue_go hr (beq_iff_eq.2 hop) hgo, ?_⟩
  rw [hkept.adv_eq, hnext]
  exact ⟨rfl, hlast, honly, hid, htok, hkind, hdesc, hqueue⟩

theorem Block.rowMissK_some {b : Block} {k gsel kr n : Nat} {first ctxB : Bool} {e : ErrI}
    (h : b.rowMissK k gsel kr n first ctxB = some e) : e.code = 0x15 ∧ e.reads ≠ [] := by
  obtain ⟨i, -, hi⟩ := List.exists_of_findSome?_eq_some h
  dsimp only at hi
  split at hi
  · cases hi
  · split at hi
    · cases hi
      exact ⟨rfl, by simp⟩
    · cases hi

theorem rowLookupMisses : claimRowLookupMisses := by
  refine ⟨fun ik hik s n c w o e => ?_, fun sl key kind h => if_pos h⟩
  intro q b hr hop hops hmiss
  obtain ⟨hcode, hreads⟩ := Block.rowMissK_some hmiss
  have hfault : b.issueRow q w ik.2 = .fault e := by
    rw [Block.issueRow_eq (tensorRows_lt hik), Block.issueRowX, hops, Iss.go_bind, hmiss]
  rw [exec_row hik, onUnit_of hr.1, State.issue_fault (isW := fun w => opOf (seqOf c) w == .row ik.2) hr (beq_iff_eq.2 hop) hfault]
  exact ⟨hcode, by rw [if_neg (by simpa using hreads)]⟩

/-- Settles O17: the work of a row is the model's, its delivery is that of O15's rules, and a miss is the first lookup that fails. -/
theorem rowOperationsIssueOrMiss : Obligations.RowOperationsIssueOrMiss := ⟨rowOperationsIssue, rowLookupMisses⟩

end Sys2Proof.Machine
end

section
/-! PROOFS. Rows of LN, RMS and the soft maximum (R133, R134). -/

namespace Sys2Proof.Machine

theorem normalisedRows : claimNormalisedRows := by
  constructor
  · intro x g be eps mu d rho
    refine ⟨?_, rfl⟩
    show List.map _ (List.zip (d.map _) _) = _
    rw [List.zip_map_left, List.map_map]
    rfl
  · intro x g eps rho
    refine ⟨?_, rfl⟩
    show List.map _ (List.zip (x.map _) _) = _
    rw [List.zip_map_left, List.map_map]
    rfl

/-- The statistics of no element (R134). -/
def noElements : Val × Val := (.inf true, .inf true)

/-- A group whose elements are all excluded. -/
theorem smGroup_excluded {zs : List Val} (h : ∀ z ∈ zs, z = .inf true) : smGroup zs = noElements := by
  have hpad : (List.range 64).map (fun i => zs.getD i (.inf true)) = List.replicate 64 (.inf true) := by
    refine List.eq_replicate_iff.2 ⟨by simp, fun v hv => ?_⟩
    obtain ⟨i, -, rfl⟩ := List.mem_map.1 hv
    by_cases hi : i < zs.length
    · rw [List.getD_eq_getElem _ _ hi]
      exact h _ (List.getElem_mem hi)
    · rw [List.getD_eq_default _ _ (by omega)]
  simp only [smGroup, hpad]
  rfl

/-- A row whose elements are all excluded. -/
theorem smStats_excluded {zs : List Val} (h : ∀ z ∈ zs, z = .inf true) : smStats zs = noElements := by
  have hfold (gs : List (List Val)) (hgs : ∀ g ∈ gs, ∀ z ∈ g, z = .inf true) :
      gs.foldl (fun s g => ((smMerge s.1 s.2 (smGroup g).1 (smGroup g).2).1, (smMerge s.1 s.2 (smGroup g).1 (smGroup g).2).2.1))
        noElements = noElements := by
    induction gs with
    | nil => rfl
    | cons g gs ih =>
      rw [List.foldl_cons, smGroup_excluded (hgs g (by simp))]
      exact ih fun g hg => hgs g (by simp [hg])
  have hnan : zs.any (fun z => z == .nan) = false := by
    rw [List.any_eq_false]
    intro z hz
    rw [h z hz]
    decide
  simp only [smStats, hnan, Bool.false_eq_true, if_false]
  refine hfold _ fun g hg z hz => h z ?_
  rw [← flatten_chunks 64 zs]
  exact List.mem_flatten.2 ⟨g, hg, hz⟩

theorem softMaxOfExcludedRowIsZero : claimSoftMaxOfExcludedRowIsZero := by
  intro n
  have hstats : smStats (List.replicate n (.inf true)) = noElements := smStats_excluded fun z hz => (List.mem_replicate.1 hz).2
  simp only [rowSmF, hstats]
  constructor
  · rw [List.map_replicate]
    rfl
  · rfl

/-- Settles O18. -/
theorem rowResults : Obligations.RowResults := ⟨normalisedRows, softMaxOfExcludedRowIsZero⟩

end Sys2Proof.Machine
end

section
/-! PROOFS. The matrix array's instructions: MM, BLD, SWP, SPL and RSM, and the queues (R74 to R78, R103, R173, R208 to R210). -/

namespace Sys2Proof.Machine

theorem ite_ne {α : Type} {c : Prop} [Decidable c] {a b x : α} (ha : a ≠ x) (hb : b ≠ x) : (if c then a else b) ≠ x := by
  split
  · exact ha
  · exact hb

/-- A word that is an MM names its mode. -/
theorem mode_of_mm {q : Seq} {w k : Nat} (h : opOf q w = .mm k) : (mmF w).mode = k := by
  unfold opOf at h
  dsimp only at h
  by_cases hmm : (q ≠ .a && bits w 62 2 = 3) = true
  · rw [if_pos hmm] at h
    exact Op.mm.inj h
  · rw [if_neg hmm] at h
    refine absurd h ?_
    repeat' refine ite_ne ?_ ?_
    all_goals exact Op.noConfusion

theorem Iss.waits_go {α : Type} (a : α) : (Iss.go a).waits = false := rfl

theorem stationaryMatrixMultiplyIssues : claimStationaryMatrixMultiplyIssues := by
  rintro ⟨ins, k⟩ hik s n c w ds b1 b2 t q b f mode bf key hr hop hstrm hstream hspill hds hvalid hpa hpb hmirror hhead htake hpop
    j b3 rows
  obtain rfl : (mmF w).mode = k := mode_of_mm hop
  have hissue : b.issueMM q c w s.now =
      if j.packed then .go (((if b3.packKey = key then b3 else { b3.flushPack with packKey := key }).packIn s.now rows).adv q)
      else .go ((b3.flushPack.runPass key 0 rows).adv q) := by
    have hset : (b.active.pa != f.afmt || b.active.pb != bf || b.active.mirror != (mode != .mul)) = false := by
      simp [hpa, hpb, hmirror]
    simp only [f, mode, bf] at hstrm hspill hds hset hhead htake hpop
    simp only [Block.issueMM, hstream, hspill, hstrm, Iss.waits_go, hds, hvalid, hset, hhead, htake, hpop, Iss.go_bind,
      Bool.or_self, Bool.false_eq_true, if_false, Bool.not_false, if_true, Bool.not_true]
    rfl
  rw [exec_mm hik]
  refine ⟨fun hp => onUnit_issue_go hr (beq_iff_eq.2 hop) (hissue.trans (if_pos ?_)),
    fun hp => onUnit_issue_go hr (beq_iff_eq.2 hop) (hissue.trans (if_neg ?_))⟩
  · simpa [j] using hp
  · simpa [j] using hp

theorem streamedMatrixMultiplyIssues : claimStreamedMatrixMultiplyIssues := by
  rintro ⟨ins, k⟩ hik s n c w d r ds b1 q b f mode mirror ks hr hop hstrm hstream hspill hbop hpair hn0 hrows hds hring hhead htake
    passes
  obtain rfl : (mmF w).mode = k := mode_of_mm hop
  rw [exec_mm hik]
  refine onUnit_issue_go hr (beq_iff_eq.2 hop) ?_
  have hpair' : (!if mirror = true then dF d == f.afmt else pairOk f.afmt (dF d)) = false := by
    rw [Bool.not_eq_false']
    exact hpair
  have hsize : (decide (dN0 d > 2 ^ 20) || decide (dOuter d > 32)) = false := by
    simpa using And.intro hn0 hrows
  have hbuf := not_lt.2 hring
  simp only [f, mode, mirror, ks] at hstrm hspill hbop hpair' hds hbuf hhead htake
  show b.issueMM q c w s.now = _
  simp only [Block.issueMM, hstream, hspill, hstrm, hbop, hpair', hsize, Iss.waits_go, hds, hhead, htake, Iss.go_bind,
    Bool.or_self, Bool.false_eq_true, if_false, Bool.not_true, gt_iff_lt, hbuf]
  rfl

/-- Settles O20. -/
theorem matrixMultiplies : Obligations.MatrixMultiplies := ⟨stationaryMatrixMultiplyIssues, streamedMatrixMultiplyIssues⟩

end Sys2Proof.Machine
end

section
/-! PROOFS. Stationary sets, spills, resumes and queues (R70 to R72, R103, R173, R176, R209, R210, R215). -/

namespace Sys2Proof.Machine

/-- What a move of a sequence leaves of a block. -/
theorem Block.adv_frame (b : Block) (q : Seq) :
    b.adv q = { b with seqA := (b.adv q).seqA, seqF := (b.adv q).seqF, seqB := (b.adv q).seqB } :=
  (Block.SameStreams.refl b).adv_eq q

/-! The stationary sets. -/

theorem buildAndSwapStationarySets : claimBuildAndSwapStationarySets := by
  refine ⟨fun s n c w d r => ?bld, fun s n c w => ?swp, fun s n c w hr hbusy => ?wait⟩
  case bld =>
    intro q b bh pa hr hop hstream hload hbop hpair hrank hn0 hcols
    have hwait : (b.streaming || b.loading.isSome) = false := by simp [hstream, hload]
    have hpair' : (if bit w 40 = true then pa != dF d || pa == .lg4 else !pairOk pa (dF d)) = false := by
      split_ifs at hpair ⊢ <;> simpa using hpair
    have hshape : (decide (dRank d ≠ 2) || decide (dN0 d > if bit w 40 = true then kStepD (dF d) else kStep pa (dF d)) ||
        decide (dSize d 1 > 32)) = false := by
      simp [hrank, hn0, hcols]
    simp only [bh, pa] at hbop hpair' hshape
    have hissue : b.issueBld q w = b.issueBld q w := rfl
    conv_rhs at hissue =>
      simp only [Block.issueBld, hwait, hbop, hpair', hshape, Iss.go_bind, Bool.false_eq_true, if_false]
    refine ⟨_, onUnit_issue_go hr (beq_iff_eq.2 hop) hissue, ?_⟩
    rw [Block.adv_frame]
    cases r with
    | none =>
      simp only [Option.isNone_none, if_true, Block.countTile, Block.count]
      rw [Block.touch_frame]
      exact ⟨rfl, rfl, rfl, fun _ => rfl, fun h => (h rfl).elim⟩
    | some r => exact ⟨rfl, rfl, rfl, fun h => (nomatch h), fun _ => rfl⟩
  case swp =>
    intro q b hr hop hstream hload
    have hwait : ¬ (b.streaming || b.loading.isSome) = true := by simp [hstream, hload]
    refine ⟨_, onUnit_issue_go hr (beq_iff_eq.2 hop) (if_neg hwait), ?_⟩
    rw [Block.adv_frame]
    exact ⟨rfl, rfl, rfl⟩
  case wait =>
    have hwait : ((s.block n).streaming || (s.block n).loading.isSome) = true := by simpa using hbusy
    exact ⟨fun hop => onUnit_issue_hold hr (beq_iff_eq.2 hop) (if_pos hwait),
      fun hop => onUnit_issue_hold hr (beq_iff_eq.2 hop) (if_pos hwait)⟩

theorem spillAndResumeIssue : claimSpillAndResumeIssue := by
  refine ⟨fun s n c w d t => ?spl, fun s n c w d fam => ?rsm, fun s n c w hr hbusy => ?wait⟩
  case spl =>
    intro q b h hr hop hspill htile hwide
    exact onUnit_issue_go hr (beq_iff_eq.2 hop) ((if_neg (by simp [hspill, b])).trans
      (Iss.bind_of htile (Iss.bind_of hwide rfl)))
  case rsm =>
    intro q b h base af hd hr hop hspill hwide hrows hvalid hfam hopen
    refine onUnit_issue_go hr (beq_iff_eq.2 hop) ?_
    show b.issueRsm q c w = _
    simp only [hd, base, h, af] at hspill hwide hrows hvalid hfam hopen
    simp only [Block.issueRsm, hspill, hwide, Iss.go_bind, if_neg (not_lt.2 hrows), hvalid, hfam, hopen, Bool.false_eq_true, if_false,
      gt_iff_lt]
    rfl
  case wait =>
    exact ⟨fun hop => onUnit_issue_hold hr (beq_iff_eq.2 hop) (if_pos hbusy),
      fun hop => onUnit_issue_hold hr (beq_iff_eq.2 hop) (if_pos hbusy)⟩

/-- Settles O21. -/
theorem setsSpillsAndResumes : Obligations.SetsSpillsAndResumes := ⟨buildAndSwapStationarySets, spillAndResumeIssue⟩

/-! Queues. -/

theorem queuePushAndPop : claimQueuePushAndPop := by
  refine ⟨fun s n c w d b1 => ?push, fun s n c w x => ?drop, fun s n c w d n0 n1 f p t b1 => ?copy, fun s n c w hr hop hnone => ?wait⟩
  case push =>
    intro q b qn h hr hop hd hroom hres
    refine onUnit_issue_go hr (beq_iff_eq.2 hop) (Iss.bind_of hd (Iss.bind_of hroom ?_))
    simp only [show ((s.block n).freshJob (seqOf c) w .copy).id = b.nextJob from rfl]
    rw [hres]
    rfl
  case drop =>
    intro q b hr hop hf hd
    refine onUnit_issue_go hr (beq_iff_eq.2 hop) ?_
    simp only [b] at hf
    simp only [Block.issueQPop, hf, hd, if_true]
    rfl
  case copy =>
    intro q b h hr hop hf hd hdst hfmt hn0 hn1 hpop
    refine onUnit_issue_go hr (beq_iff_eq.2 hop) ?_
    have hsame : (decide (f ≠ dF d) || decide (n0 ≠ dN0 d) || decide (n1 ≠ dOuter d)) = false := by simp [hfmt, hn0, hn1]
    simp only [b, h] at hf hdst hpop
    simp only [Block.issueQPop, hf, hd, Bool.false_eq_true, if_false, hdst, Iss.go_bind, hsame, hpop]
    rfl
  case wait =>
    refine onUnit_issue_hold hr (beq_iff_eq.2 hop) ?_
    simp only [Block.issueQPop, hnone]

/-- A change of one entry of a list depends on that entry alone. -/
theorem updAt_congr {α : Type} {l : List α} {i : Nat} {f g : α → α} {d : α} (h : f (l.getD i d) = g (l.getD i d)) :
    updAt l i f = updAt l i g := by
  induction l generalizing i with
  | nil => rfl
  | cons a l ih => cases i with
    | zero => exact congrArg (· :: l) h
    | succ i => exact congrArg (a :: ·) (ih h)

theorem State.updBlock_congr {s : State} {n : Nat} {f g : Block → Block} (h : f (s.block n) = g (s.block n)) :
    s.updBlock n f = s.updBlock n g := by
  rw [State.updBlock, State.updBlock, updAt_congr h]

theorem onUnit_of_two {p q : Prop} [Decidable p] [Decidable q] (hp : p) (hq : q) (t : State) :
    onUnit (decide p && decide q) t = .next t := by simp [hp, hq]

theorem entryCommitCompletesItsJob : claimEntryCommitCompletesItsJob := by
  intro s n qn i id e j hn hqn hworks b he hejob hjob hdone hstarted hrem hjdone herr
  have hcommit : b.commit qn i = (b.setQ qn (fun q => { q with ents := updAt q.ents i (fun e => { e with done := true }) })).updJob
      j.id (fun j => { j with rem := 0, done := true }) := by
    simp only [Block.commit, he, hejob, Option.bind_some, hjob, hdone, hstarted, hrem, hjdone, herr]
    rfl
  refine (onUnit_of_two hn hqn _).trans ?_
  rw [if_pos hworks]
  exact congrArg _ (State.updBlock_congr hcommit)

/-- Settles O22. -/
theorem queuesPushPopCommit : Obligations.QueuesPushPopCommit := ⟨queuePushAndPop, entryCommitCompletesItsJob⟩

end Sys2Proof.Machine
end

section
/-! PROOFS. Events of the array and the drains (R70, R81, R88, R97, R103, R106), and the passes of a streamed MM (R74). -/

namespace Sys2Proof.Machine

/-- A block at work is one the part has. -/
theorem State.works_running {s : State} {n : Nat} (h : s.works n = true) : (s.block n).st = .running := by
  simp only [State.works, Bool.and_eq_true, beq_iff_eq] at h
  exact h.2

theorem arrayEventsChangeTheirBlock : claimArrayEventsChangeTheirBlock := by
  intro s n hn hworks b
  refine ⟨fun id set hload hset => ?shadow, fun hp hold => ?hold, fun hold => ?held, fun sl rest hsl hpass => ?verdict,
    fun k hk => ?spill, fun id rest j t hdr hj ht => ?drain⟩
  case shadow =>
    refine (onUnit_of hn _).trans (congrArg _ ((if_pos hworks).trans ?_))
    show s.putBlock n b.shadowDone = _
    simp only [Block.shadowDone, hload, hset, Bool.not_true, Bool.false_eq_true, if_false]
  case hold =>
    refine (onUnit_of hn _).trans (congrArg _ ((if_pos (by rw [hworks, hold]; rfl)).trans ?_))
    exact congrArg _ (if_neg (by simpa using hp))
  case held => exact (onUnit_of hn _).trans (congrArg _ (if_neg (by rw [hold]; simp)))
  case verdict =>
    refine (onUnit_of hn _).trans (congrArg _ ?_)
    simp only [b] at hsl
    simp only [State.slabVerdict, hsl, hworks, hpass, Bool.not_true, Bool.false_eq_true, if_false, Block.slabPass]
    rfl
  case spill =>
    refine (onUnit_of hn _).trans (congrArg _ ((if_pos hworks).trans ?_))
    simp only [b] at hk
    simp only [hk]
  case drain =>
    intro r sent
    have hexec : exec (.drainComplete n) s = .next (s.drain n) := onUnit_of hn _
    simp only [b] at hdr hj ht
    have hr : (s.block n).drainJob j t = r := rfl
    rw [hexec]
    refine ⟨fun hopen => ?waitsSlabs, fun hpassed hout => ?writes, fun x more hpassed hout => ⟨fun hg => ?waits, fun hg => ?sends,
      fun hg => ?refused⟩⟩
    all_goals simp only [b] at *
    case waitsSlabs => simp only [State.drain, hdr, hj, ht, hworks, hopen, Bool.or_true, if_true]
    all_goals
      simp only [State.drain, hdr, hj, ht, hworks, hpassed, hr, hout, Bool.not_true, Bool.or_self, Bool.false_eq_true, if_false,
        List.isEmpty_nil, List.isEmpty_cons, Bool.not_false, Bool.false_and, if_true]
    case waits => rw [hg]; rfl
    case sends => rw [hg]; simp only [sent, hout]; rfl
    case refused => rw [hg]; rfl

/-! Passes of a streamed MM. -/

theorem Block.popEntry_jobs {b b' : Block} {k : Nat} {t : Tens} (h : b.popEntry k = some (t, b')) : b'.jobs = b.jobs := by
  obtain ⟨_, ⟨_, _, _, _, _, rfl⟩, _⟩ := Block.popEntry_consumed h
  rfl

/-- What the pass of a streamed MM leaves before its rows run (R71, R74). -/
def Block.passLoaded (b b1 : Block) (j : Job) (x : Strm) : Block :=
  let set := b1.tileOf x.bd x.key.afmt (x.key.mode != .mul) (x.pass * x.k) x.k ((b.gen + 1) % 16)
  let b2 := ((b1.touch (dRuns x.bd)).countTile set).count cSwap 1
  ({ b2 with shadow := b2.active, active := set, gen := (b.gen + 1) % 16 }.updTile x.base
    (fun t => t.addSteps 1 (min x.k (dN0 x.bd - x.pass * x.k)))).updJob j.id
      (fun j => { j with strm := some { x with pass := x.pass + 1 } })

theorem streamPassRunsNextTile : claimStreamPassRunsNextTile := by
  intro s n j x t b1 hn hworks b hj hload hx hstarted hhead hpop set
  have hpass : b.strmPass = .go ((b.passLoaded b1 j x).runPass x.key x.pass (aRows j.id x.base t)) := by
    simp only [Block.strmPass, hload, Option.isSome_none, Bool.false_eq_true, if_false]
    split
    · next hnone => exact nomatch hnone.symm.trans hj
    · next hsome =>
      cases Option.some.inj (hsome.symm.trans hj)
      simp only [hx, hstarted, hhead, Iss.go_bind, hpop, Bool.not_true, Bool.false_eq_true, if_false]
      rfl
  refine ⟨b.passLoaded b1 j x, (onUnit_of hn _).trans (congrArg _ ?_), rfl, rfl, ?_, ?_⟩
  · simp only [State.strmPass, hworks, if_true]
    split
    · next hnone => exact nomatch hnone.symm.trans hj
    · next hsome =>
      cases Option.some.inj (hsome.symm.trans hj)
      simp only [b] at hpass
      rw [hpass]
  · simp only [Block.passLoaded, Block.countTile, Block.count, Block.updTile, Block.updJob]
    rw [Block.touch_frame]
  · simp only [Block.passLoaded, Block.countTile, Block.count, Block.updTile, Block.updJob]
    rw [Block.touch_frame]
    rw [← Block.popEntry_jobs hpop]

/-- Settles O23. -/
theorem arrayEvents : Obligations.ArrayEvents := ⟨arrayEventsChangeTheirBlock, streamPassRunsNextTile⟩

end Sys2Proof.Machine
end

section
/-! PROOFS. Faults, verdicts, completions and errors of a block (R58, R89, R171, R188, R194, R486, R502). -/

namespace Sys2Proof.Machine

/-! What forwarding events leaves of the part. -/

theorem State.emits_frame (s : State) (level unit : Nat) (es : List (Nat × Nat × Nat)) :
    s.emits level unit es = { s with
      events := (s.emits level unit es).events, boot := (s.emits level unit es).boot, host := (s.emits level unit es).host } := by
  induction es generalizing s with
  | nil => rfl
  | cons e es ih =>
    have h := ih (s.emit e.1 level unit e.2.1 e.2.2)
    rw [s.emit_frame] at h
    rw [State.emits, List.foldl_cons, ← State.emits, s.emit_frame]
    exact h

/-- A block put back changes its place in the part, and where events are held. -/
theorem State.putBlock_frame (s : State) (n : Nat) (b : Block) :
    s.putBlock n b = { s with
      blocks := s.blocks.set n { b with evs := [] }, events := (s.putBlock n b).events, boot := (s.putBlock n b).boot
      host := (s.putBlock n b).host } := State.emits_frame ..

/-- A block that found no event is put back and nothing else changes. -/
theorem State.putBlock_quiet {s : State} {n : Nat} {b : Block} (h : b.evs = []) :
    s.putBlock n b = { s with blocks := s.blocks.set n b } := by
  have hb : { b with evs := [] } = b := by rw [← h]
  rw [State.putBlock, hb, h]
  rfl

/-! A fault of a block (R486). -/

theorem State.running_range {s : State} {n : Nat} (h : (s.block n).st = .running) : n < s.blocks.length := by
  by_contra hn
  rw [State.block, List.getD_eq_default _ _ (by omega)] at h
  cases h

/-- The block that a fault leaves. -/
theorem State.block_blockFault {s : State} {n : Nat} (src pc : Nat) (e : ErrI) (h : (s.block n).st = .running) :
    (s.blockFault n src pc e).block n = { (s.block n).fence e.code with
      lastFault := some (e.code, faultInfo e, faultDetail e src pc)
      rowMiss := if e.code = 0x15 then e.aux else (s.block n).rowMiss
      evs := [] } := by
  rw [State.blockFault_running _ _ _ h, State.emit_block, State.block_putBlock_self _ (State.running_range h)]

theorem State.block_blockFault_other {s : State} {n m : Nat} (src pc : Nat) (e : ErrI) (hm : m ≠ n) :
    (s.blockFault n src pc e).block m = s.block m := by
  by_cases h : (s.block n).st = .running
  · rw [State.blockFault_running _ _ _ h, State.emit_block, State.block_putBlock_other _ hm]
  · rw [State.blockFault, if_neg h]

/-- Settles O26: a fault of a RUNNING block puts it back fenced, and forwards its record. -/
theorem blockFaultStopsAndFences : Obligations.BlockFaultStopsAndFences := by
  intro s n src pc e hrun b t
  have hb : t.block n = _ := State.block_blockFault src pc e hrun
  refine ⟨?fenced, ?kept, fun hre hha hevs => ?record, fun m hm => State.block_blockFault_other src pc e hm⟩
  case fenced =>
    rw [hb]
    exact ⟨rfl, rfl, rfl, rfl, rfl, rfl, rfl, rfl, rfl, rfl⟩
  case kept =>
    rw [hb]
    exact ⟨rfl, rfl, rfl, rfl, rfl, rfl, rfl⟩
  case record =>
    show (s.blockFault n src pc e).events = _
    rw [State.blockFault_running _ _ _ hrun, State.putBlock_quiet (by exact hevs), State.emit_plain _ _ _ _ _ _ (by simp [hre, hha])]
    rfl

theorem Block.slabFail_eq {b : Block} {sl : Slab} {rest : List Slab} (h : b.slabs = sl :: rest) :
    b.slabFail = { b with
      slabs := rest, ctr := ctrAdd b.ctr 16 1
      tiles := b.tiles.map (fun x => if sl.parts.any (fun p => p.2.1 == x.base) then { x with poison := true } else x) } := by
  have hfold (ps : List (Nat × Nat × Nat)) (b0 : Block) :
      ps.foldl (fun (bb : Block) p => bb.updTile p.2.1 (fun t => { t with poison := true })) b0 = { b0 with
        tiles := b0.tiles.map (fun x => if ps.any (fun p => p.2.1 == x.base) then { x with poison := true } else x) } := by
    induction ps generalizing b0 with
    | nil => simp
    | cons p ps ih =>
      rw [List.foldl_cons, ih]
      simp only [Block.updTile, List.map_map, List.any_cons]
      congr 1
      refine List.map_congr_left fun x _ => ?_
      by_cases hx : x.base = p.2.1
      · simp [hx]
      · have hx' : (p.2.1 == x.base) = false := by simpa using fun h => hx h.symm
        simp only [hx, hx', if_false, Bool.false_or, Function.comp]
  simp only [Block.slabFail, h, hfold]
  rfl

theorem State.blockFault_freeN (s : State) (n src pc : Nat) (e : ErrI) : (s.blockFault n src pc e).freeN = s.freeN := by
  by_cases h : (s.block n).st = .running
  · rw [State.blockFault_running _ _ _ h, State.emit_freeN, State.putBlock_frame]
  · rw [State.blockFault, if_neg h]

/-- Settles O24: the verdict puts its block back with the tiles of the slab poisoned, and then the fault fences it. -/
theorem failedVerdictStopsTheBlock : Obligations.FailedVerdictStopsTheBlock := by
  intro s n g sl rest hn hworks hsl hfail e
  have hself := State.block_putBlock_self (s := s) (n := n) (s.block n).slabFail (State.running_range (State.works_running hworks))
  have hrun : ((s.putBlock n (s.block n).slabFail).block n).st = .running := by
    rw [hself, Block.slabFail_eq hsl]
    exact State.works_running hworks
  have hexec : exec (.slabVerdict n) s = .next ((s.putBlock n (s.block n).slabFail).blockFault n 3 0 e) := by
    refine (onUnit_of hn _).trans (congrArg _ ?_)
    simp only [State.slabVerdict, hsl, hworks, hfail, Bool.not_true, Bool.false_eq_true, if_false]
    rfl
  have hb := State.block_blockFault 3 0 e hrun
  rw [hself] at hb
  refine ⟨_, hexec, ?_⟩
  rw [hb]
  refine ⟨rfl, rfl, rfl, ?tiles, rfl, ?drawn, ?counted, fun m hm => ?others⟩
  case tiles =>
    show (s.block n).slabFail.tiles = _
    rw [Block.slabFail_eq hsl]
  case drawn => rw [State.blockFault_freeN, State.putBlock_frame]
  case counted =>
    show (s.block n).slabFail.ctr = _
    rw [Block.slabFail_eq hsl]
  case others => rw [State.block_blockFault_other _ _ _ hm, State.block_putBlock_other _ hm]

/-! Completion (R58, R171, R188, R502). -/

theorem Block.status_frame (b : Block) (j : Job) : b.status j = { b with descs := (b.status j).descs } := by
  have hfold (hs : List (Nat × Nat)) (b0 : Block) : ∃ ds,
      hs.foldl (fun bb hf => bb.setDesc hf.1 (statusAfter (bb.desc hf.1) hf.2)) b0 = { b0 with descs := ds } := by
    induction hs generalizing b0 with
    | nil => exact ⟨_, rfl⟩
    | cons h hs ih =>
      obtain ⟨ds, hds⟩ := ih (b0.setDesc h.1 (statusAfter (b0.desc h.1) h.2))
      exact ⟨ds, hds⟩
  obtain ⟨ds, hds⟩ := hfold ((j.dst.map (fun h => (h, j.flags))).toList ++ j.more) b
  rw [Block.status, hds]

theorem completionWritesStatusAndToken : claimCompletionWritesStatusAndToken := by
  intro s n id j hn hclk b hjob hdone herr hkind b1 b2 first
  have hexec : exec (.completionEvent n id) s = .next (s.complete n id) := onPart_of hclk hn _
  have hb2 : b2 = b1.status j := rfl
  have htoks : b2.toks = b.toks := by rw [hb2, Block.status_frame]
  have hfirst : first ↔ b.packedBefore j = false := by
    simp [first, Block.packedBefore]
  have hgoes (hf : first) : (!j.done || j.err.isSome || decide (j.kind = .sig) || b.packedBefore j) = false := by
    simp [hdone, herr, hkind, hfirst.1 hf]
  rw [hexec]
  simp only [b] at hjob hgoes
  refine ⟨fun hf => ?waits, fun hf htok => ?plain, fun t hf htok hv => ?counted, fun t hf htok hv => ?overflows⟩
  case waits =>
    have hskip : (!j.done || j.err.isSome || decide (j.kind = .sig) || (s.block n).packedBefore j) = true := by
      rw [hfirst, Bool.not_eq_false] at hf
      simp only [b] at hf
      simp [hf]
    simp only [State.complete, hjob, hskip, if_true]
  case plain =>
    simp only [State.complete, hjob, hgoes hf, htok, Bool.false_eq_true, if_false]
    rfl
  case counted =>
    have hadd : (b1.status j).tokAdd t 1 = _ := Block.tokAdd_of_le (by rw [← hb2, htoks]; exact hv)
    simp only [b1, b] at hadd
    simp only [State.complete, hjob, hgoes hf, htok, Bool.false_eq_true, if_false, hadd]
    rfl
  case overflows =>
    have hadd : (b1.status j).tokAdd t 1 = none := Block.tokAdd_of_lt (by rw [← hb2, htoks]; exact hv)
    simp only [b1, b] at hadd
    simp only [State.complete, hjob, hgoes hf, htok, Bool.false_eq_true, if_false, hadd]
    rfl

theorem errorsAndHangsStopTheBlock : claimErrorsAndHangsStopTheBlock := by
  constructor
  · intro s n id j e hn hclk hjob herr
    refine (onPart_of hclk hn _).trans (congrArg _ ?_)
    simp only [State.errorDone, hjob, herr]
    rfl
  · intro s n hn hrun hlim hwd hheld
    refine (onUnit_of hn _).trans (congrArg _ (if_pos ?_))
    simp [hrun, hlim, hwd, hheld]

/-- Settles O25. -/
theorem completionsAndErrors : Obligations.CompletionsAndErrors := ⟨completionWritesStatusAndToken, errorsAndHangsStopTheBlock⟩

end Sys2Proof.Machine
end

section
/-! PROOFS. LD, ST, GTH and SCA: their issue, their start, and what a delivery writes (R178, R190, R216, R217). -/

namespace Sys2Proof.Machine

/-- An access instruction that its preparation lets go issues, and its accesses start. -/
theorem onUnit_issueAccess {s : State} {n w id : Nat} {isW : Nat → Bool} {prep : Block → Nat → Iss (Block × Nat)} {b1 : Block}
    (h : s.ready n .a w) (hw : isW w = true) (hp : prep (s.block n) w = .go (b1, id)) :
    onUnit (n < 144) (s.issueAccess n isW prep) = .next ((s.issued n b1).startAccess n (s.block n).nextJob) := by
  have hf : (prep (s.block n) w).bind (fun x => Iss.go x.1) = .go b1 := by rw [hp, Iss.go_bind]
  rw [onUnit_of h.1]
  simp only [State.issueAccess]
  rw [State.issue_go h hw hf]

theorem loadAndStoreIssue : claimLoadAndStoreIssue := by
  refine ⟨?_, ?_, ?_⟩
  · intro s n w sd dd j1 j2 b j0 hr hq hs hd hf h0 h1 t
    have hprep (st : Bool) : (s.block n).prepCopy w st =
        .go ((b.addJob { j2 with dst := some (bits w 37 8) }).adv .a, j0.id) := by
      simp only [accessSrc] at hs
      simp only [accessDst, accessSrc] at hd
      simp only [Block.prepCopy, hq, Bool.and_false, Bool.false_and, Bool.false_eq_true, if_false]
      simp only [j0, b] at hs hd
      rw [hs, Iss.go_bind]
      simp only
      rw [hd, Iss.go_bind]
      simp [hf, h0, h1, b, j0]
    exact ⟨fun hop => onUnit_issueAccess hr (by simp [hop]) (hprep false),
      fun hop => onUnit_issueAccess hr (by simp [hop]) (hprep true)⟩
  · intro s n w sd j1 b1 b qn hr hop hq hbound hs hroom hres
    refine onUnit_issueAccess (id := b.nextJob) hr (by simp [hop]) ?_
    simp only [accessSrc] at hs
    simp only [b, qn] at hbound hs hroom hres
    simp only [Block.prepCopy, hq, hbound, Bool.and_false, Bool.and_true, Bool.not_true, Bool.false_eq_true,
      if_false, if_true]
    rw [hs, Iss.go_bind]
    simp only
    rw [hroom, Iss.go_bind]
    rw [show (Block.freshJob (s.block n) .a w .copy).id = (s.block n).nextJob from rfl, hres]
  · intro s n w dd n0 n1 f p j1 t b1 b qn hr hop hq hbound hhead hd hf h0 h1 hpop
    refine onUnit_issueAccess (id := b.nextJob) hr (by simp [hop]) ?_
    simp only [accessDst, accessSrc] at hd
    simp only [b, qn] at hbound hd hhead hpop
    simp only [Block.prepCopy, hq, hbound, Bool.and_true, Bool.not_true, Bool.and_false, Bool.false_eq_true, if_false, if_true, hhead]
    rw [hd, Iss.go_bind]
    simp only [← hf, ← h0, ← h1, ne_eq, not_true, decide_false, Bool.or_false, Bool.false_eq_true, if_false, hpop]
    rfl

theorem gatherAndScatterIssue : claimGatherAndScatterIssue := by
  refine ⟨?_, ?_⟩
  · intro s n w sd ix dd j1 j2 j3 b hr hop hq hs hix hscale hd hf h0 h1
    refine onUnit_issueAccess (id := b.nextJob) hr (by simp [hop]) ?_
    simp only [accessSrc] at hs
    simp only [accessDst, accessSrc] at hd
    simp only [b] at hs hd hix
    simp only [Block.prepGth, hq, Bool.false_and, Bool.false_eq_true, if_false]
    rw [hs, Iss.go_bind]
    simp only
    rw [hix, Iss.go_bind]
    simp only
    rw [if_neg (by simpa using hscale), hd, Iss.go_bind]
    simp [hf, h0, h1, b]
    rfl
  · intro s n w dd ix sd j1 j2 j3 b hr hop hret hd hix hsp hs hf hsz
    refine onUnit_issueAccess (id := b.nextJob) hr (by simp [hop]) ?_
    simp only [b] at hs hd hix
    simp only [Block.prepSca]
    rw [hd, Iss.go_bind]
    simp only
    rw [hix, Iss.go_bind]
    simp only
    rw [if_neg (by rcases hsp with h | h <;> simp [h]), hs, Iss.go_bind]
    simp only [hf, hsz, scaSizes, hret, ne_eq, not_true, Bool.false_eq_true, if_false]
    rfl

/-- Settles O27: each instruction's preparation lets it go. -/
theorem accessInstructionsIssue : Obligations.AccessInstructionsIssue := ⟨loadAndStoreIssue, gatherAndScatterIssue⟩

/-! How an access starts and what it delivers. -/

theorem accessStartsWaitsOrFails : claimAccessStartsWaitsOrFails := by
  intro s n id j hj hstarted hawaits hop hidx s1
  have hds : s.jobDescs n j = j.descs := by simp only [State.jobDescs, hidx]
  refine ⟨?_, ?_, ?_, ?_⟩
  · intro hd href
    simp only [State.startAccess, hj, hstarted, hawaits, hds, href, s1]
    rfl
  · intro href hwait
    simp only [State.startAccess, hj, hstarted, hawaits, hds, href, hwait]
    rfl
  · intro hd href hwait hden
    simp only [State.startAccess, hj, hstarted, hawaits, hds, href, hwait, hden, s1]
    rfl
  · intro href hwait hden
    simp only [State.startAccess, hj, hstarted, hawaits, hds, href, hwait, hden, s1]
    rcases hop with h | h <;> rw [h] <;> rfl

/-- A clean write over a store without listed words puts its bytes down. -/
theorem Mem.writePB_clean {m : Mem} {bs : List PByte} (he : m.errs = []) (hb : bs.any Prod.snd = false) (off : Nat) :
    m.writePB off bs = m.put off (bs.map Prod.fst) := by
  simp [Mem.writePB, hb, Mem.write, Mem.listedIn, he]

/-- Clean runs written to a space of this part, with a scratchpad of no listed words. -/
theorem State.writeAt_local_clean {s : State} {n : Nat} {r : Run} (he : (s.block n).spad.errs = [])
    (hb : r.2.any Prod.snd = false) (stk : Nat) :
    s.writeAt n 0 stk r.1 r.2 =
      s.putBlock n { s.block n with spad := (s.block n).spad.put r.1 (r.2.map Prod.fst) } := by
  simp only [State.writeAt, Block.writeR, partWords_of_errs_nil he, Block.note_nil, Mem.writeRuns, List.foldl_cons, List.foldl_nil,
    Mem.writePB_clean he hb]


/-- A block put back at its own place, as its store is read: a block that the part has not stays what it was. -/
theorem State.spad_putBlock_self (s : State) (n : Nat) (m : Mem) :
    ((s.putBlock n { s.block n with spad := m }).block n).spad = m ∨
      ((s.putBlock n { s.block n with spad := m }).block n).spad = (s.block n).spad := by
  by_cases h : n < s.blocks.length
  · exact .inl (by rw [State.block_putBlock_self _ h])
  · exact .inr (by simp [State.block, h])

/-- Clean runs written to a clean LOCAL store keep every byte outside them, and the store clean. -/
theorem State.writeAt_local_outside {n stk a : Nat} {rs : List Run} (hb : ∀ r ∈ rs, r.2.any Prod.snd = false)
    (ha : ∀ r ∈ rs, a < r.1 ∨ r.1 + r.2.length ≤ a) {s : State} (he : (s.block n).spad.errs = []) :
    ((rs.foldl (fun u r => u.writeAt n 0 stk r.1 r.2) s).block n).spad.get a = (s.block n).spad.get a := by
  induction rs generalizing s with
  | nil => rfl
  | cons r rs ih =>
    have hr : r.2.any Prod.snd = false := hb r (by simp)
    have hout : a < r.1 ∨ r.1 + (r.2.map Prod.fst).length ≤ a := by simpa using ha r (by simp)
    have ih := @ih (fun x hx => hb x (by simp [hx])) (fun x hx => ha x (by simp [hx]))
    rw [List.foldl_cons, State.writeAt_local_clean he hr]
    rcases s.spad_putBlock_self n ((s.block n).spad.put r.1 (r.2.map Prod.fst)) with h | h
    · rw [ih (by rw [h]; exact he), h, Mem.get_put_out _ _ _ _ hout]
    · rw [ih (by rw [h]; exact he), h]

/-- What the parts of a job become is no matter of its block's store. -/
@[simp] theorem State.spad_jobParts (s : State) (n id rem flags : Nat) :
    ((s.jobParts n id rem flags).block n).spad = (s.block n).spad := by
  by_cases h : n < s.blocks.length
  · simp only [State.jobParts]
    rw [State.block_updBlock_self _ _ _ h]
    rfl
  · have hlen : s.blocks.length ≤ n := Nat.le_of_not_lt h
    simp [State.jobParts, State.block, State.updBlock, hlen]

/-- What a delivery does whose destination is a descriptor of a space that takes its bytes at once. -/
theorem State.deliver_here {s : State} {n d srcA : Nat} {j : Job} {t : Tens} (hq : bit j.word 48 = false ∨ opOf j.seq j.word = .st)
    (hd : j.desc (bits j.word 37 8) = some d) (h1 : dSpace d ≠ 1) (h5 : dSpace d ≠ 5) :
    s.deliver n j t srcA = ((tensWrites d t).foldl (fun u r => u.writeAt n (dSpace d) (fStack.get d) r.1 r.2) s).jobParts n j.id 0
      (32 * b2n t.bad) := by
  rcases hq with h | h <;>
    simp only [State.deliver, h, hd, Option.getD_some, Bool.false_and, Bool.not_true, Bool.and_false, Bool.false_eq_true, if_false]

theorem copyWritesItsRuns : claimCopyWritesItsRuns := by
  refine ⟨fun s n d srcA j t hq hd h1 h5 => State.deliver_here hq hd h1 h5, ?_⟩
  intro s n d srcA j t a hq hd h0 he hb ha
  rw [State.deliver_here hq hd (by simp [h0]) (by simp [h0]), State.spad_jobParts, h0]
  exact State.writeAt_local_outside hb ha he

/-- Settles O28. -/
theorem accessesRun : Obligations.AccessesRun := ⟨accessStartsWaitsOrFails, copyWritesItsRuns⟩

end Sys2Proof.Machine
end

section
/-! PROOFS. Region stores: reads, writes and what an access answers (R145, R156, R445). -/

namespace Sys2Proof.Machine

/-! What a region store's record and a region put back leave as it was. -/

theorem Region.note_frame (r : Region) (ws : List Nat) :
    r.note ws = { r with ctr := (r.note ws).ctr, corrNow := (r.note ws).corrNow, evs := (r.note ws).evs } := by
  simp only [Region.note]
  split <;> rfl

@[simp] theorem Region.note_store (r : Region) (ws : List Nat) : (r.note ws).store = r.store := by rw [Region.note_frame]

theorem State.putRegion_frame (s : State) (n : Nat) (r : Region) :
    ∃ ev bt ho, s.putRegion n r = { s with regions := s.regions.set n { r with evs := [] }, events := ev, boot := bt, host := ho } :=
  ⟨_, _, _, State.emits_frame ..⟩

/-- A region put back at its own place with another record, as its store is read. -/
theorem State.store_putRegion {s : State} {r : Nat} {g : Region} (h : r < s.regions.length ∨ g.store = (s.region r).store) :
    ((s.putRegion r g).region r).store = g.store := by
  obtain ⟨ev, bt, ho, hput⟩ := s.putRegion_frame r g
  rw [hput]
  by_cases hr : r < s.regions.length
  · simp [State.region, hr]
  · rcases h with h | h
    · exact absurd h hr
    · rw [h]
      simp [State.region, hr]

@[simp] theorem State.putRegion_out (s : State) (r : Nat) (g : Region) : (s.putRegion r g).out = s.out := by
  obtain ⟨ev, bt, ho, hput⟩ := s.putRegion_frame r g
  rw [hput]

/-! An access at a region store. -/

theorem exec_regionStoreAccess {s : State} {r off len : Nat} (hr : r < 4) (hlen : off + len ≤ 2 ^ 24) (hclk : s.pwr.stopped = false)
    (wr : Bool) (data : List Byte) :
    exec (.regionStoreAccess r wr off len data) s = .next (s.storeAccess r ⟨wr, off, len, data⟩) :=
  onPart_of_two hclk hr hlen _

/-- The bytes of a host's write carry no poison mark. -/
theorem Mem.writePB_map_clean (m : Mem) (off : Nat) (bs : List Byte) :
    m.writePB off (bs.map (fun b => (b, false))) = m.write off bs := by
  have hmap : ((bs.map (fun b => ((b, false) : PByte))).map Prod.fst) = bs := by simp [Function.comp_def]
  have hany : (bs.map (fun b => ((b, false) : PByte))).any Prod.snd = false := by simp
  simp only [Mem.writePB, hany, hmap, Bool.false_eq_true, if_false]

/-- A write that is served. -/
theorem State.storeAccess_write {s : State} {r : Nat} (hg : s.regionGate r = .ok) (off len : Nat) (data : List Byte) :
    s.storeAccess r ⟨true, off, len, data⟩ =
      s.putRegion r { (s.region r).note (partWords (s.region r).store [(off, (fitTo len data).map (fun b => (b, false)))]) with
        store := (s.region r).store.write off (fitTo len data) } := by
  simp only [State.storeAccess, hg, State.storeNow, if_true, Region.writeR, Region.note_store, Mem.writePB_map_clean]

theorem regionStoreReadsAndWrites : claimRegionStoreReadsAndWrites := by
  intro s r off len data hr hlen hclk
  refine ⟨?_, ?_, ?_, ?_⟩
  · intro hg bs g
    rw [exec_regionStoreAccess hr hlen hclk, State.storeAccess_write hg]
  · intro hg
    refine ⟨_, exec_regionStoreAccess hr hlen hclk false data, ?_, ?_⟩
    · simp only [State.storeAccess, hg, State.storeNow, Bool.false_eq_true, if_false, State.putRegion_out]
    · simp only [State.storeAccess, hg, State.storeNow, Bool.false_eq_true, if_false]
      exact (State.store_putRegion (.inr (Region.note_store ..))).trans (Region.note_store ..)
  · intro wr hg
    rw [exec_regionStoreAccess hr hlen hclk]
    simp only [State.storeAccess, hg]
  · intro wr hg
    rw [exec_regionStoreAccess hr hlen hclk]
    simp only [State.storeAccess, hg]

theorem fitTo_length {bs : List Byte} : fitTo bs.length bs = bs := by simp [fitTo]

/-- A write over a store without listed words puts its bytes down. -/
theorem Mem.write_clean {m : Mem} (he : m.errs = []) (off : Nat) (bs : List Byte) : m.write off bs = m.put off bs := by
  simp [Mem.write, Mem.listedIn, he]

theorem regionStoreWriteThenByte : claimRegionStoreWriteThenByte := by
  intro s r off data a hr hreg hlen hclk hg he
  refine ⟨_, exec_regionStoreAccess hr hlen hclk true data, ?_⟩
  rw [State.storeAccess_write hg, State.store_putRegion (.inl hreg), fitTo_length, Mem.write_clean he]
  refine ⟨fun i hi => ?_, fun ha => Mem.get_put_out _ _ _ _ ha⟩
  rw [Mem.get_put_in _ _ _ _ hi, List.getD_eq_getElem _ _ hi]

/-- Settles O33. -/
theorem regionStores : Obligations.RegionStores := ⟨regionStoreReadsAndWrites, regionStoreWriteThenByte⟩

end Sys2Proof.Machine
end

section
/-! PROOFS. The entry of events, the interrupt gap and the summaries of corrections (R377, R389 to R391, R479, R487). -/

namespace Sys2Proof.Machine

theorem onPart_of_true {s : State} (hclk : s.pwr.stopped = false) (t : State) : onPart s true t = .next t := by
  simp [onPart, hclk]

/-! What Crust's interrupts change: pending bits and what leaves the part. -/

theorem State.msix_frame (s : State) (v : Nat) :
    ∃ pba out, s.msix v = { s with host := { s.host with pba := pba }, out := out } := by
  simp only [State.msix]
  split <;> exact ⟨_, _, rfl⟩

theorem State.recordIrq_frame (s : State) (cls : Nat) :
    ∃ pba due ge out, s.recordIrq cls =
      { s with host := { s.host with pba := pba, gapDue := due, gapEnd := ge }, out := out } := by
  obtain ⟨pba, out, hm⟩ := s.msix_frame 16
  simp only [State.recordIrq, hm]
  split
  · exact ⟨_, _, _, _, rfl⟩
  · split
    · exact ⟨_, _, _, _, rfl⟩
    · split <;> exact ⟨_, _, _, _, rfl⟩

theorem State.summarise_frame (s : State) (bits : Nat) (always : Bool) :
    ∃ pba sn out, s.summarise bits always =
      { s with host := { s.host with summary := s.host.summary ||| bits, pba := pba, sumNow := sn }, out := out } := by
  simp only [State.summarise]
  split
  · obtain ⟨pba, out, hm⟩ := State.msix_frame { s with
      host := { s.host with summary := s.host.summary ||| bits, sumNow := s.host.sumNow ||| bits } } 17
    exact ⟨pba, _, out, hm⟩
  · exact ⟨_, _, _, rfl⟩

/-! The entry of an event. -/

theorem eventIsEntered : claimEventIsEntered := by
  intro s e rest hev hup s1
  refine ⟨fun h => ?_, fun hcode hdue => ?_⟩
  · have htamper : ¬ (e.code = 0x0B01 && s.sec.tamperDue) = true := by
      rcases h with h | h <;> simp [h]
    simp only [exec, execEventLogEntry, hev, hup, if_true]
    rw [if_neg htamper]
  · simp only [exec, execEventLogEntry, hev, hup, if_true]
    rw [if_pos (by simp [hcode, hdue])]

/-- The state in which an event's record stands in the ring, or is lost and counted (R377, R389). -/
def State.ringed (s : State) (e : Ev) : State :=
  { s with host :=
      if (s.host.head + 1) % 1024 == s.host.tail then
        { s.host with evseq := s.host.evseq + 1, ovf := min cntMax (s.host.ovf + 1) }
      else { s.host with
        evseq := s.host.evseq + 1, ring := s.host.ring.put (64 * s.host.head) (toLE 64 (eventRec e (s.host.evseq + 1)))
        head := (s.host.head + 1) % 1024 } }

/-- The latest records kept for FLT_READ once event `e` is entered (R430). -/
def State.latestWith (s : State) (e : Ev) : List (Nat × Nat × Ev × Nat) :=
  if 2 ≤ classOf e.code e.level then
    s.latest.filter (fun x => !(x.1 == e.level && x.2.1 == e.unit)) ++ [(e.level, e.unit, e, s.host.evseq + 1)]
  else s.latest

/-- The requests of a slice stop once event `e` is entered (R487). -/
def State.fabWith (s : State) (e : Ev) : FabS :=
  if startsStop e then
    { s.fab with stopQ := s.fab.stopQ ++ [(0, stopRec e.stc s.fab.node e.code e.unit e.level (s.host.evseq + 1))] }
  else s.fab

/-- What the interrupts of an event's entry leave: pending bits, the gap and the summary. -/
theorem State.irqs_frame (s : State) (full : Bool) (cls bits : Nat) (always : Bool) :
    ∃ pba due ge sn out, (if full then s else s.recordIrq cls).summarise bits always = { s with
      host := { s.host with summary := s.host.summary ||| bits, pba := pba, gapDue := due, gapEnd := ge, sumNow := sn }
      out := out } := by
  cases full
  · obtain ⟨pba, due, ge, out, hr⟩ := s.recordIrq_frame cls
    rw [if_neg Bool.false_ne_true, hr]
    obtain ⟨pba, sn, out, hs⟩ := State.summarise_frame
      { s with host := { s.host with pba := pba, gapDue := due, gapEnd := ge }, out := out } bits always
    exact ⟨pba, due, ge, sn, out, hs⟩
  · obtain ⟨pba, sn, out, hs⟩ := s.summarise_frame bits always
    exact ⟨pba, s.host.gapDue, s.host.gapEnd, sn, out, by rw [if_pos rfl, hs]⟩

theorem State.logEvent_frame (s : State) (e : Ev) :
    ∃ pba due ge sn out, s.logEvent e = { s with
      host := { (s.ringed e).host with
        summary := s.host.summary ||| (summaryOf e + (if (s.host.head + 1) % 1024 == s.host.tail then 256 else 0))
        pba := pba, gapDue := due, gapEnd := ge, sumNow := sn }
      latest := s.latestWith e, fab := s.fabWith e, out := out } := by
  obtain ⟨pba, due, ge, sn, out, h⟩ := State.irqs_frame { s.ringed e with latest := s.latestWith e }
    ((s.host.head + 1) % 1024 == s.host.tail) (classOf e.code e.level)
    (summaryOf e + (if (s.host.head + 1) % 1024 == s.host.tail then 256 else 0)) (e.code == 0x1F || e.code == 0x0401)
  have hent : (if classOf e.code e.level ≥ 2 then
      { s.ringed e with
        latest := s.latest.filter (fun x => !(x.1 == e.level && x.2.1 == e.unit)) ++ [(e.level, e.unit, e, s.host.evseq + 1)] }
      else s.ringed e) = { s.ringed e with latest := s.latestWith e } := by
    simp only [State.latestWith]
    split <;> rfl
  refine ⟨pba, due, ge, sn, out, ?_⟩
  simp only [State.ringed] at hent h
  simp only [State.logEvent, State.fabWith, State.ringed]
  rw [hent, h]
  split <;> split <;> rfl

theorem entryOfAnEvent : claimEntryOfAnEvent := by
  intro s e t full
  obtain ⟨pba, due, ge, sn, out, h⟩ := s.logEvent_frame e
  have hbits : (if (s.host.head + 1) % 1024 == s.host.tail then 256 else 0) = if full then 256 else 0 := by
    simp only [full, beq_iff_eq]
  rw [hbits] at h
  have hring (hf : full) : s.ringed e = { s with host := {
      s.host with evseq := s.host.evseq + 1, ovf := min cntMax (s.host.ovf + 1) } } := by
    rw [State.ringed, if_pos (by simpa using hf)]
  have hput (hf : ¬ full) : s.ringed e = { s with host := { s.host with
      evseq := s.host.evseq + 1, ring := s.host.ring.put (64 * s.host.head) (toLE 64 (eventRec e (s.host.evseq + 1)))
      head := (s.host.head + 1) % 1024 } } := by
    rw [State.ringed, if_neg (by simpa using hf)]
  have hseq : (s.ringed e).host.evseq = s.host.evseq + 1 := by
    by_cases hf : full
    · rw [hring hf]
    · rw [hput hf]
  simp only [t]
  rw [h]
  refine ⟨hseq, fun hf => ?_, fun hf => ?_, rfl, fun hc => ?_, fun hc => ?_, fun hs => ?_, fun hs => ?_, rfl, rfl, rfl, rfl, rfl,
    rfl, rfl, rfl⟩
  · rw [hring hf]
    exact ⟨rfl, rfl, rfl⟩
  · rw [hput hf]
    exact ⟨rfl, rfl, rfl⟩
  · rw [State.latestWith, if_pos hc]
    simp
  · rw [State.latestWith, if_neg (Nat.not_le.2 hc)]
  · rw [State.fabWith, if_pos hs]
    exact ⟨_, rfl⟩
  · simp only [State.fabWith, hs, Bool.false_eq_true, if_false]

/-! The interrupt gap and the summaries of corrections. -/

theorem gapEnds : claimGapEnds := by
  intro s t hclk hgap
  refine ⟨fun hlt => ?_, fun hle hdue => ?_, fun hle hdue => ?_⟩ <;>
    simp only [exec, execEvtIrqGapExpiry, hgap] <;> rw [onPart_of_true hclk]
  · rw [if_pos hlt]
  · rw [if_neg (Nat.not_lt.2 hle), hdue]
    rfl
  · rw [if_neg (Nat.not_lt.2 hle), if_pos hdue]

theorem exec_correctedSummary {s : State} {level u : Nat} (hclk : s.pwr.stopped = false) (hu : u < unitsOf level) (kind : Nat) :
    exec (.correctedSummary level u kind) s = .next (s.summary level u kind) := onPart_of hclk hu _

theorem correctionsAreSummed : claimCorrectionsAreSummed := by
  intro s u hclk
  refine ⟨?_, ?_, ?_⟩
  · intro kind i hki hu
    rw [exec_correctedSummary hclk hu]
    simp only [List.mem_cons, Prod.mk.injEq, List.not_mem_nil, or_false] at hki
    rcases hki with ⟨rfl, rfl⟩ | ⟨rfl, rfl⟩ | ⟨rfl, rfl⟩ <;>
      exact ⟨fun hn => by simp [State.summary, hn, lvBlock, -List.getD_eq_getElem?_getD],
        fun hn => by simp [State.summary, hn, lvBlock, -List.getD_eq_getElem?_getD]⟩
  · intro hu hn
    rw [exec_correctedSummary hclk hu]
    simp [State.summary, hn, lvBlock, lvRegion]
  · intro hu hn
    rw [exec_correctedSummary hclk hu]
    simp [State.summary, hn, lvBlock, lvRegion, lvStack]

/-- Settles O43. -/
theorem eventsAreLogged : Obligations.EventsAreLogged := ⟨eventIsEntered, entryOfAnEvent, gapEnds, correctionsAreSummed⟩

end Sys2Proof.Machine
end

section
/-! PROOFS. Power transitions and the order of their steps (R443, R445, R448). -/

namespace Sys2Proof.Machine

/-! Moves of the chip, of a region and of a link that end. -/

theorem exec_regionTransitionComplete {r : Nat} (hr : r < 4) (s : State) :
    exec (.regionTransitionComplete r) s = .next (s.regionDone r) := onUnit_of hr _

theorem exec_linkTransitionComplete {s : State} {l : Nat} (hclk : s.pwr.stopped = false) (hl : l < 64) :
    exec (.linkTransitionComplete l) s = .next (s.linkDone l) := onPart_of hclk hl _

theorem transitionsComplete : claimTransitionsComplete := by
  refine ⟨?_, ?_, ?_⟩
  · intro s n t hmove hup hclk
    refine ⟨fun hlt => ?_, fun hle hn hc => ?_, fun hle hn hc => ?_, fun hle hn hruns => ?_⟩ <;>
      simp only [exec, execChipTransitionComplete, State.chipDone, hmove, hup, hclk]
    · simp [hlt]
    · simp [Nat.not_lt.2 hle, hn, hc]
    · simp [Nat.not_lt.2 hle, hn, hc]
    · subst hn
      simp [Nat.not_lt.2 hle, hruns]
  · intro s r t n hr hmove hup hclk
    rw [exec_regionTransitionComplete hr]
    simp only [State.regionDone, hmove, hup, hclk]
    refine ⟨fun hlt => ?_, fun hn hoff => ?_, fun hle hn hon => ?_, fun hle hn hst => ?_⟩
    · simp [hlt]
    · simp [hn, hoff]
    · have hheld : ¬ (n = .run ∧ s.issueOn = false) := fun h => by simp [hon h.1] at h
      simp [Nat.not_lt.2 hle, hn, hheld]
    · subst hn
      simp [Nat.not_lt.2 hle, hst]
  · intro s l hl hclk hup
    rw [exec_linkTransitionComplete hclk hl]
    refine ⟨fun hst hgoal htx => ?_, fun hst hgoal htx => ?_, fun hst hgoal => ?_, fun hgoal => ?_⟩
    · simp [State.linkDone, hup, hst, hgoal, htx]
    · simp [State.linkDone, hup, hst, hgoal, htx]
    · simp [State.linkDone, hup, hst, hgoal]
    · cases hst : (s.link l).st <;> simp [State.linkDone, hup, hst, hgoal]

/-! The next step of the chip and of a region. -/

@[simp] theorem State.updRegionBlocks_pwr (s : State) (r : Nat) (f : Nat → Block → Block) : (s.updRegionBlocks r f).pwr = s.pwr := by
  simp only [State.updRegionBlocks]
  induction regionBlocks r generalizing s with
  | nil => rfl
  | cons n ns ih => exact ih (s.updBlock n (f n))

@[simp] theorem State.regionStep_pwr (s : State) (r : Nat) : (s.regionStep r).pwr = s.pwr := by
  simp only [State.regionStep]
  split
  · rfl
  · split
    · exact s.updRegionBlocks_pwr r _
    · rfl

@[simp] theorem State.regionsStep_pwr (s : State) : s.regionsStep.pwr = s.pwr := by
  simp [State.regionsStep]

/-- The part with the goals of its regions brought down to what chip state `n` allows, and their next steps begun. -/
def State.lowered (s : State) (n : Nat) : State :=
  ({ s with regions := s.regions.map (fun (g : Region) =>
    if g.goal.code > (chipRegion n).code then { g with goal := chipRegion n } else g) }).regionsStep

@[simp] theorem State.lowered_pwr (s : State) (n : Nat) : (s.lowered n).pwr = s.pwr := by simp [State.lowered]

/-- Regions that rest no higher than a chip state allows. -/
theorem restsAt_iff {gs : List Region} {n : Nat} :
    gs.all (fun g => g.move.isNone && decide (g.st.code ≤ (chipRegion n).code)) = true ↔
      ∀ g ∈ gs, g.move = none ∧ g.st.code ≤ (chipRegion n).code := by
  simp

/-- A chip that has begun to move down has its regions at rest. -/
theorem State.chipStep_down {s : State} {n t : Nat} (hmove : s.pwr.chipMove = none) (hlt : s.pwr.chipGoal < s.pwr.chip)
    (hstep : s.chipStep.pwr.chipMove = some (n, t)) :
    n + 1 = s.pwr.chip ∧ s.chipStep.regions = (s.lowered n).regions ∧
      (s.lowered n).regions.all (fun g => g.move.isNone && decide (g.st.code ≤ (chipRegion n).code)) = true := by
  have hne : ¬ s.pwr.chipGoal = s.pwr.chip := by omega
  have hngt : ¬ s.pwr.chipGoal > s.pwr.chip := by omega
  have hstays : (s.lowered (s.pwr.chip - 1)).pwr.chipMove ≠ some (n, t) := by simp [hmove]
  simp only [State.chipStep, hmove, hne, hngt, Option.isSome_none, decide_false, Bool.or_false, Bool.false_eq_true, if_false]
    at hstep ⊢
  split at hstep
  · next hc =>
    rw [if_pos hc]
    split at hstep
    · next hquiet =>
      simp only [Option.some.injEq, Prod.mk.injEq] at hstep
      obtain ⟨rfl, -⟩ := hstep
      exact ⟨by omega, by rw [if_pos hquiet]; rfl, hquiet⟩
    · exact absurd hstep hstays
  · next hc =>
    have hchip : s.pwr.chip = 1 := by simpa using hc
    rw [if_neg hc]
    split at hstep
    · next hquiet =>
      simp only [Option.some.injEq, Prod.mk.injEq] at hstep
      obtain ⟨rfl, -⟩ := hstep
      rw [hchip] at hquiet ⊢
      exact ⟨rfl, by rw [if_pos hquiet]; rfl, (Bool.and_eq_true_iff.1 hquiet).1⟩
    · exact absurd hstep hstays

theorem nextPowerStep : claimNextPowerStep := by
  refine ⟨?_, ?_, ?_, ?_⟩
  · intro s hmove hlt
    have hne : ¬ s.pwr.chipGoal = s.pwr.chip := by omega
    simp [State.chipStep, hmove, hlt, hne]
  · intro s hgoal
    simp [State.chipStep, hgoal]
  · intro s n t hmove hlt hstep
    obtain ⟨hn, hregions, hrest⟩ := State.chipStep_down hmove hlt hstep
    rw [hregions]
    exact ⟨hn, restsAt_iff.1 hrest⟩
  · intro s r hmove hgoal
    have hon : ¬ (s.region r).goal = .off := fun h => by simp [h, RegSt.code] at hgoal
    simp only [State.regionNext, hmove, hon, hgoal, Option.isSome_none, decide_false, Bool.false_and, Bool.false_eq_true, if_false,
      if_true]
    refine ⟨fun h => if_neg ?_, fun hst hrun => if_pos ?_⟩
    · intro hboth
      simp only [Bool.and_eq_true, decide_eq_true_eq, List.any_eq_true] at hboth
      obtain ⟨hst, x, hx, hm⟩ := hboth
      rcases h with h | h
      · exact h hst
      · split at hm
        · next e he => exact h x hx e he
        · exact Bool.false_ne_true hm
    · obtain ⟨x, hx, e, he⟩ := hrun
      simp only [Bool.and_eq_true, decide_eq_true_eq, List.any_eq_true]
      exact ⟨hst, x, hx, by simp only [he]⟩

/-- Settles O56. -/
theorem powerSteps : Obligations.PowerSteps := ⟨transitionsComplete, nextPowerStep⟩

end Sys2Proof.Machine
end

section
/-! PROOFS. Core-die, warm and package resets (R449, R450, R533). -/

namespace Sys2Proof.Machine

/-! What a core-die reset leaves of the blocks, the regions and the stacks. -/

theorem mem_mapNum {α β : Type} {f : Nat → α → β} {l : List α} {i : Nat} {y : β} (h : y ∈ mapNum f i l) :
    ∃ k, ∃ x ∈ l, y = f k x := by
  induction l generalizing i with
  | nil => simp [mapNum] at h
  | cons x xs ih =>
    simp only [mapNum, List.mem_cons] at h
    rcases h with rfl | h
    · exact ⟨i, x, by simp, rfl⟩
    · obtain ⟨k, z, hz, hy⟩ := ih h
      exact ⟨k, z, by simp [hz], hy⟩

theorem Block.coreReset_idle (b : Block) (k : Option Nat) :
    (b.coreReset k).st = .idle ∧ (b.coreReset k).jobs = [] ∧ (b.coreReset k).tiles = [] ∧ (b.coreReset k).pins = [] := by
  cases k <;> exact ⟨rfl, rfl, rfl, rfl⟩

theorem Region.coreReset_low (g : Region) (k : Option Nat) :
    ((g.coreReset k).st = .off ∨ (g.coreReset k).st = .retain) ∧ (g.coreReset k).move = none := by
  simp only [Region.coreReset]
  split <;> simp [Region.reset]

/-- An update engine at rest, as a core-die reset leaves it: lanes seeded anew, no trigger, no pin, no scatter row. -/
def Stack.SueRests (k : Stack) : Prop :=
  k.sue.lanes = seedLanes 1024 0 ∧ k.sue.queue = [] ∧ k.scas = [] ∧
    ∀ x ∈ k.sue.binds, x.pin0 = 0 ∧ x.pin1 = 0 ∧ x.writing = false ∧ x.trig = none

theorem State.putStack_frame (s : State) (n : Nat) (k : Stack) :
    ∃ ev bt ho, s.putStack n k = { s with stks := s.stks.set n { k with evs := [] }, events := ev, boot := bt, host := ho } :=
  ⟨_, _, _, State.emits_frame ..⟩

@[simp] theorem State.putStack_stks (s : State) (n : Nat) (k : Stack) :
    (s.putStack n k).stks = s.stks.set n { k with evs := [] } := by
  obtain ⟨ev, bt, ho, h⟩ := s.putStack_frame n k
  rw [h]

theorem State.stack_putStack_self {s : State} {n : Nat} (h : n < s.stks.length) (k : Stack) :
    (s.putStack n k).stack n = { k with evs := [] } := by simp [State.stack, h]

theorem State.stack_putStack_other {s : State} {n m : Nat} (h : m ≠ n) (k : Stack) : (s.putStack n k).stack m = s.stack m := by
  simp [State.stack, h.symm]

theorem State.stackCoreReset_rests {s : State} {n : Nat} (h : n < s.stks.length) : ((s.stackCoreReset n).stack n).SueRests := by
  rw [State.stackCoreReset, State.stack_putStack_self h]
  simp only [Stack.SueRests, Stack.sueCoreReset, true_and]
  intro x hx
  rw [List.mem_map] at hx
  obtain ⟨y, -, rfl⟩ := hx
  exact ⟨rfl, rfl, rfl, rfl⟩

theorem State.foldl_stackCoreReset_rests {n : Nat} (l : List Nat) (s : State) (hlen : n < s.stks.length)
    (h : n ∈ l ∨ (s.stack n).SueRests) : ((l.foldl State.stackCoreReset s).stack n).SueRests := by
  induction l generalizing s with
  | nil => simpa using h
  | cons m ms ih =>
    refine ih _ (by simp [State.stackCoreReset, hlen]) ?_
    by_cases hm : n = m
    · subst hm
      exact .inr (State.stackCoreReset_rests hlen)
    · rcases h with h | h
      · exact .inl (by simpa [hm] using h)
      · refine .inr ?_
        rw [State.stackCoreReset, State.stack_putStack_other hm]
        exact h

theorem State.coreReset_sueRests {s : State} {n : Nat} (cause : Nat) (hn : n < 12) (hlen : n < s.stks.length) :
    ((s.coreReset cause).stack n).SueRests := by
  have hab := congrArg Fixed.stks (s.abandonAll_fixed 4)
  simp only [State.fixed] at hab
  have hstk : (s.coreReset cause).stack n = ((List.range numStacks).foldl State.stackCoreReset (s.abandonAll 4)).stack n := by
    simp only [State.coreReset, State.stack]
  rw [hstk]
  exact State.foldl_stackCoreReset_rests (List.range numStacks) _ (lt_of_lt_of_eq hlen hab.symm) (.inl (List.mem_range.2 hn))

theorem coreDieReset : claimCoreDieReset := by
  refine ⟨?_, ?_, ?_, fun b => ⟨rfl, rfl, rfl, rfl, rfl, rfl, rfl⟩, ?_, ?_⟩
  · intro s rail hrail hup t
    have hnum : rail < numRails := Nat.lt_trans hrail (by decide)
    simp only [exec, execCoreDieReset, onUnit_of hnum, State.coreDieReset, hup, hrail, t, decide_true, Bool.and_self, if_true]
  · intro s hup hgood hreset t
    simp only [exec, execResetNLow, State.resetLow, hup, hgood, hreset, t, Bool.and_self, if_true]
  · intro s cause t
    have hsue (n : Nat) (hn : n < 12) (hlen : n < s.stks.length) := State.coreReset_sueRests cause hn hlen
    simp only [State.coreReset] at hsue
    simp only [t, State.coreReset, true_and]
    refine ⟨fun b hb => ?_, fun g hg => ?_, hsue⟩
    · obtain ⟨k, x, -, rfl⟩ := mem_mapNum hb
      exact x.coreReset_idle _
    · obtain ⟨k, x, -, rfl⟩ := mem_mapNum hg
      exact x.coreReset_low _
  · intro s hup hcore hheld s1
    have hback : s.coreRailsBack = if s.pwr.lowAt.isSome || !s.pwr.resetN then s1 else s1.coreRelease :=
      if_pos (by simp [hup, hcore, hheld])
    simp only [exec, execCoreDieResetRelease, hback]
    refine ⟨fun h => congrArg _ (if_pos ?_), fun hlow hreset => congrArg _ (if_neg ?_)⟩
    · rcases h with h | h
      · simp [Option.isSome_iff_ne_none.2 h]
      · simp [h]
    · simp [hlow, hreset]
  · intro s hup hreset hheld hcore hlo hhi
    simp [exec, execWarmReset, State.resetRises, hup, hreset, hheld, hcore, State.coreRelease, Nat.not_lt.2 hlo, Nat.not_le.2 hhi]

theorem packageReset : claimPackageReset := by
  refine ⟨fun s => rfl, ?_, ?_, ?_, ?_, ?_, ?_⟩
  · intro s t hup hlow hlt
    simp [exec, execPackageReset, onUnit, numRails, State.packageReset, hlow, hup, hlt]
  · intro s cause hlo hhi hup
    have h0 : cause ≠ 0 := by omega
    have h1 : cause ≠ 1 := by omega
    simp [exec, execPackageReset, onUnit, numRails, State.packageReset, h0, h1, hlo, hup, hhi]
  · intro s t
    refine ⟨rfl, rfl, rfl, rfl, rfl, rfl, rfl, rfl, rfl, rfl, rfl, ?_⟩
    simp [t, State.cleared, Function.comp_def]
  · intro s w a hgood
    simp [exec, execPwrGoodRise, State.goodRises, hgood]
  · intro s low hgood hosc hlow
    have hexec : exec (.oscWaitExpiry low) s = .next (s.oscEnds low) := by
      have hall : low.all (fun r => decide (r < numRails)) = true := List.all_eq_true.2 fun r hr => decide_eq_true (hlow r hr)
      simp only [exec, execOscWaitExpiry, onUnit]
      rw [if_pos hall]
    rw [hexec]
    refine ⟨fun h => ?_, fun h => ?_⟩
    · simp [State.oscEnds, hgood, hosc, h, State.crustStarts]
    · simp [State.oscEnds, hgood, hosc, h]
  · intro s hgood hcrust hosc hheld
    simp [exec, execResetLevelRelease, State.railsBack, hgood, hcrust, hosc, hheld, State.crustStarts]

/-- Settles O57. -/
theorem resets : Obligations.Resets := ⟨coreDieReset, packageReset⟩

end Sys2Proof.Machine
end

section
/-! PROOFS. COLL: its issue (R346, R349). -/

namespace Sys2Proof.Machine

/-! COLL. -/

theorem exec_coll {ik : (Nat → List (Nat × Nat) → Instr) × Nat} (h : ik ∈ collKinds) (n : Nat) (transit : List (Nat × Nat))
    (s : State) : exec (ik.1 n transit) s = onUnit (n < 144) (s.issueColl n ik.2 transit) := by
  simp only [collKinds] at h
  fin_cases h <;> rfl

section
variable {s : State} {n w k : Nat} {transit : List (Nat × Nat)}

theorem State.issueColl_hold (hp : s.prepColl (s.block n) w n transit = .hold) (hr : s.ready n .a w) :
    s.issueColl n k transit = s := by
  obtain ⟨-, -, hword, -⟩ := hr
  simp only [Block.seqr] at hword
  simp only [State.issueColl, hword, hp, ite_self]

/-- A COLL that its block may issue, as its instruction's condition reads. -/
theorem State.ready_coll (hr : s.ready n .a w) (hk : bits w 46 3 = k) :
    (s.canIssue n && (bits w 46 3 == k) && !((s.block n).waitsWipe .a w)) = true := by
  obtain ⟨-, hmay, -, hwipe⟩ := hr
  have hcan : s.canIssue n = true := by
    simp only [State.mayIssue, Bool.and_eq_true] at hmay
    exact hmay.1
  simp [hcan, hk, hwipe]

theorem State.issueColl_fault {e : ErrI} (hp : s.prepColl (s.block n) w n transit = .fault e) (hr : s.ready n .a w)
    (hop : opOf .a w = .coll) (hk : bits w 46 3 = k) :
    s.issueColl n k transit = s.blockFault n 0 (s.block n).seqA.pc e := by
  obtain ⟨-, -, hword, -⟩ := id hr
  simp only [Block.seqr] at hword
  simp only [State.issueColl, hword, hop, Bool.true_and, State.ready_coll hr hk, hp, if_true]

theorem State.issueColl_go {b1 : Block} {a : Nat} {c : Coll} (hp : s.prepColl (s.block n) w n transit = .go (b1, a, c))
    (hr : s.ready n .a w) (hop : opOf .a w = .coll) (hk : bits w 46 3 = k) :
    s.issueColl n k transit = ((((if c.form = .close then
        (List.range 8).foldl (fun t x => t.updAcu x (fun u => { u with cseq := (u.cseq + 1) % 256 })) (s.putBlock n { b1 with wd := 0 })
      else (s.putBlock n { b1 with wd := 0 }).updAcu a (fun u => { u with cseq := (u.cseq + 1) % 256 })).updAcu a
        (fun u => { u with colls := u.colls ++ [c] })).pump a).checkDone n) := by
  obtain ⟨-, -, hword, -⟩ := id hr
  simp only [Block.seqr] at hword
  simp only [State.issueColl, hword, hop, Bool.true_and, State.ready_coll hr hk, hp, if_true]

end

/-- Settles O29: each kind goes by what its preparation answers. -/
theorem collectiveIssues : Obligations.CollectiveIssues := by
  intro ik hik s n w transit hr hop hk u
  rw [exec_coll hik, onUnit_of hr.1]
  refine ⟨fun hfull => ?_, fun hroom hax => ?_, fun b1 a c hp hform => ?_, fun b1 a c hp hform => ?_⟩
  · have hp : s.prepColl (s.block n) w n transit = .hold := by
      simp only [State.prepColl]
      exact if_pos hfull
    rw [State.issueColl_hold hp hr]
  · have hp : s.prepColl (s.block n) w n transit = .fault (ErrI.of 0x1C) := by
      simp only [State.prepColl]
      rw [if_neg (Nat.not_le.2 hroom), if_pos (by simp [hax])]
    rw [State.issueColl_fault hp hr hop hk]
  · rw [State.issueColl_go hp hr hop hk, if_neg hform]
  · rw [State.issueColl_go hp hr hop hk, if_pos hform]

end Sys2Proof.Machine
end

section
/-! PROOFS. Packets of a collective as they are taken, and the closing contribution (R349 to R354, R360, R361). -/

namespace Sys2Proof.Machine

/-! Packets of a collective. -/

theorem State.takeColl_take {s : State} {a phase : Nat} {ready : Packet → Bool} {p : Packet} {rest : List Packet}
    (h5 : phase ≠ 5) (h : takeable phase ready [] (s.acu a).inq = some (p, rest)) (f : State → Packet → State) :
    s.takeColl a phase ready f = f ((s.freeSlot p).updAcu a (fun u => { u with inq := rest })) p := by
  simp only [State.takeColl, if_neg h5, h]

theorem State.takeColl_abort {s : State} {a : Nat} {ready : Packet → Bool} {p : Packet} {rest : List Packet}
    (h : abortIn ready [] (s.acu a).inq = some (p, rest)) (f : State → Packet → State) :
    s.takeColl a 5 ready f = f ((s.freeSlot p).updAcu a (fun u => { u with inq := rest })) p := by
  simp only [State.takeColl, if_true, h]

/-- Settles O30. -/
theorem collectivePacketsAreTaken : Obligations.CollectivePacketsAreTaken := by
  intro s a u p rest c ha hclk s1 q
  refine ⟨?_, ?_, ?_, ?_, ?_⟩
  · intro htake hfind
    have hexec : exec (.collHeadReceive a) s = .next (s1.collHead a p) :=
      (onPart_of hclk ha _).trans (congrArg _ (State.takeColl_take (by decide) htake _))
    rw [hexec]
    refine ⟨fun heq => ?_, fun hne => ?_⟩
    · simp only [State.collHead, q] at hfind ⊢
      simp only [hfind, heq, if_true]
    · simp only [State.collHead, q] at hfind ⊢
      simp only [hfind, if_neg hne]
  · intro htake hfind c1 wr hdata hgate
    have hexec : exec (.collDataReceive a) s = .next (s.collData a s1 p) := by
      refine (onPart_of hclk ha _).trans (congrArg _ ?_)
      rw [htake]
      exact State.takeColl_take (by decide) htake _
    rw [hexec]
    simp only [State.collData, q] at hfind ⊢
    simp only [hfind, hdata, hgate]
  · intro htake hfind pos left flag s2
    have hexec : exec (.collFlagReceive a) s = .next (s1.collFlag a p) :=
      (onPart_of hclk ha _).trans (congrArg _ (State.takeColl_take (by decide) htake _))
    rw [hexec]
    simp only [State.collFlag, q] at hfind ⊢
    simp only [hfind]
    exact ⟨fun hle => congrArg _ (if_neg (Nat.not_lt.2 hle)), fun hlt => congrArg _ (if_pos hlt)⟩
  · intro x htake hfind word pos left d s2 s3
    have hexec : exec (.collCloseReceive a) s = .next (s1.collClose a p) :=
      (onPart_of hclk ha _).trans (congrArg _ (State.takeColl_take (by decide) htake _))
    rw [hexec]
    simp only [State.collClose, q] at hfind ⊢
    simp only [hfind]
    rfl
  · intro htake cause left d node relay
    have hexec : exec (.collAbortReceive a) s = .next (s1.collAbort a p) :=
      (onPart_of hclk ha _).trans (congrArg _ (State.takeColl_abort htake _))
    rw [hexec]
    refine ⟨fun hfind => ⟨fun hne => ?_, fun heq => ?_⟩, fun x hfind hclose hpast => ?_⟩
    · simp only [cause] at hne
      simp only [State.collAbort, q] at hfind ⊢
      simp only [hfind, if_neg hne, relay, cause, left, d, node, q, gt_iff_lt]
    · simp only [cause] at heq
      simp only [State.collAbort, q] at hfind ⊢
      simp only [hfind, heq, if_true, relay, cause, left, d, node, q, gt_iff_lt]
    · simp only [State.collAbort, q] at hfind hclose hpast ⊢
      simp only [hfind, hclose, hpast, relay, cause, left, d, node, q, gt_iff_lt]

/-! The closing contribution, where one sequence number stands twice. -/

/-- A closing collective of training step `step` that has not made its contribution. -/
def closingOf (step : Nat) : Coll where
  cseq := 0
  b := 0
  job := 0
  kind := 2
  op := 1
  fmt := .int64
  form := .close
  root := 0
  dir := 0
  n := 0
  chunk := 0
  members := []
  pos := 0
  wraps := false
  step := step
  dl := none
  src := 0
  dst := 0
  sq := false
  bind := none
  own := []
  ownS := []
  started := false
  out := []
  sent := []
  come := []
  part := []
  done := 0
  nf := false
  flags := []
  unsent := 0
  bad := false
  word := 0
  words := []
  axes := []

/-- Unit 0 holds two closing collectives of one sequence number, of steps 0 and 1. -/
def twinClosings : State :=
  { State.reset with fab := { State.reset.fab with acus := [{ Acu.reset with colls := [closingOf 0, closingOf 1] }] } }

/-- The words of the collectives of unit 0 after a command. -/
def Res.closeWords (r : Res) : List Nat :=
  match r with
  | .next t => (t.acu 0).colls.map Coll.word
  | _ => []

theorem twinClosings_words : Res.closeWords (exec .closingCollective twinClosings) = [0, 0] := by decide +kernel

/-- Refutes O31: the closing contribution is a word of the step of the collective that the unit found first, and the statement writes
into each collective of that sequence number a word of its own step. In `twinClosings` two share the number and not the step: both
get step 0's word, where the statement gives the second step 1's. -/
theorem not_collectivesEnd : ¬ Obligations.CollectivesEnd := by
  intro ⟨_, h, _⟩
  obtain ⟨-, hexec⟩ := h twinClosings 0 (closingOf 0) [(0, closingOf 1)] (by decide +kernel) (by decide +kernel)
  have hwords := congrArg Res.closeWords (hexec (by decide +kernel))
  rw [twinClosings_words] at hwords
  revert hwords
  decide +kernel

end Sys2Proof.Machine
end

section
/-! PROOFS. Transfers between blocks, the scrubber and the secure wipe (R151, R154, R155, R159). -/

namespace Sys2Proof.Machine

/-! Transfers between blocks. -/

theorem exec_nocTransferDelivery {s : State} {src dst : Nat} (hclk : s.pwr.stopped = false) (hs : src < 144) (hd : dst < 144)
    (bad : Bool) : exec (.nocTransferDelivery src dst bad) s = .next (s.nocDeliver src dst bad) := onPart_of_two hclk hs hd _

theorem transferDeliveredOrDiscarded : claimTransferDeliveredOrDiscarded := by
  refine ⟨?_, ?_⟩
  · intro s src dst bad x hsrc hdst hclk hfind b s1 touches at_ s2
    rw [exec_nocTransferDelivery hclk hsrc hdst]
    have htouch : (!x.rd && x.runs.any (fun r => inSecure r.1 r.2.length)) = true ↔ touches := by
      simp [touches]
    have hdeny (c : Bool) (h : ¬ (c = true ∧ touches)) :
        ¬ (c && (!x.rd && x.runs.any (fun r => inSecure r.1 r.2.length))) = true := by
      rw [Bool.and_eq_true, htouch]
      exact h
    simp only [State.nocDeliver, hfind]
    refine ⟨fun hg => ?_, fun hg => ?_, fun hg hwipe ht => ?_, fun hg hfree => ⟨fun hbad => ?_, fun hbad hseq hrd => ?_,
      fun hbad hseq hrd hsec ht => ?_, fun hbad hseq hrd hsec => ?_⟩⟩
    · simp only [hg]
    · simp only [hg]
      rfl
    · simp only [hg]
      rw [if_pos (by rw [htouch.2 ht, Bool.and_true]; exact hwipe)]
    all_goals simp only [hg]; rw [if_neg (hdeny _ hfree)]
    · rw [if_pos (by rcases hbad with h | h <;> simp [h, b])]
      rfl
    · rw [if_neg (by simp [hbad, ← hseq, b]), if_pos hrd]
    · rw [if_neg (by simp [hbad, ← hseq, b]), if_neg (by simp [hrd]), if_pos (by rw [htouch.2 ht, Bool.and_true]; exact hsec)]
    · rw [if_neg (by simp [hbad, ← hseq, b]), if_neg (by simp [hrd]), if_neg (hdeny _ hsec)]
  · intro s n f j hn hclk hfind hj
    have hexec : exec (.nocE2e n) s = .next (s.nocE2e n) := onPart_of hclk hn _
    rw [hexec]
    simp only [State.nocE2e, hfind, hj]

/-! The scrubber and the secure wipe. -/

theorem Block.scrubTick_frame (b : Block) : b.scrubTick = { b with
    spad := b.scrubTick.spad, ctr := b.scrubTick.ctr, corrNow := b.scrubTick.corrNow, evs := b.scrubTick.evs
    scrubAt := b.scrubTick.scrubAt } := by
  simp only [Block.scrubTick]
  split <;> split <;> rfl

theorem Block.scrubTick_scrubAt (b : Block) : b.scrubTick.scrubAt = if 65536 ≤ b.scrubAt + 1 then 0 else b.scrubAt + 1 := by
  simp only [Block.scrubTick, ge_iff_le]
  split <;> rfl

/-- The store and the events that a scrub leaves are those of the word it stood at. -/
theorem Block.scrubTick_word (b : Block) :
    (b.spad.state b.scrubAt = .clean → b.scrubTick.spad = b.spad ∧ b.scrubTick.evs = b.evs) ∧
    (∀ p e, b.spad.state b.scrubAt = .corrected p e → b.scrubTick.spad = b.spad.fix b.scrubAt ∧ b.scrubTick.evs = b.evs) ∧
    (b.spad.state b.scrubAt = .uncorrectable → b.scrubTick.spad = b.spad.poison b.scrubAt ∧
      b.scrubTick.evs = b.evs ++ [(0x0102, 32 * b.scrubAt, 0)]) := by
  refine ⟨fun h => ?_, fun p e h => ?_, fun h => ?_⟩ <;> simp only [Block.scrubTick, h] <;> split <;> exact ⟨rfl, rfl⟩

theorem scrubAndWipe : claimScrubAndWipe := by
  refine ⟨?_, ?_⟩
  · intro s n hn hon b w
    have hexec : exec (.scratchpadScrubTick n) s = .next (s.putBlock n b.scrubTick) :=
      (onUnit_of hn _).trans (congrArg _ (if_pos hon))
    obtain ⟨hclean, hfix, hpoison⟩ := b.scrubTick_word
    exact ⟨b.scrubTick, hexec, b.scrubTick_scrubAt, hclean, hfix, hpoison, b.scrubTick_frame⟩
  · intro s n hn hclk hwipe
    have hend : s.updBlock n Block.endWipe = s.updBlock n (fun b => { b with
        spad := b.spad.zero secBase (2 ^ 18), wiping := false, sec := b.sec && !b.clearSec, clearSec := false }) :=
      State.updBlock_congr (if_pos hwipe)
    rw [← hend]
    exact onPart_of hclk hn _

/-- Settles O32. -/
theorem meshScrubAndWipe : Obligations.MeshScrubAndWipe := ⟨transferDeliveredOrDiscarded, scrubAndWipe⟩

end Sys2Proof.Machine
end

section
/-! PROOFS. The start of a block and its clock, and pins (R165, R263 to R272, R446). -/

namespace Sys2Proof.Machine

/-! Starting a block and its clock. -/

theorem startMessageStartsTheBlock : claimStartMessageStartsTheBlock := by
  intro s n hn hclk hin s1 r
  have hexec : exec (.blockStartMessage n) s = .next (s.startMessage n) := onPart_of hclk hn _
  rw [hexec]
  simp only [State.startMessage, hin, if_true]
  refine ⟨fun hst => ?_, fun hst hrun => ?_, fun hst hrun => ?_, fun hst => ?_⟩
  · simp only [r] at hst
    simp only [hst]
    rfl
  · simp only [r] at hst
    simp only [hst, hrun, if_true]
    rfl
  · simp only [r] at hst
    simp only [hst, if_neg hrun]
    rfl
  · simp only [r] at hst
    rcases hst with hst | hst <;> simp only [hst] <;> rfl

theorem startAppliesTheHeader : claimStartAppliesTheHeader :=
  fun _ => ⟨rfl, rfl, rfl, rfl, rfl, rfl, rfl, rfl, rfl, rfl, rfl, rfl, rfl⟩

theorem clocksRampAndGate : claimClocksRampAndGate := by
  refine ⟨?_, ?_⟩
  · intro s n rest hn hline
    have hexec : exec (.blockClockRampComplete n) s = .next (s.rampDone n) := onUnit_of hn _
    rw [hexec]
    simp only [State.rampDone, hline]
    exact ⟨fun hon => by simp [hon], fun hoff => by simp [hoff]⟩
  · intro s n hn hclk hreg hrun hended hjobs hidle
    refine (onPart_of hclk hn _).trans (congrArg _ ?_)
    have hst : ((s.block n).st == .done || (s.block n).st == .stopped || (s.block n).st == .faulted) = true := by
      rcases hended with h | h | h <;> simp [h]
    simp only [State.clockGate, hst, hreg, hrun, hjobs, List.isEmpty_nil, hidle, decide_true, Bool.and_self, if_true]

/-- Settles O34. -/
theorem startingABlock : Obligations.StartingABlock :=
  ⟨startMessageStartsTheBlock, startAppliesTheHeader, clocksRampAndGate⟩

/-! Pins. -/

theorem exec_pinRequest {s : State} {n : Nat} (hclk : s.pwr.stopped = false) (hn : n < 144) (h : Nat) :
    exec (.pinRequest n h) s = .next (s.pinRequest n h) := onPart_of hclk hn _

theorem pinRequestIsAnswered : claimPinRequestIsAnswered := by
  intro s n h r hn hclk hfind
  rw [exec_pinRequest hclk hn]
  simp only [State.pinRequest, hfind]
  refine ⟨fun hnone => ?_, fun k b hk hb => ⟨fun ⟨hsplit, hbusy⟩ => ?_, fun hfree hfull => ?_, fun hfree hroom => ?_⟩⟩
  · simp only [State.askPin, hnone]
  · have hheld : (b.split && (b.writing || b.rolling)) = true := by
      rcases hbusy with h | h <;> simp [hsplit, h]
    simp only [State.askPin, hk, hb, hheld, if_true]
  · have hheld : ¬ (b.split && (b.writing || b.rolling)) = true := by simpa using hfree
    simp only [State.askPin, hk, hb, if_neg hheld]
    rw [if_pos hfull]
  · have hheld : ¬ (b.split && (b.writing || b.rolling)) = true := by simpa using hfree
    simp only [State.askPin, hk, hb, if_neg hheld]
    rw [if_neg (Nat.not_le.2 hroom)]

theorem pinGrantRefusalRelease : claimPinGrantRefusalRelease := by
  refine ⟨?_, ?_, ?_⟩
  · intro s n h k slot ver r hn hclk b hfind hans users b1 b2
    refine (onPart_of hclk hn _).trans (congrArg _ ?_)
    simp only [State.pinGrant]
    split
    · next hnone => exact nomatch hnone.symm.trans hfind
    · next hsome =>
      cases Option.some.inj (hsome.symm.trans hfind)
      simp only [hans]
      rfl
  · intro s n h sub r hn hclk b hfind hans hsup
    refine (onPart_of hclk hn _).trans (congrArg _ ?_)
    simp only [State.pinRefused]
    split
    · next hnone => exact nomatch hnone.symm.trans hfind
    · next hsome =>
      cases Option.some.inj (hsome.symm.trans hfind)
      simp only [hans, hsup, Bool.false_eq_true, if_false]
      rfl
  · intro s n h k r hn hclk hfind hk
    refine (onPart_of hclk hn _).trans (congrArg _ ?_)
    simp only [State.pinRelease, hfind, hk]

/-- Settles O35. -/
theorem pins : Obligations.Pins := ⟨pinRequestIsAnswered, pinGrantRefusalRelease⟩

end Sys2Proof.Machine
end

section
/-! PROOFS. Stacks: writes, requests, scatter rows and the controllers' own work (R217, R237 to R252, R447). -/

namespace Sys2Proof.Machine

/-! Writes, requests and scatter rows. -/

/-- What a write to a stack does by the stack's gate. -/
theorem State.storeIf_ok {s : State} {n : Nat} (hg : s.stackGate n = .ok) (off : Nat) (bs : List PByte) :
    s.storeIf n off bs = (s.storeStack n off bs).settle n := by
  simp only [State.storeIf, hg]

theorem State.storeIf_wait {s : State} {n : Nat} (hg : s.stackGate n = .wait) (off : Nat) (bs : List PByte) :
    s.storeIf n off bs = (s.wakeStack n).updStack n (fun k => { k with edge := k.edge ++ [(off, bs)] }) := by
  simp only [State.storeIf, hg]

theorem State.storeIf_refused {s : State} {n : Nat} (hg : s.stackGate n = .refused) (off : Nat) (bs : List PByte) :
    s.storeIf n off bs = s := by
  simp only [State.storeIf, hg]

theorem exec_stackWriteAccept {s : State} {n off : Nat} {data : List Byte} (hclk : s.pwr.stopped = false) (hn : n < 12)
    (hlen : off + data.length ≤ stackBytes) :
    exec (.stackWriteAccept n off data) s = .next (s.storeIf n off (cleanBytes data)) := onPart_of_two hclk hn hlen _

theorem exec_triggerWrite {s : State} {n layer : Nat} {b : Bind} (hclk : s.pwr.stopped = false) (hn : n < 12)
    (hb : (s.stack n).sue.bind layer = some b) (w : Nat) :
    exec (.triggerWrite n layer w) s = .next (s.storeIf n b.trigOff (cleanBytes (toLE 8 w))) := by
  refine (onPart_of hclk hn _).trans (congrArg _ ?_)
  simp only [State.triggerWrite, hb]

theorem exec_stepWordWrite {s : State} {n o : Nat} (hclk : s.pwr.stopped = false) (hn : n < 12)
    (ho : (s.stack n).sue.stepOff = some o) (w : Nat) :
    exec (.stepWordWrite n w) s = .next (s.storeIf n o (cleanBytes (toLE 8 w))) := by
  refine (onPart_of hclk hn _).trans (congrArg _ ?_)
  simp only [State.stepWrite, ho]

theorem stackWritesAreAccepted : claimStackWritesAreAccepted := by
  intro s n hn hclk
  refine ⟨fun off data hlen hg => ?_, fun off data hlen hg => ?_, fun off data hlen hg => ?_, fun layer w b hb hg => ?_,
    fun layer w b hb hg => ?_, fun w o ho hg => ?_⟩
  · rw [exec_stackWriteAccept hclk hn hlen, State.storeIf_ok hg]
  · rw [exec_stackWriteAccept hclk hn hlen, State.storeIf_wait hg]
  · rw [exec_stackWriteAccept hclk hn hlen, State.storeIf_refused hg]
  · rw [exec_triggerWrite hclk hn hb, State.storeIf_wait hg]
  · rw [exec_triggerWrite hclk hn hb, State.storeIf_ok hg]
  · rw [exec_stepWordWrite hclk hn ho, State.storeIf_ok hg]

theorem stackRequestQueues : claimStackRequestQueues := by
  intro s n cls off len wr hn hcls hlen hclk hg
  have hwf : (decide (n < 12) && decide (cls < 5) && decide (off + len ≤ stackBytes)) = true := by simp [hn, hcls, hlen]
  simp only [exec, execStackRequest, hwf, onPart_of_true hclk, State.stackRequest, if_neg hg, Stack.ask]

theorem exec_scaRowApply {s : State} {n : Nat} (hclk : s.pwr.stopped = false) (hn : n < 12) :
    exec (.scaRowApply n) s = .next (s.scaApply n) := onPart_of hclk hn _

theorem scatterRowIsApplied : claimScatterRowIsApplied := by
  refine ⟨?_, ?_⟩
  · intro s n r rest hn hclk hrow hg
    rw [exec_scaRowApply hclk hn]
    simp only [State.scaApply, hrow, hg]
  · intro s n b job r rest hn hclk hrow hg hwho ko s1 w
    rw [exec_scaRowApply hclk hn]
    simp only [State.scaApply, hrow, hg, hwho]
    refine ⟨fun hret => ?_, fun hret => ?_⟩
    · simp only [hret, Bool.false_eq_true, if_false]
      rfl
    · simp only [hret, if_true]
      rfl

/-- Settles O36. -/
theorem stackWritesRequestsRows : Obligations.StackWritesRequestsRows :=
  ⟨stackWritesAreAccepted, stackRequestQueues, scatterRowIsApplied⟩

/-! The controllers' own work. -/

theorem State.updStack_congr {s : State} {n : Nat} {f g : Stack → Stack} (h : f (s.stack n) = g (s.stack n)) :
    s.updStack n f = s.updStack n g := by
  rw [State.updStack, State.updStack, updAt_congr h]

theorem updAt_id {α : Type} (l : List α) (i : Nat) : updAt l i id = l := by
  induction l generalizing i with
  | nil => rfl
  | cons a l ih =>
    cases i with
    | zero => rfl
    | succ i => rw [updAt, ih]

theorem State.updStack_self {s : State} {n : Nat} {f : Stack → Stack} (h : f (s.stack n) = s.stack n) : s.updStack n f = s := by
  rw [State.updStack_congr (g := id) h, State.updStack, updAt_id]

theorem exec_writePromotion {s : State} {n ch : Nat} (hclk : s.pwr.stopped = false) (hn : n < 12) (hch : ch < 32) :
    exec (.writePromotion n ch) s = .next (s.updStack n (fun k => k.promote s.now ch)) := onPart_of_two hclk hn hch _

/-- A channel that switched runs the other way. -/
theorem Stack.switch_wr {k : Stack} {ch : Nat} (h : ch < k.chans.length) (now : Nat) :
    ((k.switch now ch).chans.getD ch ⟨false, 0, 0⟩).wr = !(k.chans.getD ch ⟨false, 0, 0⟩).wr := by
  have hget : (k.switch now ch).chans.getD ch ⟨false, 0, 0⟩ = ⟨!(k.chans.getD ch ⟨false, 0, 0⟩).wr, now, k.slotN + switchSlots⟩ :=
    getD_updAt_self k.chans ch (fun c => ⟨!c.wr, now, k.slotN + switchSlots⟩) _ h
  rw [hget]

section
variable {k : Stack} {now ch : Nat} {r : SReq}

theorem Stack.promote_same (hr : k.reqs.find? (fun r => (place r.off).pc / 2 == ch && r.promoted now) = some r)
    (hwr : (k.chans.getD ch ⟨false, 0, 0⟩).wr = r.wr) : k.promote now ch = k.serveSlot now (place r.off).pc := by
  have hstay : ¬ (decide ((k.chans.getD ch ⟨false, 0, 0⟩).wr ≠ r.wr) && k.mustSwitch now ch) = true := by simp only [hwr]; simp
  simp only [Stack.promote, hr]
  rw [if_neg hstay, if_pos hwr]

theorem Stack.promote_turns (hr : k.reqs.find? (fun r => (place r.off).pc / 2 == ch && r.promoted now) = some r)
    (hch : ch < k.chans.length) (hwr : (k.chans.getD ch ⟨false, 0, 0⟩).wr ≠ r.wr) (hmust : k.mustSwitch now ch = true) :
    k.promote now ch = (k.switch now ch).serveSlot now (place r.off).pc := by
  have hturned : ((k.switch now ch).chans.getD ch ⟨false, 0, 0⟩).wr = r.wr := by
    rw [Stack.switch_wr hch]
    revert hwr
    cases (k.chans.getD ch ⟨false, 0, 0⟩).wr <;> cases r.wr <;> simp
  have hturn : (decide ((k.chans.getD ch ⟨false, 0, 0⟩).wr ≠ r.wr) && k.mustSwitch now ch) = true := by
    rw [hmust, decide_eq_true hwr]
    rfl
  simp only [Stack.promote, hr]
  rw [if_pos hturn, if_pos hturned]

theorem Stack.promote_waits (hr : k.reqs.find? (fun r => (place r.off).pc / 2 == ch && r.promoted now) = some r)
    (hwr : (k.chans.getD ch ⟨false, 0, 0⟩).wr ≠ r.wr) (hmust : k.mustSwitch now ch = false) : k.promote now ch = k := by
  have hstay : ¬ (decide ((k.chans.getD ch ⟨false, 0, 0⟩).wr ≠ r.wr) && k.mustSwitch now ch) = true := by simp [hmust]
  simp only [Stack.promote, hr]
  rw [if_neg hstay, if_neg hwr]

end

theorem stackControllersWork : claimStackControllersWork := by
  intro s n hn hclk k
  refine ⟨fun l hl ht hroom => ?_, fun ch r hch hlen hstk hr => ⟨fun hwr => ?_, fun hwr hmust => ?_, fun hwr hmust => ?_⟩,
    fun ch hch hstk hmust => ?_, fun hstk hact => ⟨Config.free s.freeN, ?_⟩, fun c => ?_, fun hact => ?_⟩
  · have htimeout : (s.stack n).lineTimeout s.now l.line = k.flush s.now l := by
      simp only [k] at hl hroom
      simp only [Stack.lineTimeout, hl, hroom, ge_iff_le, ht, decide_true, Bool.and_self, if_true]
      rfl
    exact (onPart_of hclk hn _).trans (by rw [htimeout])
  · rw [exec_writePromotion hclk hn hch, State.updStack_congr (g := fun k => k.serveSlot s.now (place r.off).pc) (Stack.promote_same hr hwr)]
  · rw [exec_writePromotion hclk hn hch, State.updStack_congr
      (g := fun k => (k.switch s.now ch).serveSlot s.now (place r.off).pc) (Stack.promote_turns hr hlen hwr hmust)]
  · rw [exec_writePromotion hclk hn hch, State.updStack_self (Stack.promote_waits hr hwr hmust)]
  · exact (onPart_of_two hclk hn hch _).trans (congrArg _ (State.updStack_congr (if_pos hmust)))
  · exact (onPart_of hclk hn _).trans (congrArg _ (if_pos hact))
  · exact onPart_of hclk hn _
  · exact (onPart_of hclk hn _).trans (congrArg _ (if_pos hact))

theorem selfRefreshEntryAndWake : claimSelfRefreshEntryAndWake := by
  intro s n hn hclk
  have hwake : exec (.stackWake n) s = .next (s.stackReady n) := onPart_of hclk hn _
  refine ⟨fun hst => ?_, fun hst hlt => ?_, fun hst hle => ?_⟩
  · refine (onPart_of hclk hn _).trans (congrArg _ ?_)
    simp only [State.selfEntered, State.enterSelf, hst, if_true]
    rfl
  · rw [hwake]
    simp [State.stackReady, Nat.not_le.2 hlt]
  · rw [hwake]
    simp only [State.stackReady, hst, hle, decide_true, Bool.and_self, if_true]
    rfl

/-- Settles O37. -/
theorem stackControllers : Obligations.StackControllers := ⟨stackControllersWork, selfRefreshEntryAndWake⟩

end Sys2Proof.Machine
end

section
/-! PROOFS. The update engines: triggers, passes, the close of a step, rollback and deadlines (R264 to R286, R303 to R307). -/

namespace Sys2Proof.Machine

/-! What keeps a stack's update engine or its store as it is. -/

@[simp] theorem Stack.touch_sue (k : Stack) (off len : Nat) : (k.touch off len).sue = k.sue := by
  simp only [Stack.touch]
  split <;> rfl

@[simp] theorem Stack.touch_mem (k : Stack) (off len : Nat) : (k.touch off len).mem = k.mem := by
  simp only [Stack.touch]
  split <;> rfl

@[simp] theorem Stack.readReq_sue (k : Stack) (now cls off len : Nat) : (k.readReq now cls off len).sue = k.sue :=
  k.touch_sue off len

@[simp] theorem Stack.sueRead_sue (k : Stack) (now off len : Nat) : (k.sueRead now off len).sue = k.sue :=
  k.touch_sue off len

@[simp] theorem Stack.sueRead_mem (k : Stack) (now off len : Nat) : (k.sueRead now off len).mem = k.mem :=
  k.touch_mem off len

/-- A fold of steps that keep the update engine. -/
theorem Stack.foldl_sue {α : Type} {f : Stack → α → Stack} (hf : ∀ k a, (f k a).sue = k.sue) (l : List α) (k : Stack) :
    (l.foldl f k).sue = k.sue := by
  induction l generalizing k with
  | nil => rfl
  | cons a l ih => rw [List.foldl_cons, ih, hf]

@[simp] theorem Stack.flush_sue (k : Stack) (now : Nat) (l : WLine) : (k.flush now l).sue = k.sue :=
  Stack.foldl_sue (fun k w => k.readReq_sue now 2 (64 * l.line + 32 * w) 32) _ _

@[simp] theorem Stack.evict_sue (k : Stack) (now : Nat) : (k.evict now).sue = k.sue := by
  simp only [Stack.evict]
  split
  · exact k.flush_sue now _
  · rfl

@[simp] theorem Stack.putPiece_sue (k : Stack) (now : Nat) (upd : Bool) (off : Nat) (bs : List PByte) :
    (k.putPiece now upd off bs).sue = k.sue := by
  unfold Stack.putPiece
  extract_lets ln o k0 l0
  split
  next l k1 hlk =>
  extract_lets valid bad l' k2
  have hk1 : k1.sue = k.sue := by
    split at hlk
    · cases hlk
      rfl
    · cases hlk
      simp only [k0]
      split
      · exact k.evict_sue now
      · rfl
  split
  · exact (k2.flush_sue now l').trans hk1
  · exact hk1

@[simp] theorem Stack.put_sue (k : Stack) (now : Nat) (upd : Bool) (off : Nat) (bs : List PByte) :
    (k.put now upd off bs).sue = k.sue := by
  simp only [Stack.put]
  exact Stack.foldl_sue (f := fun kk (p : Nat × List PByte) => kk.putPiece now upd p.1 p.2)
    (fun k p => k.putPiece_sue now upd p.1 p.2) _ _

@[simp] theorem Stack.putBack_sue (k : Stack) (now : Nat) (bads : List Nat) (base : Nat) (bs : List PByte) :
    (k.putBack now bads base bs).sue = k.sue := by
  simp only [Stack.putBack]
  split <;> simp

@[simp] theorem Stack.back_sue (now : Nat) (bads : List Nat) (cs : List (Nat × Nat × Nat)) (k : Stack) :
    (Stack.back now bads cs k).sue = k.sue :=
  Stack.foldl_sue (fun k c => by simp) _ _

@[simp] theorem Stack.loadRow_sue (k : Stack) (now : Nat) (b : Bind) (bads : List Nat) (pos : Nat) :
    (k.loadRow now b bads pos).sue = k.sue := by simp [Stack.loadRow]

@[simp] theorem Stack.restore_sue (k : Stack) (now : Nat) (b : Bind) (m fill : Nat) (bads : List Nat) :
    (k.restore now b m fill bads).sue = k.sue := by
  simp only [Stack.restore]
  split
  · rfl
  · split
    · exact Stack.foldl_sue (fun k j => k.loadRow_sue now b bads _) _ _
    · exact Stack.back_sue ..

@[simp] theorem Stack.writeStats_sue (k : Stack) (now : Nat) (b : Bind) (r : Nat) : (k.writeStats now b r).sue = k.sue :=
  k.put_sue ..

/-! Triggers and passes. -/

theorem mem_foldl_dedup {a : Nat} (l acc : List Nat) (h : a ∈ acc ∨ a ∈ l) :
    a ∈ l.foldl (fun acc a => if acc.contains a then acc else acc ++ [a]) acc := by
  induction l generalizing acc with
  | nil => simpa using h
  | cons x l ih =>
    refine ih _ ?_
    rcases h with h | h
    · left
      dsimp only
      split
      · exact h
      · exact List.mem_append_left _ h
    · rcases List.mem_cons.1 h with rfl | h
      · left
        dsimp only
        split
        · next hmem => exact List.contains_iff_mem.1 hmem
        · simp
      · exact .inr h

theorem mem_dedup {l : List Nat} {a : Nat} (h : a ∈ l) : a ∈ dedup l := mem_foldl_dedup l [] (.inr h)

/-- Two changes of one binding are one, where the first leaves its layer. -/
theorem Stack.updBind_updBind (k : Stack) (l : Nat) {f g : Bind → Bind} (hf : ∀ b, (f b).layer = b.layer) :
    (k.updBind l f).updBind l g = k.updBind l (fun b => g (f b)) := by
  have hone (b : Bind) : (fun b => if b.layer = l then g b else b) (if b.layer = l then f b else b) =
      if b.layer = l then g (f b) else b := by
    by_cases hb : b.layer = l <;> simp [hb, hf]
  simp only [Stack.updBind, Sue.updBind, List.map_map, Function.comp_def, hone]

theorem triggerQueuesOrIsIgnored : claimTriggerQueuesOrIsIgnored := by
  intro k now pol l w b hb hfault step stale
  have hstale : (decide (step = 0xFFFFFFFF) || decide (step ≤ b.last) || decide (step ≤ k.sue.closed)) = true ↔ stale := by
    simp [stale, or_assoc]
  refine ⟨fun h => ?_, fun h t ht => ?_, fun h ht => ?_⟩
  · simp only [Stack.trigger, hb, hfault, Bool.false_eq_true, if_false]
    rw [if_pos (hstale.2 h)]
    rfl
  · simp only [Stack.trigger, hb, hfault, Bool.false_eq_true, if_false, ht]
    rw [if_neg (mt hstale.1 h)]
    rfl
  · simp only [Stack.trigger, hb, hfault, Bool.false_eq_true, if_false, ht]
    rw [if_neg (mt hstale.1 h)]
    exact ⟨rfl, rfl, fun hnf => by rw [if_pos hnf]; exact mem_dedup (by simp [step])⟩

theorem exec_suePassStart {s : State} {n : Nat} (hclk : s.pwr.stopped = false) (hn : n < 12) :
    exec (.suePassStart n) s = .next (s.putSue n ((s.stack n).passStart s.now)) := onPart_of hclk hn _

theorem passStartServesTheFirstTrigger : claimPassStartServesTheFirstTrigger := by
  intro s n l b t hn hclk k hpass hfind hb ht
  rw [exec_suePassStart hclk hn]
  have hstart : (s.stack n).passStart s.now = k.passStart s.now := rfl
  rw [hstart]
  simp only [Stack.passStart, hpass, Option.isSome_none, Bool.false_eq_true, if_false]
  split
  · next hnone => exact nomatch hnone.symm.trans hfind
  · next hsome =>
    cases Option.some.inj (hsome.symm.trans hfind)
    simp only [hb, ht]
    refine ⟨fun hnf hpin => ?_, fun hnf hpin => ⟨_, rfl, ?_⟩, fun hnf hrows => ?_⟩
    · simp only [hnf, Bool.false_eq_true, if_false]
      rw [if_pos hpin]
    · simp only [hnf, Bool.false_eq_true, if_false]
      rw [if_neg (not_not.2 hpin)]
      simp only [Option.some.injEq, exists_eq_left', true_and]
      split
      · rw [Stack.sueRead_mem]
      · rfl
    · simp only [hnf, hrows, Bool.false_eq_true, if_false, if_true]
      rfl

theorem passEndPublishes : claimPassEndPublishes := by
  intro s n p b hn hon k hpass hb rec_ k1
  have hexec : exec (.suePassEnd n) s = .next ((s.putSue n ((s.stack n).passEnd s.now)).pumpAll) :=
    (onUnit_of hn _).trans (congrArg _ (if_pos hon))
  rw [hexec]
  simp only [k] at hpass hb
  refine ⟨fun hbads hgather => ?_, fun w rest hbads => ?_⟩
  · simp only [Stack.passEnd, hpass, hb, hbads, hgather, List.isEmpty_nil, List.head?_nil, Bool.false_eq_true, if_false, if_true]
    rw [Stack.updBind_updBind _ _ (f := fun b => { b with jFill := p.jFill, jOver := p.jOver }) (fun _ => rfl)]
    rfl
  · simp only [Stack.passEnd, hpass, hb, hbads]
    rfl

/-- Settles O38. -/
theorem triggersAndPasses : Obligations.TriggersAndPasses :=
  ⟨triggerQueuesOrIsIgnored, passStartServesTheFirstTrigger, passEndPublishes⟩

/-! Closing a step, the loss scale, rollback and deadlines. -/

@[simp] theorem Stack.updBind_queue (k : Stack) (l : Nat) (f : Bind → Bind) : (k.updBind l f).sue.queue = k.sue.queue := rfl
@[simp] theorem Stack.count_sue (k : Stack) (i n : Nat) : (k.count i n).sue = k.sue := rfl
@[simp] theorem Stack.ev_sue (k : Stack) (code info detail : Nat) : (k.ev code info detail).sue = k.sue := rfl

/-- A rollback changes bindings alone. -/
@[simp] theorem Stack.rollback_queue (k : Stack) (now l : Nat) : (k.rollback now l).sue.queue = k.sue.queue := by
  simp only [Stack.rollback]
  split
  · rfl
  · split
    · rw [Stack.updBind_queue, Stack.ev_sue]
    · rw [Stack.updBind_queue, Stack.count_sue, Stack.ev_sue, Stack.writeStats_sue, Stack.sueRead_sue, Stack.restore_sue]

theorem Stack.foldl_rollback_queue (now : Nat) (ls : List Nat) (k : Stack) :
    (ls.foldl (fun kk l => kk.rollback now l) k).sue.queue = k.sue.queue := by
  induction ls generalizing k with
  | nil => rfl
  | cons l ls ih => rw [List.foldl_cons, ih, Stack.rollback_queue]

@[simp] theorem Sue.rescale_queue (x : Sue) (nf : Bool) : (x.rescale nf).1.queue = x.queue := by
  simp only [Sue.rescale]
  split
  · rfl
  · split
    · rfl
    · split <;> rfl

/-- A step that may close closes, and its triggers' queue stays. -/
theorem Stack.close_closes {k : Stack} {step : Nat} {nf : Bool} (hc : k.sue.closing = some (step, nf)) (hcan : k.sue.canClose = true)
    (now : Nat) (forced : Bool) :
    (k.close now forced).sue.closed = step ∧ (k.close now forced).sue.closing = none ∧
      (k.close now forced).sue.queue = k.sue.queue := by
  unfold Stack.close
  rw [hc]
  dsimp -zeta only
  rw [if_neg (by simp [hcan])]
  extract_lets sue k0 k1 k2 k3
  have hk0 : k0.sue.queue = k.sue.queue := by
    simp only [k0]
    split <;> rfl
  have hk1 : k1.sue.queue = k.sue.queue := by
    simp only [k1]
    split
    · rw [Stack.foldl_rollback_queue, hk0]
    · exact hk0
  have hk2 : k2.sue.closed = step ∧ k2.sue.closing = none ∧ k2.sue.queue = k.sue.queue :=
    ⟨rfl, rfl, (Sue.rescale_queue ..).trans hk1⟩
  have hk3 : k3.sue = k2.sue := by
    simp only [k3]
    split <;> rfl
  split
  · rw [hk3]
    exact hk2
  · rw [Stack.put_sue, hk3]
    exact hk2

theorem stepClosesOnceTriggersEnd : claimStepClosesOnceTriggersEnd := by
  intro s n step nf hn hclk k hc
  have hexec : exec (.stepClose n) s = .next (s.putSue n (k.close s.now s.fab.bigSlice)) := onPart_of hclk hn _
  rw [hexec]
  refine ⟨fun hcan => ?_, fun hcan => ⟨_, rfl, Stack.close_closes hc hcan _ _⟩⟩
  simp [Stack.close, hc, hcan]

theorem lossScaleFollowsTheFlag : claimLossScaleFollowsTheFlag := by
  intro x hmode
  refine ⟨⟨?_, fun hlt => ?_, fun hle => ?_⟩, fun hlt => ?_, fun hle => ⟨?_, fun hlt => ?_, fun hge => ?_⟩⟩
  · simp [Sue.rescale, hmode]
  · simp [Sue.rescale, hmode, hlt, Nat.not_le.2 hlt]
  · simp [Sue.rescale, hmode, hle, Nat.not_lt.2 hle]
  · simp [Sue.rescale, hmode, Nat.not_le.2 hlt]
  · simp [Sue.rescale, hmode, hle]
  · simp [Sue.rescale, hmode, hle, hlt]
  · simp [Sue.rescale, hmode, hle, hge, Nat.not_lt.2 hge]

theorem rollbackAndUpdateDeadlines : claimRollbackAndUpdateDeadlines := by
  intro s n l b hn hclk hb
  refine ⟨onPart_of hclk hn _, fun t dl ht hdl hle => ⟨fun hphase hmiss hon => ?_, fun hphase hpin hon => ?_⟩⟩
  · refine (onPart_of hclk hn _).trans (congrArg _ ?_)
    simp only [State.layerDeadline, hb, ht, hdl]
    rw [if_pos (by simp [hphase, hmiss, hon, hle])]
    rfl
  · refine (onPart_of hclk hn _).trans (congrArg _ ?_)
    simp only [State.pinDeadline, hb, ht, hdl]
    rw [if_pos (by simp [hphase, hpin, hon, hle])]
    rfl

/-- Settles O39. -/
theorem stepsScaleRollbackDeadlines : Obligations.StepsScaleRollbackDeadlines :=
  ⟨stepClosesOnceTriggersEnd, lossScaleFollowsTheFlag, rollbackAndUpdateDeadlines⟩

end Sys2Proof.Machine
end

section
/-! PROOFS. Links: slots, ingress, control slots, injection and reception (R315 to R333). -/

namespace Sys2Proof.Machine

/-! What a link's slot sends. -/

/-- A link in a state that the part's list holds: a default link is OFF. -/
theorem State.link_mem_of_st {s : State} {l : Nat} (h : (s.link l).st ≠ .off) : l < s.fab.links.length := by
  by_contra hl
  refine h ?_
  rw [State.link, FabS.link, List.getD_eq_default _ _ (Nat.le_of_not_lt hl)]
  rfl

theorem State.updLink_congr {s : State} {l : Nat} {f g : Link → Link} (h : f (s.link l) = g (s.link l)) :
    s.updLink l f = s.updLink l g := by
  rw [State.updLink, State.updLink, FabS.updLink, FabS.updLink, updAt_congr h]

theorem updAt_updAt {α : Type} (l : List α) (i : Nat) (f g : α → α) : updAt (updAt l i f) i g = updAt l i (fun x => g (f x)) := by
  induction l generalizing i with
  | nil => rfl
  | cons a l ih =>
    cases i with
    | zero => rfl
    | succ i => rw [updAt, updAt, updAt, ih]

theorem State.updLink_updLink (s : State) (l : Nat) (f g : Link → Link) :
    (s.updLink l f).updLink l g = s.updLink l (fun k => g (f k)) := by
  simp only [State.updLink, FabS.updLink, updAt_updAt]

/-- An update that leaves a link's silence alone. -/
theorem State.mute_updLink {s : State} {m : Nat} {f : Link → Link} (hf : (f (s.link m)).silent = (s.link m).silent) (l now : Nat) :
    ((s.updLink m f).link l).mute now = (s.link l).mute now := by
  by_cases hl : l = m
  · subst hl
    by_cases hin : l < s.fab.links.length
    · rw [State.link_updLink_self _ _ _ hin, Link.mute, hf, Link.mute]
    · have hsame : (s.updLink l f).link l = s.link l := by
        simp [State.link, FabS.link, State.updLink, FabS.updLink, Nat.le_of_not_lt hin]
      rw [hsame]
  · rw [State.link_updLink_other _ _ _ _ hl]

theorem State.mute_freeSlot (s : State) (p : Packet) (l now : Nat) :
    ((s.freeSlot p).link l).mute now = (s.link l).mute now := by
  simp only [State.freeSlot]
  split
  · rw [State.mute_updLink rfl]
  · rfl

theorem State.wire_on {s : State} {l : Nat} (h : (s.link l).mute s.now = false) (o : Out) :
    s.wire l o = { s with out := s.out ++ [o] } := by
  simp [State.wire, h]

@[simp] theorem State.freeSlot_now (s : State) (p : Packet) : (s.freeSlot p).now = s.now := by
  simp only [State.freeSlot]
  split <;> rfl

@[simp] theorem State.freeSlot_out (s : State) (p : Packet) : (s.freeSlot p).out = s.out := by
  simp only [State.freeSlot]
  split <;> rfl

theorem exec_linkSlotTransmit {s : State} {l : Nat} (hclk : s.pwr.stopped = false) (hl : l < 64) :
    exec (.linkSlotTransmit l) s = .next (s.slot l) := onPart_of hclk hl _

section
variable {s : State} {l : Nat}

/-- A slot of a link that keeps its frame. -/
theorem State.slot_slots (hup : s.dieUp (l / 32) = true) (hst : (s.link l).st.slots = true) :
    s.slot l =
      let s1 := s.updLink l (fun _ => { s.link l with
        txPos := ((s.link l).txPos + 1) % 257, sampled := if (s.link l).txPos = 0 then some (s.now / 100) else (s.link l).sampled })
      if (s.link l).txPos = 0 then s1.wire l (.control l (s.ctlBytes l))
      else if (s.link l).st = .up then s1.sendPacket l
      else s1 := by
  have hgate : ((s.link l).st == .training && (s.link l).gate) = false := by
    revert hst
    cases (s.link l).st <;> simp [LinkSt.slots]
  simp only [State.slot, hup, hst, hgate, Bool.not_true, Bool.not_false, Bool.or_false, Bool.and_true, Bool.false_eq_true, if_false,
    decide_eq_true_eq]
  rw [State.updLink_congr]
  rfl

theorem State.slot_gate (hup : s.dieUp (l / 32) = true) (hst : (s.link l).st = .training) (hg : (s.link l).gate = true) :
    s.slot l = (s.updLink l (fun _ => { s.link l with txPos := ((s.link l).txPos + 1) % 257 })).wire l
      (if (s.link l).txPos = 0 then .train l (s.trainBytes l 6 (b2n (s.link l).fast)) else .prbs l) := by
  have hgate : ((s.link l).st == .training && (s.link l).gate) = true := by simp [hst, hg]
  simp only [State.slot, hup, hgate, Bool.not_true, Bool.or_true, Bool.or_false, Bool.and_false, Bool.false_eq_true, if_false, if_true]
  rw [State.updLink_congr]
  rfl

/-- A link whose packets wait for a second credit counts the slot (R331). -/
def Link.waited (k : Link) : Link :=
  if k.tx.any (fun x => x.turn != 0 && k.credits x.p.vc == 1) then k.count lBubble else k

/-- A link that sends packet `x` (R330, R331). -/
def Link.sending (k : Link) (x : TxP) : Link :=
  { k.count lTx with
    tx := k.tx.erase x, sent := updAt k.sent x.p.vc (fun n => (n + 1) % 65536)
    rot := if x.p.vc = 3 then k.rot else (x.p.vc + 1) % 3 }

theorem Link.waited_sending (k : Link) (x : TxP) : k.waited.sending x =
    { k.waited.count lTx with
      tx := k.tx.erase x, sent := updAt k.sent x.p.vc (fun n => (n + 1) % 65536)
      rot := if x.p.vc = 3 then k.rot else (x.p.vc + 1) % 3 } := by
  simp only [Link.waited]
  split <;> rfl

@[simp] theorem Link.waited_silent (k : Link) : k.waited.silent = k.silent := by
  simp only [Link.waited]
  split <;> rfl

theorem State.sendPacket_eq {x : TxP} (hk : (s.link l).choose = some x) :
    s.sendPacket l = ((s.updLink l (fun _ => (s.link l).waited.sending x)).freeSlot x.p).wire l (.packet l { x.p with via := 64 }) := by
  simp only [State.sendPacket, hk]
  rfl

variable {k : Link} (hin : l < s.fab.links.length)
include hin

theorem State.link_set : (s.updLink l (fun _ => k)).link l = k := State.link_updLink_self _ _ _ hin

theorem State.sendPacket_none (hk : k.choose = none) :
    (s.updLink l (fun _ => k)).sendPacket l = s.updLink l (fun _ => k.waited) := by
  simp only [State.sendPacket, State.link_set hin, hk, State.updLink_updLink]
  rfl

theorem State.sendPacket_some {x : TxP} (hk : k.choose = some x) (hon : k.mute s.now = false) :
    (s.updLink l (fun _ => k)).sendPacket l =
      { (s.updLink l (fun _ => k.waited.sending x)).freeSlot x.p with out := s.out ++ [.packet l { x.p with via := 64 }] } := by
  have hmute : (k.waited.sending x).mute s.now = false := by
    rw [Link.mute, show (k.waited.sending x).silent = k.silent from k.waited_silent]
    exact hon
  rw [State.sendPacket_eq (x := x) (by rw [State.link_set hin, hk]), State.link_set hin, State.updLink_updLink, State.wire_on]
  · rw [State.freeSlot_out]
    rfl
  · rw [State.mute_freeSlot, State.freeSlot_now, State.link_set hin]
    exact hmute

end

theorem linkSlotSendsTheChosenPacket : claimLinkSlotSendsTheChosenPacket := by
  intro s l hl hclk hup k on
  rw [exec_linkSlotTransmit hclk hl]
  refine ⟨fun hslots hpos hon => ?_, fun hst hpos => ?_, fun hst hgate hon => ?_⟩
  · rw [State.slot_slots hup hslots]
    dsimp only
    rw [if_pos hpos, State.wire_on (by rw [State.mute_updLink rfl]; exact hon)]
    rw [show (s.link l).txPos = 0 from hpos]
    rfl
  · have hin : l < s.fab.links.length := s.link_mem_of_st (by rw [hst]; decide)
    intro k0 k1
    have hk0 : { s.link l with
        txPos := ((s.link l).txPos + 1) % 257
        sampled := if (s.link l).txPos = 0 then some (s.now / 100) else (s.link l).sampled } = k0 := by
      rw [if_neg hpos]
    rw [State.slot_slots hup (by rw [hst]; rfl)]
    dsimp only
    rw [if_neg hpos, if_pos hst, hk0]
    refine ⟨fun hnone => ?_, fun x hx hon => ?_⟩
    · rw [State.sendPacket_none (k := k0) hin hnone]
      rfl
    · rw [State.sendPacket_some (k := k0) hin hx hon, Link.waited_sending]
      rfl
  · rw [State.slot_gate hup hst hgate, State.wire_on (by rw [State.mute_updLink rfl]; exact hon)]
    rfl

/-! Packets that come in, control slots, and the end of a link. -/

theorem FabS.foreign_false_iff (f : FabS) (l : Nat) (p : Packet) :
    f.foreign l p = false ↔ p.slice ≠ 0 ∧ p.slice = f.slice ∧ f.memberPort (l / 4) = true ∧ f.inBox p.src = true ∧
      f.inBox p.dst = true := by
  simp [FabS.foreign, and_assoc]

theorem LinkSt.takes_of {st : LinkSt} (h : st = .up ∨ st = .standby) : st.takes = true := by
  rcases h with rfl | rfl <;> rfl

theorem ingressForwardsOrDrops : claimIngressForwardsOrDrops := by
  intro s l p0 rx hl hrx hclk hst hup hon p s1 mine s2
  have hexec : exec (.packetIngress l p0 rx) s = .next (s.ingress l p0 rx) := by
    refine (?_ : onPart s (decide (l < 64) && rx.wf false) (s.ingress l p0 rx) = _)
    rw [hrx, Bool.and_true]
    exact onPart_of hclk hl _
  have hmine : s.fab.foreign l p = false ↔ mine := FabS.foreign_false_iff ..
  rw [hexec]
  simp only [State.ingress, LinkSt.takes_of hst, hup, hon, Bool.not_true, Bool.or_false, Bool.false_eq_true, if_false]
  refine ⟨fun hlost => ?_, fun hlost hm => ?_, fun hlost hm hseen => ?_, fun hlost hm hseen => ?_⟩
  · rw [if_pos hlost]
  · rw [if_neg (by simp [hlost]), if_neg (by simp [p, hmine.2 hm])]
  · rw [if_neg (by simp [hlost]), if_pos (by simpa [p] using mt hmine.1 hm), if_pos hseen]
  · rw [if_neg (by simp [hlost]), if_pos (by simpa [p] using mt hmine.1 hm), if_neg hseen]
    rfl

theorem controlSlotsKeepTheLink : claimControlSlotsKeepTheLink := by
  intro s l hl hclk hslots hup
  refine ⟨fun bs rx hrx hon => ?_, fun hold => ?_⟩
  · intro c s1 s2
    have hexec : exec (.controlSlotReceive l bs rx) s = .next (s.ctlSlot l bs rx) := by
      refine (?_ : onPart s (decide (l < 64) && rx.wf true) (s.ctlSlot l bs rx) = _)
      rw [hrx, Bool.and_true]
      exact onPart_of hclk hl _
    rw [hexec]
    simp only [State.ctlSlot, hslots, hup, hon, Bool.not_true, Bool.or_false, Bool.false_eq_true, if_false]
    refine ⟨fun hbad => ?_, fun hok hs => ?_, fun hok hvalid hstate => ?_⟩
    · rw [if_neg (by simp [hbad])]
    · rw [if_pos hok]
      simp only [State.goodSlot]
      rw [if_neg (by simpa [c] using hs)]
      rfl
    · rw [if_pos hok]
      simp only [State.goodSlot]
      rw [if_pos (by simp [← hvalid, ← hstate, c])]
      rfl
  · refine (onPart_of hclk hl _).trans (congrArg _ ?_)
    simp only [State.linkDown, hslots, hup, ge_iff_le, hold, decide_true, Bool.and_self, if_true]
    rfl

/-! Injection and reception. -/

theorem exec_packetInjection {s : State} {d cyc : Nat} (hclk : s.pwr.stopped = false) (hd : d < 2) (hc : cyc < 16) :
    exec (.packetInjection ⟨d, cyc⟩) s = .next (s.inject d cyc) := onPart_of_two hclk hd hc _

theorem injectionNumbersAndKeeps : claimInjectionNumbersAndKeeps := by
  intro s d cyc p o rest hd hc hclk hup e hsplit s1 q
  rw [exec_packetInjection hclk hd hc]
  simp only [e] at hsplit
  simp only [State.inject, hup, hsplit, Bool.not_true, Bool.false_eq_true, if_false]
  refine ⟨fun hbox => ?_, fun hbox hack => ?_, fun hbox hack hlost => ?_, fun hbox hack hlost => ?_⟩
  · rw [if_pos (by simp [hbox])]
  · rw [if_neg (by simp [hbox]), if_pos hack]
  · rw [if_neg (by simp [hbox]), if_neg hack, if_pos hlost]
  · rw [if_neg (by simp [hbox]), if_neg hack, if_neg (by simpa [q, e] using hlost)]

theorem exec_endpointReceive {s : State} {d : Nat} (hclk : s.pwr.stopped = false) (hd : d < 2) :
    exec (.endpointReceive d) s = .next (s.receive d) := onPart_of hclk hd _

theorem receptionCommitsInOrder : claimReceptionCommitsInOrder := by
  intro s d p rest hd hclk hup e hfree s0 s1 behind
  rw [exec_endpointReceive hclk hd]
  simp only [e] at hfree
  simp only [State.receive, hup, hfree, Bool.not_true, Bool.false_eq_true, if_false]
  refine ⟨fun hbad => ?_, fun hok hvc => ?_, fun hok hvc hb hk => ?_, fun hok hvc hb hk => ?_, fun hok hvc hb => ?_⟩
  · rw [if_pos (by simp [hbad])]
  · rw [if_neg (by simp [hok]), if_pos hvc]
  · rw [if_neg (by simp [hok]), if_neg (not_not.2 hvc), if_pos hb, if_neg (by simp [hk])]
  · rw [if_neg (by simp [hok]), if_neg (not_not.2 hvc), if_pos hb, if_pos hk]
  · rw [if_neg (by simp [hok]), if_neg (not_not.2 hvc), if_neg hb]

/-- Settles O40. -/
theorem linksCarryPackets : Obligations.LinksCarryPackets :=
  ⟨linkSlotSendsTheChosenPacket, ingressForwardsOrDrops, controlSlotsKeepTheLink, injectionNumbersAndKeeps, receptionCommitsInOrder⟩

end Sys2Proof.Machine
end

section
/-! PROOFS. Acknowledgement, resending and the answers to messages (R325, R334 to R336, R482). -/

namespace Sys2Proof.Machine

/-! Acknowledgement and resending. -/

/-- Pairs are no matter of the packets that wait at an endpoint or of freed slots. -/
theorem State.pair_inq (s : State) (d : Nat) (rest : List Packet) (p : Packet) (node : Nat) :
    (((s.updEndp d (fun e => { e with inq := rest })).freeSlot p).endp d).pair node = ((s.endp d).pair node) := by
  have hfree : ((s.updEndp d (fun e => { e with inq := rest })).freeSlot p).endp d =
      (s.updEndp d (fun e => { e with inq := rest })).endp d := by
    simp only [State.freeSlot]
    split <;> rfl
  rw [hfree]
  by_cases hd : d < s.fab.endps.length
  · have hself : (s.updEndp d (fun e => { e with inq := rest })).endp d = { s.endp d with inq := rest } :=
      getD_updAt_self _ _ _ _ hd
    rw [hself]
    rfl
  · simp [State.endp, State.updEndp, Nat.le_of_not_lt hd]

/-- A packet that an ACK of number `n` acknowledges (R334). -/
def Kept.under (n : Nat) (k : Kept) : Bool :=
  1 ≤ (n + 2 ^ 24 - k.p.seq) % 2 ^ 24 && decide ((n + 2 ^ 24 - k.p.seq) % 2 ^ 24 ≤ 2 ^ 23)

section
variable {s : State} {d : Nat} {p : Packet} {q : Pair} (hq : (s.endp d).pair p.src = q)
include hq

theorem State.applyAck_none (h : q.kept.filter (Kept.under p.seq) = []) : s.applyAck d p = s := by
  subst hq
  exact if_pos (List.isEmpty_iff.2 h)

theorem State.applyAck_some (h : q.kept.filter (Kept.under p.seq) ≠ []) :
    s.applyAck d p = (q.kept.filter (Kept.under p.seq)).foldl (fun t k => t.acked d k)
      (s.updEndp d (fun e => e.setPair { q with kept := q.kept.filter (fun k => !(k.under p.seq)), retry := 0 })) := by
  subst hq
  exact if_neg (mt List.isEmpty_iff.1 h)

end

theorem exec_ackReceive {s : State} {d : Nat} (hclk : s.pwr.stopped = false) (hd : d < 2) (hup : s.dieUp d = true) {p : Packet}
    {rest : List Packet} (hsplit : splitFirst (fun p => p.typ == tACK) (s.endp d).inq = some (p, rest)) :
    exec (.ackReceive d) s = .next (
      let s1 := (s.updEndp d (fun e => { e with inq := rest })).freeSlot p
      if !(pktOk p) then s1.updEndp d (fun e => e.count eFail)
      else if p.vc ≠ 1 then s1.updEndp d (fun e => e.count eBadType)
      else s1.applyAck d p) := by
  refine (onPart_of hclk hd _).trans (congrArg _ ?_)
  simp only [State.takeAck, State.takeAckOf, hup, Bool.and_true, hsplit, Bool.not_true, Bool.false_eq_true, if_false]

theorem acknowledgeOrResend : claimAcknowledgeOrResend := by
  intro s d node hd hclk hup
  refine ⟨fun t ht hle => ?_, fun p rest hsplit => ?_, fun k rest => ?_⟩
  · refine (onPart_of hclk hd _).trans (congrArg _ ?_)
    simp [State.ackDue, ht, hle, hup]
  · intro q under s1
    have hq : (s1.endp d).pair p.src = q := s.pair_inq d rest p p.src
    rw [exec_ackReceive hclk hd hup hsplit]
    refine ⟨fun hbad => ?_, fun hok hvc hnone => ?_, fun hok hvc hsome => ?_⟩
    · dsimp only
      rw [if_pos (by simp [hbad])]
    · dsimp only
      rw [if_neg (by simp [hok]), if_neg (not_not.2 hvc), State.applyAck_none hq hnone]
    · dsimp only
      rw [if_neg (by simp [hok]), if_neg (not_not.2 hvc), State.applyAck_some hq hsome]
      rfl
  · intro s0 hup0 hkept hlost hto hle q
    have hexec : exec (.resendTimeout d node) s = .next (s.timeout d node) := onPart_of hclk hd _
    rw [hexec]
    simp only [s0] at hup0 hkept hlost hto hle
    have hdue : ¬ ((((s.acksFirst d node).endp d).pair node).lost || !((s.acksFirst d node).dieUp d) ||
        decide ((s.acksFirst d node).fab.timeout = 0) || decide ((s.acksFirst d node).now < k.t + (s.acksFirst d node).fab.timeout)) =
          true := by
      simp [hlost, hup0, hto, hle]
    simp only [State.timeout, hkept]
    rw [if_neg hdue]
    refine ⟨fun hlt => ?_, fun hge => ?_⟩
    · rw [if_pos hlt]
      simp only [q, s0, hkept]
    · rw [if_neg (Nat.not_lt.2 hge)]
      simp only [q, s0, hkept]
      rfl

theorem answersReachTheirJob : claimAnswersReachTheirJob := by
  intro s d p rest r hd hup hr s1r s1e cause
  have hresp : exec (.respReceive d) s = .next (s.takeResp d) := (onUnit_of hd _).trans (congrArg _ (if_pos hup))
  have herr : exec (.errReceive d) s = .next (s.takeErr d) := (onUnit_of hd _).trans (congrArg _ (if_pos hup))
  rw [hresp, herr]
  refine ⟨fun hq hlast => ?_, fun hq hne => ?_, fun hq heq => ?_⟩
  · simp only [State.takeResp, hq, hr, hlast, if_true]
    rfl
  · simp only [State.takeErr, hq, hr]
    rw [if_neg hne]
  · simp only [State.takeErr, hq, hr]
    rw [if_pos heq]
    rfl

/-- Settles O41. -/
theorem acknowledgeAndAnswers : Obligations.AcknowledgeAndAnswers := ⟨acknowledgeOrResend, answersReachTheirJob⟩

end Sys2Proof.Machine
end

section
/-! PROOFS. The step counter, records and the slice stop (R365, R366, R370, R487 to R491). -/

namespace Sys2Proof.Machine

/-! The step counter. -/

/-- A round that no sample is far off counts no outlier and emits nothing. -/
theorem filter_far_nil {l : List (Nat × Int)} (h : ∀ x ∈ l, x.2.natAbs ≤ 10 * 2 ^ 32) :
    l.filter (fun x => decide (x.2.natAbs > 10 * 2 ^ 32)) = [] ∧ l.filter (fun x => decide (x.2.natAbs ≤ 10 * 2 ^ 32)) = l := by
  refine ⟨List.filter_eq_nil_iff.2 fun x hx => ?_, List.filter_eq_self.2 fun x hx => decide_eq_true (h x hx)⟩
  simpa using h x hx

theorem stepCounterSynchronises : claimStepCounterSynchronises := by
  refine ⟨?_, ?_, ?_, ?_⟩
  · intro s hcrust hclk
    refine ⟨fun hlt => ?_, fun hle => ?_⟩ <;> simp only [exec, execStcSyncRound, hcrust, hclk]
    · simp [Nat.not_le.2 hlt]
    · simp [hle]
  · intro s hsome hfree hnear
    obtain ⟨hfar, hall⟩ := filter_far_nil hnear
    have hne : (s.samples.map Prod.snd).isEmpty = false := by simpa using hsome
    simp only [State.syncRound, hfar, hall, List.filter_nil, List.foldl_nil, hne, hfree, Bool.false_eq_true, if_false, if_true,
      List.length_nil, Nat.add_zero, and_self]
  · intro s hnone
    simp only [State.syncRound, hnone, List.filter_nil, List.foldl_nil, List.map_nil, List.isEmpty_nil, if_true, and_self]
  · intro s t hclk hquiet hfree hnode hle
    refine (onPart_of_true hclk _).trans (congrArg _ ?_)
    simp [State.seedTimeout, hquiet, hfree, hnode, hle]

/-! Records and the slice stop. -/

theorem State.takeCtrl_take {s : State} {typ : Nat} {p : Packet} {rest : List Packet}
    (hsplit : splitFirst (fun p => fld p.payload 0 1 == typ) s.fab.ctrlq = some (p, rest))
    (hup : (({ s with fab := { s.fab with ctrlq := rest } }).relayOn p typ).coreUp = true)
    (htransit : (({ s with fab := { s.fab with ctrlq := rest } }).relayOn p typ).fab.transit = false) (f : State → Nat → State) :
    s.takeCtrl typ f = f (({ s with fab := { s.fab with ctrlq := rest } }).relayOn p typ) (fld p.payload 32 32) := by
  simp only [State.takeCtrl, hsplit]
  rw [if_pos (by rw [hup, htransit]; rfl)]

theorem recordsAndSliceStop : claimRecordsAndSliceStop := by
  refine ⟨?_, ?_, ?_⟩
  · intro s p rest hclk hsplit s1 hup htransit
    exact (onPart_of_true hclk _).trans (congrArg _ (State.takeCtrl_take hsplit hup htransit _))
  · intro s p rest hclk hsplit s1 hup htransit
    exact (onPart_of_true hclk _).trans (congrArg _ (State.takeCtrl_take hsplit hup htransit _))
  · intro s how r rest hup hq s1 old s2
    have hexec : exec .sliceStop s = .next s.sliceStop := congrArg _ (if_pos hup)
    rw [hexec]
    have hold : (decide (how = 1) && decide (bits r 192 64 < s.fab.lastStart)) = true ↔ old := by simp [old]
    simp only [State.sliceStop, hq]
    refine ⟨fun h => ?_, fun hfresh hoff => ?_⟩
    · rw [if_pos (by rw [Bool.or_eq_true, hold]; exact h)]
      rfl
    · rw [if_neg (by rw [Bool.or_eq_true, hold]; simp [hfresh, hoff])]
      rfl

/-- Settles O42. -/
theorem timeAndRecords : Obligations.TimeAndRecords := ⟨stepCounterSynchronises, recordsAndSliceStop⟩

end Sys2Proof.Machine
end

section
/-! PROOFS. Mailbox writes, handoffs and the end of a command (R378, R379, R384, R387). -/

namespace Sys2Proof.Machine

/-! Mailbox writes and handoffs. -/

theorem exec_mailboxWrite {m off : Nat} {data : List Byte} (hm : m < 16) (hlen : off + data.length ≤ 4096) (s : State) :
    exec (.mailboxWrite m off data) s = .next (s.mbxWrite m off data) := onUnit_of_two hm hlen _

theorem exec_mbxHandoff {m off : Nat} {data : List Byte} (hm : m < 16) (hlen : off + data.length ≤ 4096) (s : State) :
    exec (.mbxHandoff m off data) s = .next (s.mbxWrite m off data) := onUnit_of_two hm hlen _

section
variable {s : State} {m off : Nat} {data : List Byte} (hup : s.crustUp = true) (hdata : data ≠ [])
include hup hdata

theorem State.mbxWrite_late (h : s.host.owned m = true ∨ (off < 4 ∧ ¬ (off = 0 ∧ 4 ≤ data.length))) :
    s.mbxWrite m off data = s.lateWrite := by
  have hgo : ¬ (!s.crustUp || data.isEmpty) = true := by simp [hup, hdata]
  rw [State.mbxWrite, if_neg hgo]
  by_cases hown : s.host.owned m = true
  · rw [if_pos hown]
  · obtain ⟨hoff, hpart⟩ := h.resolve_left hown
    have hctl : (decide (off < 4) && !(decide (off = 0) && decide (data.length ≥ 4))) = true := by
      simp only [hoff, decide_true, Bool.true_and, Bool.not_eq_true', Bool.and_eq_false_imp, decide_eq_true_eq, decide_eq_false_iff_not]
      exact fun h0 h4 => hpart ⟨h0, h4⟩
    rw [if_neg hown, if_pos hctl]

theorem State.mbxWrite_lands (hown : s.host.owned m = false) (h : 4 ≤ off ∨ (off = 0 ∧ 4 ≤ data.length)) :
    s.mbxWrite m off data =
      let h := s.host.putMbx m off (mbxLay (s.host.mbx.raw (4096 * m + off) data.length) off data)
      if h.owned m then ({ s with host := h.latchHand m }).wakeChip else { s with host := h } := by
  have hgo : ¬ (!s.crustUp || data.isEmpty) = true := by simp [hup, hdata]
  have hctl : ¬ (decide (off < 4) && !(decide (off = 0) && decide (data.length ≥ 4))) = true := by
    rcases h with h | ⟨h0, h4⟩
    · simp [Nat.not_lt.2 h]
    · simp [h0, h4]
  rw [State.mbxWrite, if_neg hgo, if_neg (by simp [hown]), if_neg hctl]

end

theorem mailboxWrites : claimMailboxWrites := by
  intro s m off data hm hlen hup hdata h
  refine ⟨fun hown hoff hkept => ?_, fun hown hoff hgiven => ?_, fun hlate => ?_, fun hnow => ?_, fun k hnow hhand hk => ?_⟩
  · rw [exec_mailboxWrite hm hlen, State.mbxWrite_lands hup hdata hown hoff]
    dsimp only
    rw [if_neg (by simpa [h] using hkept)]
  · rw [exec_mbxHandoff hm hlen, State.mbxWrite_lands hup hdata hown hoff]
    dsimp only
    rw [if_pos hgiven]
  · rw [exec_mailboxWrite hm hlen, State.mbxWrite_late hup hdata hlate]
    rfl
  · simp [HostS.latchHand, hnow]
  · have hkm : ¬ k < m := by omega
    simp [HostS.latchHand, hnow, hhand, hkm, Nat.le_of_lt hk]

theorem exec_thallusWake {s : State} {m : Nat} {rest : List Nat} (hq : s.host.hand = m :: rest) (hready : s.boot.ready = true)
    (hup : s.thallusUp = true) :
    exec .thallusWake s = .next (({ s with host := { s.host with hand := rest } }).begin_ m) := by
  simp only [exec, execThallusWake, hq, hready, hup, Bool.and_self, if_true]

/-- The command that mailbox `m` hands over. -/
def State.handed (s : State) (m : Nat) : Cmd :=
  { m := m, op := s.host.mbxField m 4 2, flags := s.host.mbxField m 6 2, seq := s.host.mbxField m 1 1,
    dl := if s.dlOn 3 then s.host.mbxField m 16 8 else 0,
    pars := s.host.mbx.raw (4096 * m + 32) (min (s.host.mbxField m 8 4) 4064), begun := false, late := false, ans := none, keep := [],
    t0 := s.now }

/-- `t` with command `c` among the running ones, with its answer where a check gave one. -/
def State.withRun (t : State) (c : Cmd) (st : Option Nat) : State :=
  { t with host := { t.host with runs := t.host.runs ++ [{ c with ans := st.map (fun x => (x, [])) }] } }

/-- Some command in progress claims what a command of these claims would. -/
def State.clashes (s : State) (cl : List Claim) : Bool :=
  ((s.host.runs.filter (fun r => r.begun || r.ans.isNone)).map (fun r => claimsOf r.op r.pars)).any
    (fun o => conflict cl o || claimsAll cl || claimsAll o)

section
variable {s : State} {m need : Nat}

theorem State.begin_unknown (hop : opTable.find? (fun x => x.1 == s.host.mbxField m 4 2) = none) :
    s.begin_ m = s.withRun (s.handed m) (some stOpcode) := by
  simp only [State.begin_, hop]
  rfl

variable (hop : opTable.find? (fun x => x.1 == s.host.mbxField m 4 2) = some (s.host.mbxField m 4 2, need))
include hop

theorem State.begin_badLength (hne : s.host.mbxField m 8 4 ≠ need) :
    s.begin_ m = s.withRun (s.handed m) (some stParam) := by
  have hbad : (decide (s.host.mbxField m 8 4 > 4064) || decide (s.host.mbxField m 8 4 ≠ need)) = true := by simp [hne]
  simp only [State.begin_, hop]
  rw [if_pos hbad]
  rfl

variable (hlen : s.host.mbxField m 8 4 = need) (hfit : need ≤ 4064)
include hlen hfit

theorem State.begin_late (hdl : s.host.mbxField m 16 8 ≠ 0) (hon : s.dlOn 3 = true) (hlate : s.host.mbxField m 16 8 ≤ s.now) :
    s.begin_ m = s.withRun (s.handed m) (some stLate) := by
  have hgood : ¬ (decide (s.host.mbxField m 8 4 > 4064) || decide (s.host.mbxField m 8 4 ≠ need)) = true := by simp [hlen, hfit]
  have hpast : (decide (s.host.mbxField m 16 8 ≠ 0) && s.dlOn 3 && decide (s.host.mbxField m 16 8 ≤ s.now)) = true := by
    simp [hdl, hon, hlate]
  simp only [State.begin_, hop]
  rw [if_neg hgood, if_pos hpast]
  rfl

variable (hdl : s.host.mbxField m 16 8 = 0 ∨ s.dlOn 3 = false ∨ s.now < s.host.mbxField m 16 8)
include hdl

/-- A handoff whose length and deadline stand goes on to the checks of rights, clashes and tampering (R384, R385). -/
theorem State.begin_inTime :
    s.begin_ m = (match s.deny (s.host.mbxField m 4 2) (s.handed m).pars with
      | some t => t.withRun (s.handed m) (some stDenied)
      | none =>
        if s.clashes (claimsOf (s.host.mbxField m 4 2) (s.handed m).pars) then s.withRun (s.handed m) (some stState)
        else if !s.sec.tamper.isEmpty && (claimsOf (s.host.mbxField m 4 2) (s.handed m).pars).any
            (fun x => x.k == .blk || x.k == .sec || x.k == .all) then s.withRun (s.handed m) (some stBusy)
        else s.withRun (s.handed m) none) := by
  have hgood : ¬ (decide (s.host.mbxField m 8 4 > 4064) || decide (s.host.mbxField m 8 4 ≠ need)) = true := by simp [hlen, hfit]
  have hpast : ¬ (decide (s.host.mbxField m 16 8 ≠ 0) && s.dlOn 3 && decide (s.host.mbxField m 16 8 ≤ s.now)) = true := by
    rcases hdl with h | h | h
    · simp [h]
    · simp [h]
    · simp [Nat.not_le.2 h]
  simp only [State.begin_, hop]
  rw [if_neg hgood, if_neg hpast]
  rfl

theorem State.begin_denied {t : State} (hdeny : s.deny (s.host.mbxField m 4 2) (s.handed m).pars = some t) :
    s.begin_ m = t.withRun (s.handed m) (some stDenied) := by
  rw [State.begin_inTime hop hlen hfit hdl, hdeny]

theorem State.begin_clash (hdeny : s.deny (s.host.mbxField m 4 2) (s.handed m).pars = none)
    (hclash : s.clashes (claimsOf (s.host.mbxField m 4 2) (s.handed m).pars) = true) :
    s.begin_ m = s.withRun (s.handed m) (some stState) := by
  rw [State.begin_inTime hop hlen hfit hdl, hdeny]
  exact if_pos hclash

theorem State.begin_waits (hdeny : s.deny (s.host.mbxField m 4 2) (s.handed m).pars = none)
    (hclash : s.clashes (claimsOf (s.host.mbxField m 4 2) (s.handed m).pars) = false) (htamper : s.sec.tamper = []) :
    s.begin_ m = s.withRun (s.handed m) none := by
  rw [State.begin_inTime hop hlen hfit hdl, hdeny]
  simp [hclash, htamper]

end

theorem handoffBegins : claimHandoffBegins := by
  intro s m rest hq hready hup s1 op len dl p c put others clash
  rw [exec_thallusWake hq hready hup]
  refine ⟨fun hnone => ?_, fun need hop => ⟨fun hne => ?_, fun heq hfit => ⟨fun hdl hon hlate => ?_, fun hdl => ⟨fun t ht => ?_,
    fun hd hclash => ?_, fun hd hclash htamper => ?_⟩⟩⟩⟩
  · exact congrArg _ (State.begin_unknown (s := s1) hnone)
  · exact congrArg _ (State.begin_badLength (s := s1) hop hne)
  · exact congrArg _ (State.begin_late (s := s1) hop heq hfit hdl hon hlate)
  · exact congrArg _ (State.begin_denied (s := s1) hop heq hfit hdl ht)
  · exact congrArg _ (State.begin_clash (s := s1) hop heq hfit hdl hd hclash)
  · exact congrArg _ (State.begin_waits (s := s1) hop heq hfit hdl hd hclash htamper)

/-! How a command ends. -/

theorem State.cmdDone_of_answer {s : State} {m st : Nat} {res : List Byte} {c : Cmd} (hc : s.cmd m = some c)
    (hup : s.thallusUp = true) (hans : c.ans = some (st, res)) (hop : c.op ≠ 0x0A02) : s.cmdDone m = s.finish c st res := by
  have hinj : c.injects5 st = false := by simp [Cmd.injects5, hop]
  simp [State.cmdDone, hc, hup, hans, hinj]

theorem commandEnds : claimCommandEnds := by
  refine ⟨?_, ?_, ?_⟩
  · intro s m st res c hm hc hcm hup hans hop hlate area h t
    refine (onUnit_of hm _).trans (congrArg _ ((State.cmdDone_of_answer hc hup hans hop).trans ?_))
    have hnow : ¬ (c.late && decide (st = stOk)) = true := by
      rcases hlate with h | h
      · simp [h]
      · simp [show st ≠ stOk from h]
    simp only [State.finish]
    rw [if_neg hnow, hcm]
  · intro s m st res c hm hc hcm hup hans hop hlate hst hpart h t
    refine (onUnit_of hm _).trans (congrArg _ ((State.cmdDone_of_answer hc hup hans hop).trans ?_))
    have hmiss : (c.late && decide (st = stOk)) = true := by simp [hlate, show st = stOk from hst]
    simp only [State.finish]
    rw [if_pos hmiss, hpart, hcm]
    simp only [Bool.false_eq_true, if_false, List.nil_append, List.length_nil, Nat.sub_zero, stLate]
    rfl
  · intro s m c hm hc hup hlate hdl
    have hexec : exec (.mailboxDeadline m) s = .next (s.mbxDeadline m) := onUnit_of hm _
    rw [hexec]
    refine ⟨fun hlt => ?_, fun st res hans hst => ?_, fun hle hans hun => ?_⟩
    · simp [State.mbxDeadline, hc, hlt]
    · simp [State.mbxDeadline, hc, hans, hst, stOk]
    · simp only [State.mbxDeadline, hc, hdl, hlate, hans, hup, hun, Nat.not_lt.2 hle]
      rfl

/-- Settles O46. -/
theorem mailboxesAndCommands : Obligations.MailboxesAndCommands :=
  ⟨mailboxWrites, handoffBegins, commandEnds⟩

end Sys2Proof.Machine
end

section
/-! PROOFS. The host's registers, window, function-level reset and heartbeat (R375 to R377, R390 to R395). -/

namespace Sys2Proof.Machine

/-! Crust's registers. -/

section
variable {s : State} (hup : s.crustUp = true)
include hup

theorem State.summaryWrite_up (v : Nat) : s.summaryWrite v = { s with host := { s.host with
    summary := (s.host.summary ^^^ (s.host.summary &&& v)) ||| (s.host.summary &&& s.host.sumNow) } } := if_pos hup

theorem State.hbWrite_up (v : Nat) : s.hbWrite v = { s with host := { s.host with
    hostHb := v % 2 ^ 32, hbAge := 0, hbPart := 0, silentDone := false } } := if_pos hup

theorem State.tailWrite_up (v : Nat) : s.tailWrite v =
    if (v % 1024 + 1024 - s.host.tail) % 1024 ≤ (s.host.head + 1024 - s.host.tail) % 1024 then
      { s with host := { s.host with tail := v % 1024 } }
    else s.lateWrite := if_neg (by simp [hup])

/-- A 4-byte write below the mailboxes, at a multiple of 4, is a write of one register. -/
theorem exec_registerWrite_word {off v : Nat} (hlow : off < 0x10000) (halign : off % 4 = 0) :
    exec (.registerWrite off 4 v) s = .next (s.word32 off (v % 2 ^ 32)) := by
  refine (onUnit_of (show off + 4 ≤ 0x40000 by omega) _).trans (congrArg _ ?_)
  rw [State.regWrite, if_neg (by simp [hup]), if_neg (by simp [Nat.not_le.2 hlow]), if_pos (by simp [halign])]

theorem State.stcNowRead_low : s.stcNowRead 0x10 4 =
    { s with host := { s.host with latch := some (s.now / 2 ^ 32) }, out := s.out ++ [.read (toLE 4 (s.now % 2 ^ 32)) false] } := by
  simp [State.stcNowRead, hup]

theorem State.stcNowRead_latched {h : Nat} (hlatch : s.host.latch = some h) : s.stcNowRead 0x14 4 =
    { s with host := { s.host with latch := none }, out := s.out ++ [.read (toLE 4 h) false] } := by
  simp [State.stcNowRead, hup, hlatch]

end

theorem hostRegisters : claimHostRegisters := by
  intro s v hup
  refine ⟨congrArg _ (State.summaryWrite_up hup v), fun i => ?_, congrArg _ (State.hbWrite_up hup v), fun hle => ?_, fun hlt => ?_,
    exec_registerWrite_word hup (by decide) (by decide), exec_registerWrite_word hup (by decide) (by decide),
    exec_registerWrite_word hup (by decide) (by decide), fun off hoff => ?_⟩
  · simp only [Nat.testBit_or, Nat.testBit_xor, Nat.testBit_and]
    cases s.host.summary.testBit i <;> cases v.testBit i <;> rfl
  · exact congrArg _ ((State.tailWrite_up hup v).trans (if_pos hle))
  · exact congrArg _ ((State.tailWrite_up hup v).trans (if_neg (Nat.not_le.2 hlt)))
  · simp only [List.mem_cons, List.not_mem_nil, or_false] at hoff
    rcases hoff with h | h | h | h | h | h <;> subst h <;> exact exec_registerWrite_word hup (by decide) (by decide)

theorem readsWindowAndFlr : claimReadsWindowAndFlr := by
  intro s hup
  have hlow := State.stcNowRead_low hup
  have hhigh := State.stcNowRead_latched (s := { s with
    host := { s.host with latch := some (s.now / 2 ^ 32) },
    out := s.out ++ [.read (toLE 4 (s.now % 2 ^ 32)) false] }) hup rfl
  refine ⟨?_, ⟨_, _, congrArg Host.Outcome.next hlow, congrArg Host.Outcome.next hhigh, ?_, rfl⟩, fun wr off len data hfit => ⟨fun h => ?_, fun hchip hcore hclk => ?_⟩, congrArg _ (if_pos hup)⟩
  · simp [exec, execStcNowRead, State.stcNowRead, hup]
  · exact List.append_assoc _ _ _
  · refine (onUnit_of hfit _).trans (congrArg _ ?_)
    have hshut : (decide (s.pwr.chip = 0) || !s.coreUp || s.pwr.clkOff) = true := by
      rcases h with h | h | h <;> simp [h]
    rw [State.bar2Access, if_neg (by simp [hup]), if_pos hshut]
  · refine (onUnit_of hfit _).trans (congrArg _ ?_)
    rw [State.bar2Access, if_neg (by simp [hup]), if_neg (by simp [hchip, hcore, hclk])]

theorem heartbeatCounts : claimHeartbeat := by
  refine ⟨fun s hup hdue hthallus => ?_, fun s hearly => ?_, fun s hthallus hset hover => ⟨fun hfirst => ?_, fun hdone => ?_⟩⟩
  · intro c s1
    have hgo : ¬ (!s.crustUp || decide (s.now < s.host.hbT + 100000 * s.host.hbPeriod)) = true := by
      simp [hup, Nat.not_lt.2 hdue]
    refine ⟨fun haddr => congrArg Host.Outcome.next ?_, fun haddr => congrArg Host.Outcome.next ?_⟩
    · rw [State.heartbeat, if_neg hgo, if_pos hthallus]
      exact if_pos haddr
    · rw [State.heartbeat, if_neg hgo, if_pos hthallus]
      exact if_neg haddr
  · exact congrArg _ (if_pos (by simp [hearly]))
  · exact congrArg _ (if_pos (by simp [hthallus, hset, hover, hfirst]))
  · exact congrArg _ (if_neg (by simp [hdone]))

/-- Settles O47. -/
theorem hostInterface : Obligations.HostInterface := ⟨hostRegisters, readsWindowAndFlr, heartbeatCounts⟩

end Sys2Proof.Machine
end

section
/-! PROOFS. The device and power commands (R404 to R407). -/

namespace Sys2Proof.Machine

/-- The row of a command that waits for it answers on the state in which the command has begun. -/
theorem onUnit_cmdRow {s : State} {m op : Nat} {c : Cmd} (h : s.waitsRow m op c) (f : State → Cmd → State) :
    onUnit (decide (m < 16)) (s.cmdRow m op f) = .next (f (s.began m) c) := by
  rw [State.cmdRow_of_waitsRow h f]
  exact onUnit_of h.1 _

/-! The device commands. -/

theorem deviceCommands : claimDeviceCommands := by
  intro s m c b
  refine ⟨fun h => ?_, fun h => ?_, fun h => ?_, fun h => ?_⟩
  · obtain ⟨_, _, hcm, _⟩ := id h
    exact (onUnit_cmdRow h State.devIdentify).trans (by rw [State.devIdentify, hcm]; rfl)
  · obtain ⟨_, _, hcm, _⟩ := id h
    exact (onUnit_cmdRow h State.devGrade).trans (by rw [State.devGrade, hcm]; rfl)
  · obtain ⟨_, _, hcm, _⟩ := id h
    exact (onUnit_cmdRow h State.devFw).trans (by rw [State.devFw, hcm]; rfl)
  · intro per q a
    obtain ⟨_, _, hcm, _⟩ := id h
    have hexec : exec (.devHeartbeat m) s = .next (b.devHeartbeat c) := onUnit_cmdRow h State.devHeartbeat
    have hguard : (decide (fld c.pars 0 4 > 1000) || decide (a % 16 ≠ 0) || (decide (q ≠ 0) && decide (q < per))) = true ↔
        ¬ (fld c.pars 0 4 ≤ 1000 ∧ a % 16 = 0 ∧ (q = 0 ∨ per ≤ q)) := by
      simp only [Bool.or_eq_true, Bool.and_eq_true, decide_eq_true_eq]
      omega
    refine ⟨fun hok => hexec.trans (congrArg _ ?_), fun hbad => hexec.trans (congrArg _ ?_)⟩
    · rw [State.devHeartbeat, hcm]
      exact if_neg (fun h => hguard.1 h hok)
    · rw [State.devHeartbeat, hcm]
      exact if_pos (hguard.2 hbad)

/-! The power commands. -/

theorem powerCommands : claimPowerCommands := by
  intro s m c b
  refine ⟨?_, ?_, ?_, ?_, ?_⟩
  · intro h t ht hfree
    obtain ⟨_, _, hcm, _⟩ := id h
    refine (onUnit_cmdRow h State.pwrChip).trans (congrArg _ ?_)
    have hstate : ¬ ((decide (t < 3) && s.anyRunning) || (decide (t ≥ 2) && s.stks.any (fun k => k.st == .failed)) ||
        (decide (t = 0) && s.stks.any Stack.trigOut)) = true := by
      simpa only [Bool.or_eq_true, Bool.and_eq_true, decide_eq_true_eq, or_assoc] using hfree
    rw [State.pwrChip, if_neg (Nat.not_lt.2 ht), hcm]
    exact if_neg hstate
  · intro h named t hmap ht hchip htop hfree
    obtain ⟨_, _, hcm, _⟩ := id h
    refine (onUnit_cmdRow h State.pwrRegion).trans (congrArg _ ?_)
    have hpar : ¬ (!(mapOk 4 1 (fld c.pars 0 1)) || decide (t > 3)) = true := by simpa [hmap] using ht
    have hstate : ¬ (decide (s.pwr.chip < 2) || decide (t > (chipRegion s.pwr.chip).code) ||
        (decide (t < 2) && named.any (fun r => (regionBlocks r).any (fun n => (s.block n).st == .running)))) = true := by
      simp only [Bool.or_eq_true, Bool.and_eq_true, decide_eq_true_eq, not_or]
      exact ⟨⟨Nat.not_lt.2 hchip, Nat.not_lt.2 htop⟩, hfree⟩
    rw [State.pwrRegion, if_neg hpar, hcm]
    exact if_neg hstate
  · intro h named t hmap ht hfree
    obtain ⟨_, _, hcm, _⟩ := id h
    refine (onUnit_cmdRow h State.pwrStack).trans (congrArg _ ?_)
    have hpar : ¬ (!(mapOk numStacks 2 (fld c.pars 0 2)) || decide (t > 1)) = true := by simpa [hmap, numStacks] using ht
    rw [State.pwrStack, if_neg hpar, hcm]
    exact if_neg (Bool.eq_false_iff.1 hfree)
  · intro h named t hmap ht hdown hdir
    obtain ⟨_, _, hcm, _⟩ := id h
    refine (onUnit_cmdRow h State.pwrLink).trans (congrArg _ ?_)
    have hpar : ¬ (!(mapOk numLinks 8 (fld c.pars 0 8)) || decide (t > 2)) = true := by simpa [hmap, numLinks] using ht
    have hstate : ¬ ((decide (t < 2) && named.any (fun l => (s.link l).st.code2 == 3)) ||
        (decide (t > 0) && s.fab.slice != 0 && fld c.pars 9 1 == 0 && s.emptiesDir named)) = true := by
      simp only [Bool.or_eq_true, Bool.and_eq_true, decide_eq_true_eq, not_or, bne_iff_ne, beq_iff_eq, and_assoc]
      exact ⟨hdown, hdir⟩
    rw [State.pwrLink, if_neg hpar, hcm]
    exact if_neg hstate
  · intro h
    obtain ⟨_, _, hcm, _⟩ := id h
    exact (onUnit_cmdRow h State.pwrQuery).trans (by rw [State.pwrQuery, hcm]; rfl)

theorem powerCommandsEnd : claimPowerCommandsEnd := by
  intro s c
  refine ⟨fun hop h0 hchip hmove => ?_, fun hop h0 hchip => ?_, fun hop hall => ?_, fun hop h1 hall => ?_, fun hop hall => ?_⟩
  · simp [State.pwrEnd, hop, h0, hchip, hmove, stOk]
  · simp [State.pwrEnd, hop, h0, hchip]
  · have hnamed : (bitsOf 4 (fld c.pars 0 1)).all
        (fun r => (s.region r).st == regStOf (fld c.pars 1 1) && (s.region r).move.isNone) = true :=
      List.all_eq_true.2 fun r hr => by simp [hall r hr]
    simp only [State.pwrEnd, hop, hnamed, if_true]
    rfl
  · have hnamed : (bitsOf numStacks (fld c.pars 0 2)).all (fun n => (s.stack n).st == .selfRefresh) = true :=
      List.all_eq_true.2 fun n hn => beq_iff_eq.2 (hall n hn)
    simp only [State.pwrEnd, hop, h1, hnamed, if_true]
    rfl
  · have hnamed : (bitsOf numLinks (fld c.pars 0 8)).all (fun l => (s.link l).st == linkStOf (fld c.pars 8 1)) = true :=
      List.all_eq_true.2 fun l hl => beq_iff_eq.2 (hall l hl)
    have hfin : (bitsOf numLinks (fld c.pars 0 8)).all (fun l => (s.link l).st == linkStOf (fld c.pars 8 1) ||
        ((s.link l).st != .training && (s.link l).st.code2 == 3)) = true :=
      List.all_eq_true.2 fun l hl => by simp [hall l hl]
    simp only [State.pwrEnd, hop, hfin, hnamed, if_true]
    rfl

/-- Settles O48. -/
theorem deviceAndPowerCommands : Obligations.DeviceAndPowerCommands :=
  ⟨deviceCommands, powerCommands, powerCommandsEnd⟩

end Sys2Proof.Machine
end

section
/-! PROOFS. The memory commands (R251, R392, R409 to R411). -/

namespace Sys2Proof.Machine

/-! MEM_MAP_WINDOW, MEM_SCRUB_SET and MEM_WIPE. -/

theorem windowScrubWipe : claimWindowScrubWipe := by
  intro s m c b
  refine ⟨?_, ?_, ?_, ?_⟩
  · intro h
    obtain ⟨_, _, hcm, _⟩ := id h
    have hexec : exec (.memMapWindow m) s = .next (b.mapWindow c) := onUnit_cmdRow h State.mapWindow
    refine ⟨fun hle => hexec.trans (congrArg _ ?_), fun hlt => hexec.trans (congrArg _ ?_)⟩
    · rw [State.mapWindow, hcm]
      exact if_neg (Nat.not_lt.2 hle)
    · rw [State.mapWindow, hcm]
      exact if_pos hlt
  · intro h hmap hlow hhigh
    obtain ⟨_, _, hcm, _⟩ := id h
    refine (onUnit_cmdRow h State.scrubSet).trans (congrArg _ ?_)
    have hpar : ¬ (!(mapOk numStacks 2 (fld c.pars 0 2)) || decide (fld c.pars 2 1 < 10) || decide (fld c.pars 2 1 > 60)) = true := by
      simp [hmap, numStacks, Nat.not_lt.2 hlow, hhigh]
    rw [State.scrubSet, if_neg hpar, hcm]
    rfl
  · intro h stks hmap hrun hbad
    obtain ⟨_, _, hcm, _⟩ := id h
    have hpar : ¬ (bit (fld c.pars 0 1) 0 && !(mapOk numStacks 2 (fld c.pars 2 2))) = true := by
      cases hb : bit (fld c.pars 0 1) 0
      · simp
      · simp [numStacks, hmap hb]
    have hrun' : ¬ b.anyRunning = true := Bool.eq_false_iff.1 hrun
    have hbad' : ¬ stks.any (fun n => (b.stack n).st == .failed || (b.stack n).st == .untrained) = true :=
      Bool.eq_false_iff.1 hbad
    refine ⟨if stks.any (fun n => (s.stack n).hot) then 32970 else if !stks.isEmpty then 31520 else Config.free s.freeN % 6,
      (onUnit_cmdRow h State.memWipe).trans (congrArg _ ?_), fun hne => ?_, fun hnil => ?_⟩
    · rw [State.memWipe, hcm]
      exact (if_neg hpar).trans ((if_neg hrun').trans (if_neg hbad'))
    · simp [hne]
    · simp only [hnil, List.any_nil, List.isEmpty_nil]
      exact Nat.le_of_lt_succ (Nat.mod_lt _ (by decide))
  · intro hop hcm hcmd hdue t t'
    have hends : s.wipeEnds c = true := decide_eq_true hdue
    have hfull : (decide (fld c.pars 0 1 % 16 = 15) && decide (fld c.pars 2 2 = 0xFFF)) = true ↔
        fld c.pars 0 1 % 16 = 15 ∧ fld c.pars 2 2 = 0xFFF := by simp
    simp only [State.ending, hop, hends, if_true, State.wipeDone, hcm]
    rw [if_congr hfull rfl rfl]

/-! MEM_FILL, MEM_COPY and MEM_READ_BACK. -/

/-- Nothing is logged of an extent that is served whole. -/
theorem State.logDenied_ok (s : State) (m addr : Nat) : s.logDenied m 0 addr = s := rfl

section
variable {t : State} {c : Cmd}

theorem State.memFill_whole (hext : extentOk (fld c.pars 0 1) (fld c.pars 1 1) (fld c.pars 8 8) (fld c.pars 4 4) = true)
    (halign : fld c.pars 8 8 % 8 = 0) (hwords : fld c.pars 4 4 % 8 = 0)
    (hready : t.waitsAt (fld c.pars 0 1) (fld c.pars 1 1) (fld c.pars 8 8) (fld c.pars 4 4) = false)
    (hserved : t.reachOf (fld c.pars 0 1) (fld c.pars 1 1) (fld c.pars 8 8) (fld c.pars 4 4) = (fld c.pars 4 4, 0)) :
    t.memFill c = (t.hostStore (fld c.pars 0 1) (fld c.pars 1 1) (fld c.pars 8 8)
      (cleanBytes (List.replicate (fld c.pars 4 4 / 8) ((c.pars.drop 16).take 8)).flatten)).answer c.m 0
        (toLE 4 (fld c.pars 4 4)) := by
  simp [State.memFill, hext, halign, hwords, hready, hserved, State.logDenied_ok]

theorem State.readBack_whole (hext : extentOk (fld c.pars 0 1) (fld c.pars 1 1) (fld c.pars 8 8) (fld c.pars 4 4) = true)
    (hne : fld c.pars 4 4 ≠ 0) (hle : fld c.pars 4 4 ≤ 4032)
    (hready : t.waitsAt (fld c.pars 0 1) (fld c.pars 1 1) (fld c.pars 8 8) (fld c.pars 4 4) = false)
    (hserved : t.reachOf (fld c.pars 0 1) (fld c.pars 1 1) (fld c.pars 8 8) (fld c.pars 4 4) = (fld c.pars 4 4, 0)) :
    t.readBack c = (t.touchAt 0 clsBulk (fld c.pars 0 1) (fld c.pars 1 1) (fld c.pars 8 8) (fld c.pars 4 4)).answer c.m 0
      (toLE 16 (poisonMap (fld c.pars 8 8) (t.readAt 0 (fld c.pars 0 1) (fld c.pars 1 1) (fld c.pars 8 8) (fld c.pars 4 4))) ++
        toLE 16 0 ++ (t.readAt 0 (fld c.pars 0 1) (fld c.pars 1 1) (fld c.pars 8 8) (fld c.pars 4 4)).map Prod.fst) := by
  have hpar : ¬ (!(extentOk (fld c.pars 0 1) (fld c.pars 1 1) (fld c.pars 8 8) (fld c.pars 4 4)) ||
      decide (fld c.pars 4 4 = 0) || decide (fld c.pars 4 4 > 4032)) = true := by simp [hext, hne, hle]
  simp only [State.readBack]
  rw [if_neg hpar, if_neg (Bool.eq_false_iff.1 hready)]
  simp only [hserved, State.logDenied_ok]

variable (hhost : fld c.pars 0 1 = 7) (hsrc : fld c.pars 8 8 % 64 = 0) (hdst : fld c.pars 2 1 ≠ 7)
    (hext : extentOk (fld c.pars 2 1) (fld c.pars 3 1) (fld c.pars 16 8) (fld c.pars 4 4) = true)
    (hready : t.waitsAt (fld c.pars 2 1) (fld c.pars 3 1) (fld c.pars 16 8) (fld c.pars 4 4) = false)
include hhost hsrc hdst hext hready

theorem State.memCopy_failedDma : t.memCopy none c = (t.emit 0x0604 8 c.m c.m 0).answer c.m 8 [] := by
  simp [State.memCopy, hhost, hsrc, hdst, hext, hready]
  rfl

theorem State.memCopy_fromHost
    (hserved : t.reachOf (fld c.pars 2 1) (fld c.pars 3 1) (fld c.pars 16 8) (fld c.pars 4 4) = (fld c.pars 4 4, 0))
    (data : List Byte) :
    t.memCopy (some data) c = (t.hostStore (fld c.pars 2 1) (fld c.pars 3 1) (fld c.pars 16 8)
      (cleanBytes (fitTo (fld c.pars 4 4) data))).answer c.m 0 (toLE 4 (fld c.pars 4 4)) := by
  simp [State.memCopy, hhost, hsrc, hdst, hext, hready, hserved, stOk, State.logDenied_ok]

end

theorem fillCopyReadBack : claimFillCopyReadBack := by
  intro s m c b
  refine ⟨?_, ?_, ?_⟩
  · intro h sp stk len a hext halign hwords hready hserved
    obtain ⟨_, _, hcm, _⟩ := id h
    refine (onUnit_cmdRow h State.memFill).trans (congrArg _ ?_)
    rw [State.memFill_whole hext halign hwords hready hserved, hcm]
  · intro data h sp stk len a hhost hsrc hdst hext hready hserved
    obtain ⟨_, _, hcm, _⟩ := id h
    refine ⟨(onUnit_cmdRow h (State.memCopy (some data))).trans (congrArg _ ?_),
      (onUnit_cmdRow h (State.memCopy none)).trans (congrArg _ ?_)⟩
    · rw [State.memCopy_fromHost hhost hsrc hdst hext hready hserved, hcm]
    · rw [State.memCopy_failedDma hhost hsrc hdst hext hready, hcm]
  · intro h sp stk len a hext hne hle hready hserved
    obtain ⟨_, _, hcm, _⟩ := id h
    refine (onUnit_cmdRow h State.readBack).trans (congrArg _ ?_)
    rw [State.readBack_whole hext hne hle hready hserved, hcm]

/-- Settles O49. -/
theorem memoryCommands : Obligations.MemoryCommands := ⟨windowScrubWipe, fillCopyReadBack⟩

end Sys2Proof.Machine
end

section
/-! PROOFS. The program commands and images (R162, R163, R413 to R417). -/

namespace Sys2Proof.Machine

/-! The program commands. -/

theorem programCommandsAnswer : claimProgramCommands := by
  intro s m c b map bl
  refine ⟨?_, ?_, ?_, ?_, ?_⟩
  · intro data h hmap halign hfree bs
    obtain ⟨_, _, hcm, _⟩ := id h
    have hpar : ¬ (!(mapOk numBlocks 18 map) || decide (fld c.pars 24 8 % 64 ≠ 0)) = true := by simp [numBlocks, hmap, halign]
    have hstate : (!(bl.all (fun n => b.blockFree n true))) ≠ true := (congrArg not hfree).trans_ne Bool.false_ne_true
    have hload : b.prgLoad (some data) c = if imageStatus bs ≠ stOk then b.answer c.m (imageStatus bs) []
        else (b.loadBlocks bl bs (Config.sm3 bs)).ok c.m (toLE 18 map) := by
      rw [State.prgLoad]
      exact (if_neg hpar).trans (if_neg hstate)
    have hexec : exec (.prgLoad m (some data)) s = .next (b.prgLoad (some data) c) := onUnit_cmdRow h _
    rw [hexec, hload, hcm]
    exact ⟨fun hok => congrArg _ (if_neg (not_not.2 hok)), fun hbad => congrArg _ (if_pos hbad)⟩
  · intro h hmap hchip hfree
    obtain ⟨_, _, hcm, _⟩ := id h
    refine (onUnit_cmdRow h State.prgStart).trans (congrArg _ ?_)
    have hpar : ¬ (!(mapOk numBlocks 18 map)) = true := by simp [numBlocks, hmap]
    have hstate : ¬ (decide (s.pwr.chip ≠ 3) || !(bl.all (fun n => s.blockFree n false))) = true := by
      simpa [hchip] using hfree
    rw [State.prgStart, hcm]
    exact (if_neg hpar).trans (if_neg hstate)
  · intro h hmap hlit run
    obtain ⟨_, _, hcm, _⟩ := id h
    refine (onUnit_cmdRow h State.prgStop).trans (congrArg _ ?_)
    have hpar : ¬ (!(mapOk numBlocks 18 map)) = true := by simp [numBlocks, hmap]
    rw [State.prgStop, hcm]
    exact (if_neg hpar).trans (if_neg (Bool.eq_false_iff.1 hlit))
  · intro h hn hlit k
    rw [exec_prgStatus h hn hlit]
    simp only [Block.statusResult, List.append_assoc]
    rfl
  · intro h n hn hfree hdesc t
    obtain ⟨_, _, hcm, _⟩ := id h
    refine (onUnit_cmdRow h State.descWrite).trans (congrArg _ ?_)
    have hfree' : (!(b.blockFree n false)) ≠ true := (congrArg not hfree).trans_ne Bool.false_ne_true
    have hdesc' : ¬ (!(descOk (fld c.pars 8 64))) = true := by simp [hdesc]
    rw [State.descWrite, hcm]
    exact (if_neg (Nat.not_le.2 hn)).trans ((if_neg hfree').trans (if_neg hdesc'))

/-! Images. -/

/-- Writing an image's descriptors leaves the block's memories and tokens. -/
theorem Block.foldl_setDesc_frame (l : List (Nat × Nat)) (b : Block) :
    let t := l.foldl (fun (k : Block) r => (k.setDesc r.1 r.2).setPin ⟨r.1, false, false, 0, 0, 0, 0⟩) b
    t.spad = b.spad ∧ t.acc = b.acc ∧ t.toks = b.toks := by
  induction l generalizing b with
  | nil => exact ⟨rfl, rfl, rfl⟩
  | cons r rs ih => exact ih ((b.setDesc r.1 r.2).setPin ⟨r.1, false, false, 0, 0, 0, 0⟩)

/-- An image that passes the checks of R163. -/
theorem imageStatus_eq_ok {bs : List Byte} (h : imageStatus bs = 0) :
    fld bs 0 4 = 0x4B54494D ∧ fld bs 4 2 = 1 ∧ fld bs 8 2 ≤ 4096 ∧ fld bs 10 2 ≤ 4096 ∧ fld bs 12 2 ≤ fld bs 10 2 ∧
    fld bs 14 2 ≤ 256 ∧ bs.length = 256 + 8 * (fld bs 8 2 + fld bs 10 2) + 72 * fld bs 14 2 ∧
    ∀ r ∈ imageRecs bs, descOk r.2 = true := by
  rw [imageStatus] at h
  split at h
  · cases h
  next hmagic =>
    split at h
    · cases h
    next hver =>
      dsimp only at h
      split at h
      · cases h
      next hsizes =>
        split at h
        next hrecs =>
          simp only [Bool.or_eq_true, decide_eq_true_eq, not_or, not_not, not_lt, gt_iff_lt, ne_eq] at hmagic hver hsizes
          simp only [Bool.and_eq_true, List.all_eq_true] at hrecs
          obtain ⟨⟨⟨⟨ha, hx⟩, he⟩, hn⟩, hlen⟩ := hsizes
          exact ⟨hmagic.2, hver, ha, hx, he, hn, hlen, hrecs.1.2⟩
        · cases h

theorem loadWritesTheImage : claimLoadWritesTheImage := by
  refine ⟨fun b bs => ?_, fun bs h => imageStatus_eq_ok h⟩
  exact ⟨rfl, rfl, rfl, rfl, Block.foldl_setDesc_frame (imageRecs bs) b⟩

/-- Settles O50. -/
theorem programCommands : Obligations.ProgramCommands := ⟨programCommandsAnswer, loadWritesTheImage⟩

end Sys2Proof.Machine
end

section
/-! PROOFS. Sporecast commands and messages (R414, R472 to R477). -/

namespace Sys2Proof.Machine

/-! The Sporecast commands. -/

theorem castCommands : claimCastCommands := by
  intro s m c b
  refine ⟨?_, ?_, ?_, ?_⟩
  · intro h role len map hrole hlen hsegs hmap hslice hcast hfree
    obtain ⟨_, _, hcm, _⟩ := id h
    refine (onUnit_cmdRow h State.castOpen).trans (congrArg _ ?_)
    have hpar : ¬ (decide (role > 1) || decide (len > 84224) || decide (fld c.pars 6 2 ≠ cdiv len 4096) ||
        !(mapOk numBlocks 18 map)) = true := by
      simp [numBlocks, hmap, hsegs, Nat.not_lt.2 hrole, Nat.not_lt.2 hlen]
    have hstate : ¬ (decide (s.fab.slice = 0) || s.fab.cast.isSome || !(((bitsOf 144 map).all (fun n => s.blockFree n true)))) = true := by
      rw [hfree]
      simp [hslice, hcast]
    rw [State.castOpen, hcm]
    exact (if_neg hpar).trans (if_neg hstate)
  · intro k data h hcast hsource seg len hid hseg hlen halign hsm
    obtain ⟨_, _, hcm, _⟩ := id h
    refine (onUnit_cmdRow h (State.castSegment (some data))).trans (congrArg _ ?_)
    have hsource' : ¬ (!k.source) = true := by simp [hsource]
    have hpar : ¬ (decide (k.id ≠ fld c.pars 0 2) || decide (seg ≥ k.segs) || decide (len ≠ k.segLen seg) ||
        decide (fld c.pars 8 8 % 64 ≠ 0)) = true := by
      simp [hid, Nat.not_le.2 hseg, hlen, halign]
    have hb : (s.began m).fab.cast = some k := hcast
    simp only [State.castSegment, hb]
    exact (if_neg hsource').trans ((if_neg hpar).trans (if_neg (not_not.2 hsm)))
  · intro k h hcast hid
    refine (onUnit_cmdRow h State.castClose).trans (congrArg _ ?_)
    have hb : (s.began m).fab.cast = some k := hcast
    simp only [State.castClose, hb]
    exact if_neg (not_not.2 hid)
  · intro k hcast hwhole hsm himage hlit
    have hlost : ¬ (!k.source && ((s.endp (k.origin % 2)).pair k.origin).lost && !k.missing.isEmpty) = true := by
      rcases hwhole with h | h <;> simp [h]
    have hmissing : ¬ (!k.source && !k.missing.isEmpty) = true := by
      rcases hwhole with h | h <;> simp [h]
    simp only [State.castEnd, hcast]
    rw [if_neg hlost, if_neg hmissing, if_neg (not_not.2 hsm), if_neg (not_not.2 (show imageStatus _ = stOk from himage))]
    exact if_neg (Bool.eq_false_iff.1 hlit)

/-! CAST messages. -/

section
variable {s : State} {kinds : Nat → Bool} {p : Packet × Bool} {ps rest : List (Packet × Bool)} (hup : s.thallusUp = true)

include hup in
/-- A message of these kinds that has come whole is taken while Thallus serves. -/
theorem State.castTake_whole (hmsg : castMsg kinds [] s.fab.castq = some (p :: ps, rest))
    (f : State → CastHd → List Byte → Nat → Bool → State) :
    s.castTake kinds f = f { s with fab := { s.fab with castq := rest } } (castHdOf (fitTo 64 p.1.payload))
      (ps.flatMap (fun x => pktData x.1)) p.1.src (!s.fab.transit && (p :: ps).all Prod.snd) := by
  have hserves : ¬ (s.coreUp && !s.thallusUp) = true := by simp [hup]
  rw [State.castTake, if_neg hserves, hmsg]
  simp only [State.castOn, hup, Bool.true_and]

/-- Whether this part takes a message for itself (R341, R342). -/
theorem castMine_iff : (!s.fab.transit && (p :: ps).all Prod.snd) = true ↔ s.fab.transit = false ∧ ∀ x ∈ p :: ps, x.2 = true := by
  simp [-List.all_cons, -List.mem_cons, List.all_eq_true]

end

/-- Thallus serves only where Crust's clock runs. -/
theorem State.stopped_of_thallusUp {s : State} (hup : s.thallusUp = true) : s.pwr.stopped = false := by
  simp only [State.thallusUp, State.coreUp, Bool.and_eq_true, Bool.not_eq_true'] at hup
  exact hup.1.1.1.1.1.1.1.2

theorem castMessages : claimCastMessages := by
  intro s p ps rest hup hd data s1 mine
  have hclk := State.stopped_of_thallusUp hup
  refine ⟨fun hmsg => ?_, fun k hmsg hmine hcast => ?_, fun k hmsg hmine hcast hsource hclosing hid horigin => ?_⟩
  · have hexec : exec .castSegmentReceive s = .next
        (if !s.fab.transit && (p :: ps).all Prod.snd then (if hd.kind = 1 then s1.castRelay hd data else s1).castAccept hd data
          else if hd.kind = 1 then s1.castRelay hd data else s1) :=
      (onPart_of_true hclk _).trans (congrArg _ (State.castTake_whole hup hmsg _))
    rw [hexec]
    refine ⟨fun hmine hkind => ?_, fun hmine hkind => ?_, fun hmine hkind => ?_, fun hmine hkind => ?_⟩
    · rw [if_pos (castMine_iff.2 hmine), if_neg (by simp [hkind])]
    · rw [if_pos (castMine_iff.2 hmine), if_pos hkind]
    · rw [if_neg (mt castMine_iff.1 hmine), if_neg (by simp [hkind])]
    · rw [if_neg (mt castMine_iff.1 hmine), if_pos hkind]
  · have hexec : exec .castFetchReceive s = .next (s1.castFetch hd p.1.src) :=
      (onPart_of_true hclk _).trans (congrArg _ ((State.castTake_whole hup hmsg _).trans (if_pos (castMine_iff.2 hmine))))
    have hserve : (k.source && decide (k.id = hd.id) && decide (hd.origin = k.origin) && k.have_.contains hd.seg && !k.closing) = true ↔
        k.source = true ∧ k.id = hd.id ∧ hd.origin = k.origin ∧ k.have_.contains hd.seg = true ∧ k.closing = false := by
      simp only [Bool.and_eq_true, decide_eq_true_eq, Bool.not_eq_true', and_assoc]
    have hs1 : s1.fab.cast = some k := hcast
    rw [hexec]
    refine ⟨fun hgood => congrArg _ ?_, fun hbad => congrArg _ ?_⟩
    · simp only [State.castFetch, hs1]
      exact if_pos (hserve.2 hgood)
    · simp only [State.castFetch, hs1]
      exact if_neg (mt hserve.1 hbad)
  · have hexec : exec .castRefuseReceive s = .next (s1.castRefused hd) :=
      (onPart_of_true hclk _).trans (congrArg _ ((State.castTake_whole hup hmsg _).trans (if_pos (castMine_iff.2 hmine))))
    have hs1 : s1.fab.cast = some k := hcast
    rw [hexec]
    refine congrArg _ ?_
    simp only [State.castRefused, hs1]
    exact if_pos (by simp [hsource, hclosing, hid, horigin])

/-- Settles O51. -/
theorem sporecast : Obligations.Sporecast := ⟨castCommands, castMessages⟩

end Sys2Proof.Machine
end

section
/-! PROOFS. The fabric and time commands (R340, R341, R366, R419 to R423). -/

namespace Sys2Proof.Machine

/-! What FAB_SLICE_CLEAR and DEADLINE_POLICY change. -/

/-- Freeing receive slots changes the links alone. -/
theorem State.freeSlots_fab (ps : List Packet) (s : State) :
    (s.freeSlots ps).fab = { s.fab with links := (s.freeSlots ps).fab.links } := by
  induction ps generalizing s with
  | nil => rfl
  | cons p ps ih =>
    refine (ih (s.freeSlot p)).trans ?_
    by_cases hvia : p.via < numLinks
    · rw [show s.freeSlot p = _ from if_pos hvia]
      simp only [State.freeSlots, List.foldl_cons, State.freeSlot, if_pos hvia]
      rfl
    · simp only [State.freeSlots, List.foldl_cons, State.freeSlot, if_neg hvia]

/-- The slots freed depend on the fabric alone. -/
theorem State.freeSlots_fab_congr {s t : State} (h : t.fab = s.fab) (ps : List Packet) :
    (t.freeSlots ps).fab = (s.freeSlots ps).fab := by
  induction ps generalizing s t with
  | nil => exact h
  | cons p ps ih =>
    refine ih (s := s.freeSlot p) (t := t.freeSlot p) ?_
    by_cases hvia : p.via < numLinks
    · simp only [State.freeSlot, if_pos hvia, State.updLink, h]
    · simp only [State.freeSlot, if_neg hvia, h]

/-- The fabric after FAB_SLICE_CLEAR, from one whose receive slots are freed (R340). -/
def FabS.cleared (f : FabS) : FabS :=
  { f with
    slice := 0, transit := false, box := List.replicate 8 0, dirLost := [], ctrlq := [], castq := [], acks := []
    links := f.links.map (fun k => { k with tx := [] })
    endps := f.endps.map (fun e => { e with
      outq := [], inq := [], resps := [], errs := [], reqs := []
      pairs := e.pairs.map (fun p => { p with kept := [], msg := none }) })
    acus := f.acus.map (fun a => { a with colls := [], inq := [] }) }

theorem State.sliceClear_idle {s : State} {c : Cmd} (hidle : s.anyRunning = false) :
    s.sliceClear c = ({ s with
      fab := (s.freeSlots s.fab.holders).fab.freshPairs.cleared
      sec := { s.sec with clearAt := s.now, wiped := false } }).ok c.m [] :=
  if_neg (Bool.eq_false_iff.1 hidle)

theorem FabS.cleared_link_freed (f : FabS) (l : Nat) : (f.freshPairs.cleared.link l).freed = (f.link l).freed := by
  have hlen : f.freshPairs.cleared.links = f.links.map (fun k => { k with tx := [] }) := rfl
  rw [FabS.link, FabS.link, hlen, List.getD_eq_getElem?_getD, List.getD_eq_getElem?_getD, List.getElem?_map]
  cases f.links[l]? <;> rfl

theorem FabS.cleared_endps {f : FabS} {e : Endp} (he : e ∈ f.freshPairs.cleared.endps) :
    e.outq = [] ∧ e.inq = [] ∧ e.resps = [] ∧ e.errs = [] ∧ e.reqs = [] ∧
      ∀ p ∈ e.pairs, p.seq = 0 ∧ p.next = 0 ∧ p.kept = [] ∧ p.lost = false := by
  obtain ⟨e1, he1, rfl⟩ := List.mem_map.1 he
  obtain ⟨e0, _, rfl⟩ := List.mem_map.1 he1
  refine ⟨rfl, rfl, rfl, rfl, rfl, fun p hp => ?_⟩
  obtain ⟨p1, hp1, rfl⟩ := List.mem_map.1 hp
  obtain ⟨p0, _, rfl⟩ := List.mem_map.1 hp1
  exact ⟨rfl, rfl, rfl, rfl⟩

theorem FabS.cleared_acus {f : FabS} {a : Acu} (ha : a ∈ f.freshPairs.cleared.acus) : a.colls = [] ∧ a.inq = [] ∧ a.cseq = 0 := by
  obtain ⟨a1, ha1, rfl⟩ := List.mem_map.1 ha
  obtain ⟨a0, _, rfl⟩ := List.mem_map.1 ha1
  exact ⟨rfl, rfl, rfl⟩

theorem FabS.cleared_links {f : FabS} {k : Link} (hk : k ∈ f.freshPairs.cleared.links) : k.tx = [] := by
  obtain ⟨k0, _, rfl⟩ := List.mem_map.1 hk
  rfl

/-! The fabric commands. -/

theorem fabricCommands : claimFabricCommands := by
  intro s m c b
  refine ⟨?_, ?_, ?_, ?_, ?_, ?_, ?_⟩
  · intro h r hslice hi hlen hgood
    obtain ⟨_, _, hcm, _⟩ := id h
    refine (onUnit_cmdRow h State.fabProfile).trans (congrArg _ ?_)
    have hpar : ¬ (decide (fld c.pars 0 1 > 15) || decide (r.length < 64) || !(profOk (ofLE r))) = true := by
      simp [hgood, hlen, Nat.not_lt.2 hi]
    rw [State.fabProfile, hcm]
    exact (if_neg (not_not.2 hslice)).trans (if_neg hpar)
  · intro h hmap ls
    obtain ⟨_, _, hcm, _⟩ := id h
    refine (onUnit_cmdRow h State.linkStatus).trans (congrArg _ ?_)
    rw [State.linkStatus, hcm]
    exact if_neg (by simp [numLinks, hmap])
  · intro h boxes f hprof hslice hidle hf hbox hhere
    obtain ⟨_, _, hcm, _⟩ := id h
    refine (onUnit_cmdRow h State.sliceSet).trans (congrArg _ ?_)
    have hstate : ¬ (s.fab.profile.isNone || decide (s.fab.slice ≠ 0) || s.anyRunning) = true := by
      simp [Option.isSome_iff_ne_none.1 hprof, hslice, hidle]
    have hpar : ¬ (decide (f.slice = 0) || (List.range 8).any (fun a =>
        if profDef s.fab.prof a then decide (f.lo a ≥ profSize s.fab.prof a) || decide (f.len a > profSize s.fab.prof a)
        else boxes.getD a 0 % 2 ^ 12 != 0) || !(f.coordsIn f.here)) = true := by
      simp only [Bool.or_eq_true, decide_eq_true_eq, List.any_eq_true, List.mem_range, Bool.not_eq_true', hhere, not_or]
      refine ⟨⟨hf, ?_⟩, Bool.noConfusion⟩
      rintro ⟨a, ha, hbad⟩
      obtain ⟨hdef, hundef⟩ := hbox a ha
      cases hd : profDef s.fab.prof a
      · have hzero : boxes.getD a 0 % 2 ^ 12 = 0 := by
          simpa [boxes, List.getD_eq_getElem?_getD, List.getElem?_range ha] using hundef hd
        rw [hd, if_neg Bool.false_ne_true, hzero] at hbad
        cases hbad
      · obtain ⟨hlo, hlen⟩ := hdef hd
        simp [hd, Nat.not_le.2 hlo, Nat.not_lt.2 hlen] at hbad
    rw [State.sliceSet, hcm]
    exact (if_neg hstate).trans (if_neg hpar)
  · intro h hidle
    obtain ⟨_, _, hcm, _⟩ := id h
    have hfab : ((s.began m).freeSlots (s.began m).fab.holders).fab = (s.freeSlots s.fab.holders).fab :=
      State.freeSlots_fab_congr (s := s) (t := s.began m) rfl s.fab.holders
    refine ⟨(s.freeSlots s.fab.holders).fab.freshPairs.cleared, (onUnit_cmdRow h State.sliceClear).trans (congrArg _ ?_), rfl, rfl,
      rfl, ?_, rfl, rfl, fun k hk => FabS.cleared_links hk, fun l => FabS.cleared_link_freed _ l, fun e he => FabS.cleared_endps he,
      fun a ha => FabS.cleared_acus ha⟩
    · rw [State.sliceClear_idle (s := s.began m) hidle, hfab, hcm]
      rfl
    · have hprof := congrArg FabS.profile (State.freeSlots_fab s.fab.holders s)
      exact hprof
  · intro k more i a d h n hn hheld hident hnode hport himplied
    obtain ⟨_, _, hcm, _⟩ := id h
    refine (onUnit_cmdRow h State.acceptWiring).trans (congrArg _ ?_)
    have hheld' : ((List.range 4).map (fun i => (s.began m).link (4 * fld c.pars 0 1 + i))).filter (fun k => k.st == .miswired) =
      k :: more := hheld
    have himplied' : (s.began m).fab.implied i = some (a, d) := himplied
    have hpar : ¬ (decide (i.node ≠ fld c.pars 2 2) || decide (i.port ≠ fld c.pars 4 1)) = true := by simp [hnode, hport]
    simp only [State.acceptWiring, hheld', hident, himplied', hcm]
    exact (if_neg (Nat.not_lt.2 hn)).trans (if_neg hpar)
  · intro h l
    obtain ⟨_, _, hcm, _⟩ := id h
    have hexec : exec (.fabRetrainLink m) s = .next (b.retrain c) := onUnit_cmdRow h State.retrain
    rw [hexec]
    refine ⟨fun hl => congrArg _ ?_, fun hl hoff => congrArg _ ?_, fun hl hoff htr => congrArg _ ?_⟩
    · rw [State.retrain, hcm]
      exact if_pos hl
    · rw [State.retrain, hcm]
      exact (if_neg (Nat.not_lt.2 hl)).trans (if_pos hoff)
    · rw [State.retrain, hcm]
      refine (if_neg (Nat.not_lt.2 hl)).trans ((if_neg hoff).trans ((if_neg htr).trans ?_))
      exact congrArg (fun t => (State.keep t m [s.now, 0]).dirCheck) (State.updLink_congr (s := b) (l := l) rfl)
  · intro h ht hslice hidle htrig
    obtain ⟨_, _, hcm, _⟩ := id h
    refine (onUnit_cmdRow h State.transitOnly).trans (congrArg _ ?_)
    have hstate : ¬ (decide (s.fab.slice = 0) || s.anyRunning || s.stks.any Stack.trigOut) = true := by
      rw [htrig]
      simp [hslice, hidle]
    rw [State.transitOnly, hcm]
    exact (if_neg (Nat.not_lt.2 ht)).trans (if_neg hstate)

/-! The time commands. -/

/-- The row of a command that waits for it and is of the row's form. -/
theorem onUnit_cmdRowIf {s : State} {m op : Nat} {c : Cmd} (h : s.waitsRow m op c) {is : Cmd → Bool} (his : is c = true)
    (f : State → Cmd → State) : onUnit (decide (m < 16)) (s.cmdRowIf m op is f) = .next (f (s.began m) c) := by
  obtain ⟨hm, hcmd, _, hop, hbegun, hans, hup⟩ := h
  simp [State.cmdRowIf, State.began, hm, hcmd, hop, hbegun, hans, hup, his]

section
variable {off : Nat → Bool} {m : Nat}

theorem State.disarm_time (s : State) : (s.disarm off m).time = s.time := by
  simp only [State.disarm]
  split_ifs <;> rfl

theorem State.disarm_acus (s : State) (h : off 0 = true) :
    (s.disarm off m).fab.acus = s.fab.acus.map (fun a => { a with colls := a.colls.map (fun c => { c with dl := none }) }) := by
  simp only [State.disarm, h, if_true]
  split_ifs <;> rfl

theorem State.disarm_runs (s : State) (h : off 3 = true) :
    (s.disarm off m).host.runs = s.host.runs.map (fun c => if c.m = m then c else { c with dl := 0 }) := by
  simp only [State.disarm, h, if_true]
  split_ifs <;> rfl

end

theorem timeCommands : claimTimeCommands := by
  intro s m c b e
  refine ⟨?_, ?_, ?_, ?_, ?_⟩
  · intro h
    obtain ⟨_, _, hcm, _⟩ := id h
    exact (onUnit_cmdRow h State.stcRead).trans (by rw [State.stcRead, hcm]; rfl)
  · intro h hseed
    obtain ⟨_, _, hcm, _⟩ := id h
    exact (onUnit_cmdRowIf h (by simp [hseed]) _).trans (by rw [hcm]; rfl)
  · intro h hseed hfree
    obtain ⟨_, _, hcm, _⟩ := id h
    refine (onUnit_cmdRowIf h hseed State.seed).trans (congrArg _ ?_)
    rw [State.seed, hcm]
    exact if_neg (not_not.2 hfree)
  · intro h hseed hlocked
    obtain ⟨_, _, hcm, _⟩ := id h
    refine (onUnit_cmdRowIf h hseed State.seed).trans (congrArg _ ?_)
    rw [State.seed, hcm]
    exact if_pos hlocked
  · intro h
    obtain ⟨_, _, hcm, _⟩ := id h
    refine ⟨({ b with time := { b.time with policy := fld c.pars 0 1 % 16 } } : State).disarm
      (fun k => bit s.time.policy k && !(bit (fld c.pars 0 1 % 16) k)) m, (onUnit_cmdRow h State.deadlinePolicy).trans ?_,
      congrArg TimeS.policy (State.disarm_time _), fun hon hoff a ha x hx => ?_, fun hon hoff x hx hne => ?_⟩
    · rw [State.deadlinePolicy, hcm]
      rfl
    · rw [State.disarm_acus _ (by simp [hon, hoff])] at ha
      obtain ⟨a0, _, rfl⟩ := List.mem_map.1 ha
      obtain ⟨x0, _, rfl⟩ := List.mem_map.1 hx
      rfl
    · rw [State.disarm_runs _ (by simp [hon, hoff])] at hx
      obtain ⟨x0, _, rfl⟩ := List.mem_map.1 hx
      by_cases hm : x0.m = m
      · rw [if_pos hm] at hne
        exact absurd hm hne
      · rw [if_neg hm]

/-- Settles O52. -/
theorem fabricAndTimeCommands : Obligations.FabricAndTimeCommands := ⟨fabricCommands, timeCommands⟩

end Sys2Proof.Machine
end

section
/-! PROOFS. The update commands (R277, R278, R287, R301, R310, R424, R425). -/

namespace Sys2Proof.Machine

/-! The update commands. -/

section
variable {s : State} {c : Cmd}

theorem State.named_of_bind {x : Bind} (hn : fld c.pars 0 1 < 12)
    (hbind : (s.stack (fld c.pars 0 1)).sue.bind (fld c.pars 2 2) = some x) : s.named c = some x :=
  (if_pos hn).trans hbind

theorem State.withStack_ok {n : Nat} (h : s.stackGate n = .ok) (f : State → State) : s.withStack c n f = f s := by
  rw [State.withStack, h]

theorem State.withStack_refused {n : Nat} (h : s.stackGate n = .refused) (f : State → State) :
    s.withStack c n f = s.answer c.m stFaulted [] := by
  rw [State.withStack, h]

/-- SUE_LOAD_RULE whose fields lie in their ranges (R287). -/
theorem State.loadRule_inRange (hmap : mapOk 12 2 (fld c.pars 0 2) = true) (hn : fld c.pars 2 1 ≤ 15) (hlow : 1 ≤ fld c.pars 3 1)
    (hhigh : fld c.pars 3 1 ≤ 32) (hbases : ((List.range 4).map (fun i => fld c.pars (200 + 8 * i) 8)).all fp64Pos = true) :
    s.loadRule c =
      let named := bitsOf 12 (fld c.pars 0 2)
      let users := named.flatMap (fun k => (s.stack k).sue.binds.filter (fun x => x.ruleNo == fld c.pars 2 1))
      if users.any (fun x => x.trig.isSome) then s.answer c.m stState []
      else if !(users.all (fun x => ruleOk (ruleOf c.pars) x.strs)) then s.answer c.m stParam []
      else (named.foldl (fun (t : State) k => t.updStack k (fun st => { st with
        sue := st.sue.putRule (fld c.pars 2 1) (ruleOf c.pars) })) s).ok c.m [] := by
  have hpar : ¬ (!(mapOk numStacks 2 (fld c.pars 0 2)) || decide (fld c.pars 2 1 > 15) || decide (fld c.pars 3 1 = 0) ||
      decide (fld c.pars 3 1 > 32) || !(((List.range 4).map (fun i => fld c.pars (200 + 8 * i) 8)).all fp64Pos)) = true := by
    rw [hbases]
    simp [numStacks, hmap, Nat.not_lt.2 hn, Nat.one_le_iff_ne_zero.1 hlow, Nat.not_lt.2 hhigh]
  rw [State.loadRule]
  exact if_neg hpar

/-- A binding for a layer that no engine has yet, where its rule and its extents are good and there is room (R277, R278). -/
theorem State.bindLayer_new {r : Rule} {x : Bind} (hx : x = Bind.ofBytes (c.pars.drop 8)) (hn : fld c.pars 0 1 < 12)
    (hstk : bits x.hd 492 4 = fld c.pars 0 1) (hlayer : x.layer ≠ 0xFFFF)
    (hrule : (s.stack (fld c.pars 0 1)).sue.rule x.ruleNo = some r) (hgood : ruleOk r x.strs = true)
    (hext : x.ok (((s.stack (fld c.pars 0 1)).sue.binds.filter (fun y => y.layer != x.layer)).flatMap Bind.extents) = true)
    (hnew : s.bindStack x.layer = none)
    (hroom : bindRoom ((s.stack (fld c.pars 0 1)).sue.binds.filter (fun y => y.layer != x.layer)) x = true) :
    s.bindLayer c = ((s.dropBind x.layer).updStack (fld c.pars 0 1) (fun k => { k with
        sue := { k.sue with binds := k.sue.binds ++ [x] } })).ok c.m (toLE 16 x.record) := by
  subst hx
  have hnum : ¬ fld c.pars 0 1 ≥ numStacks := Nat.not_le.2 hn
  simp [State.bindLayer, hnum, hstk, hlayer, hrule, hgood, hext, hnew, hroom]

end

theorem updateCommandsAnswer : claimUpdateCommands := by
  intro s m c b n
  refine ⟨?_, ?_, ?_, ?_, ?_, ?_, ?_⟩
  · intro h named users hmap hnum hlow hhigh hbases
    obtain ⟨_, _, hcm, _⟩ := id h
    have hexec : exec (.sueLoadRule m) s = .next (b.loadRule c) := onUnit_cmdRow h State.loadRule
    rw [hexec, State.loadRule_inRange hmap hnum hlow hhigh hbases, hcm]
    refine ⟨fun hbusy => congrArg _ (if_pos hbusy), fun hidle hrules => congrArg _ ?_⟩
    exact (if_neg (Bool.eq_false_iff.1 hidle)).trans (if_neg ((congrArg not hrules).trans_ne Bool.false_ne_true))
  · intro r h hform x others hn hstk hlayer hrule hgood hext hnew hroom
    obtain ⟨_, _, hcm, _⟩ := id h
    refine (onUnit_cmdRowIf h (by simp [hform]) State.bindLayer).trans (congrArg _ ?_)
    rw [State.bindLayer_new (s := s.began m) rfl hn hstk hlayer hrule hgood hext hnew hroom, hcm]
  · intro x h hform hn hbind
    obtain ⟨_, _, hcm, _⟩ := id h
    have hexec : exec (.sueUnbindLayer m) s = .next (b.unbindLayer c) := onUnit_cmdRowIf h hform State.unbindLayer
    have hnamed : b.named c = some x := State.named_of_bind hn hbind
    rw [hexec]
    refine ⟨fun huse => congrArg _ ?_, fun hfree => congrArg _ ?_⟩
    · simp only [State.unbindLayer, hnamed, huse, if_true, hcm]
      rfl
    · simp only [State.unbindLayer, hnamed, hfree, Bool.false_eq_true, if_false, hcm]
      rfl
  · intro x h hn hbind
    obtain ⟨_, _, hcm, _⟩ := id h
    have hnamed : b.named c = some x := State.named_of_bind hn hbind
    refine (onUnit_cmdRow h State.versionState).trans (congrArg _ ?_)
    simp only [State.versionState, show (s.began m).named c = some x from hnamed, hcm]
    rfl
  · intro h hok hfree
    obtain ⟨_, _, hcm, _⟩ := id h
    refine ⟨{ b with
      stks := s.stks.map (fun (k : Stack) => { k with sue := k.sue.setScale c.pars })
      fab := { b.fab with contrib := none } }, (onUnit_cmdRow h State.scaleMode).trans (congrArg _ ?_), rfl, rfl⟩
    have hpar : (!((s.began m).scaleOk c)) ≠ true := (congrArg not hok).trans_ne Bool.false_ne_true
    rw [State.scaleMode, hcm]
    exact (if_neg hpar).trans (if_neg (Bool.eq_false_iff.1 hfree))
  · intro h l todo hn hsome hfree hgate
    obtain ⟨_, _, hcm, _⟩ := id h
    refine (onUnit_cmdRow h State.sueRollback).trans (congrArg _ ?_)
    have hpar : ¬ (decide (n ≥ numStacks) || (decide (l ≠ 0xFFFF) && todo.isEmpty)) = true := by
      have hnum : ¬ n ≥ numStacks := Nat.not_le.2 hn
      rcases hsome with h | h <;> simp [hnum, h]
    rw [State.sueRollback]
    refine (if_neg hpar).trans ((if_neg (Bool.eq_false_iff.1 hfree)).trans ?_)
    rw [State.withStack_ok (s := s.began m) hgate, hcm]
    rfl
  · intro x h hn hbind
    obtain ⟨_, _, hcm, _⟩ := id h
    have hexec : exec (.sueStatsRead m) s = .next (b.statsRead c) := onUnit_cmdRow h State.statsRead
    have hnamed : b.named c = some x := State.named_of_bind hn hbind
    rw [hexec]
    refine ⟨fun hgate => congrArg _ ?_, fun hgate => congrArg _ ?_⟩
    · simp only [State.statsRead, hnamed]
      rw [State.withStack_ok (s := b) hgate, hcm]
      rfl
    · simp only [State.statsRead, hnamed]
      rw [State.withStack_refused (s := b) hgate, hcm]
      rfl

/-- Settles O53. -/
theorem updateCommands : Obligations.UpdateCommands := updateCommandsAnswer

end Sys2Proof.Machine
end

section
/-! PROOFS. The telemetry and fault commands (R426 to R431). -/

namespace Sys2Proof.Machine

/-! The telemetry commands. -/

/-- TEL_COUNTERS of counters, not of sums, at a buffer on a boundary. -/
theorem State.telCounters_units {s : State} {c : Cmd} {ok : Bool} (hok : telOk c.pars 8 = true) (hl : fld c.pars 0 1 ≠ 7)
    (halign : fld c.pars 8 8 % 64 = 0) (hfits : fld c.pars 8 8 ≠ 0 ∨ fld c.pars 4 2 * telSize (fld c.pars 0 1) ≤ 4064) :
    s.telCounters ok c =
      let bs := (List.range (fld c.pars 4 2)).flatMap (fun i =>
        (s.telCtrs (fld c.pars 0 1) (fld c.pars 2 2 + i)).flatMap (fun x => toLE 8 (ctrWord x)))
      if fld c.pars 8 8 = 0 then s.ok c.m bs
      else if !ok then s.dmaErr c.m
      else ({ s with out := s.out ++ [Out.hostWrite (fld c.pars 8 8) bs false] }).ok c.m [] := by
  have hpar : ¬ (!(telOk c.pars 8) || decide (fld c.pars 8 8 % 64 ≠ 0) ||
      (decide (fld c.pars 8 8 = 0) && decide (fld c.pars 4 2 * telSize (fld c.pars 0 1) > 4064))) = true := by
    rcases hfits with h | h
    · simp [hok, halign, h]
    · simp [hok, halign, Nat.not_lt.2 h]
  simp only [State.telCounters]
  rw [if_neg hpar, if_neg hl]

theorem telemetryCommands : claimTelemetryCommands := by
  intro s m c b l f n a
  refine ⟨?_, ?_, ?_, ?_⟩
  · intro ok h hok hl bs
    obtain ⟨_, _, hcm, _⟩ := id h
    have hexec : exec (.telCounters m ok) s = .next (b.telCounters ok c) := onUnit_cmdRow h (State.telCounters ok)
    rw [hexec]
    refine ⟨fun ha hfits => congrArg _ ?_, fun ha halign hgood => congrArg _ ?_⟩
    · rw [State.telCounters_units hok hl (by rw [show fld c.pars 8 8 = 0 from ha]) (.inr hfits), hcm]
      exact if_pos ha
    · rw [State.telCounters_units hok hl halign (.inl ha), hcm, hgood]
      exact if_neg ha
  · intro h
    obtain ⟨_, _, hcm, _⟩ := id h
    exact (onUnit_cmdRow h State.telSensors).trans (by rw [State.telSensors, hcm]; rfl)
  · intro h hok
    obtain ⟨_, _, hcm, _⟩ := id h
    refine (onUnit_cmdRow h State.telClear).trans (congrArg _ ?_)
    rw [State.telClear, hcm]
    exact if_neg ((congrArg not hok).trans_ne Bool.false_ne_true)
  · intro n hn
    exact congrArg Block.ctr (State.block_updBlock_self s n _ hn)

/-! The fault commands. -/

theorem State.block_updBlock_of_reset (s : State) (n : Nat) {f : Block → Block} (hf : f Block.reset = Block.reset) :
    (s.updBlock n f).block n = f (s.block n) := by
  by_cases hn : n < s.blocks.length
  · exact State.block_updBlock_self s n f hn
  · have hlen : s.blocks.length ≤ n := Nat.not_lt.1 hn
    have hlen' : (s.updBlock n f).blocks.length ≤ n := (length_updAt s.blocks n f).trans_le hlen
    rw [State.block, State.block, List.getD_eq_default _ _ hlen, List.getD_eq_default _ _ hlen', hf]

/-- A flash write changes the flash alone of what the keys and settings hold. -/
theorem State.flashBoth_sec (s : State) (f : Flash → Flash) : ∃ fl, (s.flashBoth f).sec = { s.sec with flash := fl } := by
  unfold State.flashBoth
  dsimp only
  split
  · exact ⟨_, rfl⟩
  · exact ⟨_, State.emit_sec _ _ _ _ _ _⟩

/-- The settings in force with `bs` as setting `i`. -/
def setsWith (sets : List (Nat × List Byte)) (i : Nat) (bs : List Byte) : List (Nat × List Byte) :=
  (sets.filter (fun x => x.1 != i)).filter (fun x => decide (x.1 < i)) ++ [(i, bs)] ++
    (sets.filter (fun x => x.1 != i)).filter (fun x => decide (x.1 > i))

theorem mem_setsWith (sets : List (Nat × List Byte)) (i : Nat) (bs : List Byte) : (i, bs) ∈ setsWith sets i bs := by
  simp [setsWith]

/-- A setting that the part writes itself is in force, its body behind a head of 128 bytes. -/
theorem State.putOwn_sec (s : State) (i : Nat) (body : List Byte) :
    ∃ head fl, head.length = 128 ∧
      (s.putOwn i body).sec = { s.sec with flash := fl, sets := setsWith s.sec.sets i (head ++ body) } := by
  simp only [State.putOwn]
  generalize hhead : toLE 2 i ++ [1, 0] ++ toLE 4 _ ++ toLE 4 body.length ++ toLE 4 0 ++ toLE 32 (Config.sm3 body) = head
  have hlen : head.length = 48 := by
    rw [← hhead]
    simp
  obtain ⟨fl, hfl⟩ := State.flashBoth_sec { s with freeN := s.freeN + 1 }
    (Flash.putSetting s.boot.slot i (head ++ toLE 64 (Config.sm2Sign s.sec.ident (Config.sm3 head) s.freeN) ++ toLE 16 0 ++ body))
  refine ⟨head ++ toLE 64 (Config.sm2Sign s.sec.ident (Config.sm3 head) s.freeN) ++ toLE 16 0, fl, by simp [hlen], ?_⟩
  simp only [State.inForce, hfl]
  rfl

theorem faultCommands : claimFaultCommands := by
  intro s m c b l u
  refine ⟨?_, ?_, ?_, ?_, ?_⟩
  · intro h hlit
    obtain ⟨_, _, hcm, _⟩ := id h
    refine (onUnit_cmdRow h State.fltRead).trans (congrArg _ ?_)
    have hlit' : ¬ (decide (l = lvBlock) && decide (u < numBlocks) && s.darkBlock u) = true := by
      rcases hlit with h | h | h
      · simp [lvBlock, h]
      · simp [numBlocks, Nat.not_lt.2 h]
      · simp [h]
    rw [State.fltRead, hcm]
    exact if_neg hlit'
  · intro h hl hu hlit k t
    obtain ⟨_, _, hcm, _⟩ := id h
    have hk : (t.block u) = k := State.block_updBlock_of_reset b u rfl
    have hanswer : t.clearAns u = if k.clearing then none else some (toLE 4 k.st.code) := by rw [State.clearAns, hk]
    have hexec : exec (.fltClear m) s = .next (match t.clearAns u with | some bs => t.ok m bs | none => t) := by
      refine (onUnit_cmdRow h State.fltClear).trans (congrArg _ ?_)
      rw [State.fltClear, hcm]
      refine (if_pos hl).trans ((if_neg (Nat.not_le.2 hu)).trans ((if_neg (Bool.eq_false_iff.1 hlit)).trans ?_))
      rfl
    rw [hexec, hanswer]
    refine ⟨fun hclr => ?_, fun hclr => ?_, fun hst hq => ?_, fun hst hq => ?_⟩
    · rw [hclr]
      rfl
    · rw [hclr]
      rfl
    · have hk' : k = { (s.block u).releaseAll with st := .stopped, fault := 0, clearing := false } := by
        simp [k, Block.clearFault, hst, hq]
      rw [hk']
      exact ⟨rfl, rfl⟩
    · have hk' : k = { s.block u with clearing := true } := by
        simp [k, Block.clearFault, hst, hq]
      rw [hk']
      exact ⟨hst, rfl⟩
  · intro h hl
    obtain ⟨_, _, hcm, _⟩ := id h
    refine (onUnit_cmdRow h State.fltClear).trans (congrArg _ ?_)
    rw [State.fltClear, hcm]
    exact if_neg hl
  · intro h kind arg hu hoff hlit t
    obtain ⟨_, _, hcm, _⟩ := id h
    refine (onUnit_cmdRow h State.fltInject).trans (congrArg _ ?_)
    have hpar : ¬ (decide (u ≥ injectUnits kind) || (decide (kind = 3) && decide (bits arg 0 63 ≥ stackBytes))) = true := by
      simp only [Bool.or_eq_true, Bool.and_eq_true, decide_eq_true_eq, not_or]
      exact ⟨Nat.not_le.2 hu, hoff⟩
    have hstate : ¬ ((decide (kind = 1) || decide (kind = 2) || decide (kind = 4)) && s.darkBlock u) = true := by
      simpa only [Bool.or_eq_true, Bool.and_eq_true, decide_eq_true_eq, or_assoc] using hlit
    have hseq : t.host.evseq = s.host.evseq + 1 := (entryOfAnEvent b _).1
    rw [State.fltInject, hcm]
    refine (if_neg hpar).trans ((if_neg hstate).trans ?_)
    rw [← hseq]
    rfl
  · intro h n hn hrun hvec hlit
    obtain ⟨_, _, hcm, _⟩ := id h
    let s1 : State := { b with sec := { b.sec with vmap := s.sec.vmap ||| (1 <<< n), downs := s.sec.downs + 1 } }
    obtain ⟨head, fl, hlen, hsec⟩ := s1.putOwn_sec 1 s1.gradeBody
    let t := (s1.putOwn 1 s1.gradeBody).emit 0x0108 lvBlock n s1.grade 0
    have hsec' : t.sec = { s1.sec with
      flash := fl
      sets := setsWith s1.sec.sets 1 (head ++ s1.gradeBody) } := (State.emit_sec _ _ _ _ _ _).trans hsec
    refine ⟨t, (onUnit_cmdRow h State.gradeDown).trans (congrArg _ ?_), by rw [hsec'], by rw [hsec'], (1, head ++ s1.gradeBody), ?_, rfl, ?_⟩
    · have hlit' : ¬ (decide ((s.block n).st = .running) || s.vecBlock n || s.darkBlock n) = true := by simp [hrun, hvec, hlit]
      rw [State.gradeDown, hcm]
      exact (if_neg (Nat.not_le.2 hn)).trans (if_neg hlit')
    · rw [hsec']
      exact mem_setsWith _ _ _
    · rw [List.drop_left' hlen, State.gradeBody, State.gradeBody, hsec']

/-- Settles O54. -/
theorem telemetryAndFaultCommands : Obligations.TelemetryAndFaultCommands := ⟨telemetryCommands, faultCommands⟩

end Sys2Proof.Machine
end

section
/-! PROOFS. The security, firmware and settings commands, and Thallus restarts (R434, R435, R485, R511 to R521). -/

namespace Sys2Proof.Machine

/-! What the part's own records leave. -/

theorem State.flashBoth_frame (s : State) (f : Flash → Flash) :
    (s.flashBoth f).blocks = s.blocks ∧ (s.flashBoth f).regions = s.regions ∧ (s.flashBoth f).stks = s.stks := by
  unfold State.flashBoth
  dsimp only
  split
  · exact ⟨rfl, rfl, rfl⟩
  · exact ⟨State.emit_blocks .., State.emit_regions .., State.emit_stks ..⟩

theorem State.putOwn_frame (s : State) (i : Nat) (body : List Byte) :
    (s.putOwn i body).blocks = s.blocks ∧ (s.putOwn i body).regions = s.regions ∧ (s.putOwn i body).stks = s.stks :=
  State.flashBoth_frame _ _

/-- While Thallus serves, nothing that a flash write logs is held back. -/
theorem State.flashBoth_boot {s : State} (hserves : (s.boot.restart || s.boot.halted) = false) (f : Flash → Flash) :
    (s.flashBoth f).boot = s.boot := by
  unfold State.flashBoth
  dsimp only
  split
  · rfl
  · rw [State.emit_plain (s.setFlash (s.boot.dev.getD 0) f) _ _ _ _ _ hserves]
    rfl

theorem State.putOwn_boot {s : State} (hserves : (s.boot.restart || s.boot.halted) = false) (i : Nat) (body : List Byte) :
    (s.putOwn i body).boot = s.boot :=
  State.flashBoth_boot (s := { s with freeN := s.freeN + 1 }) hserves _

/-! The life-cycle wipe. -/

theorem foldl_sec {α : Type} {f : State → α → State} (h : ∀ t x, (f t x).sec = t.sec) (l : List α) (s : State) :
    (l.foldl f s).sec = s.sec := by
  induction l generalizing s with
  | nil => rfl
  | cons x xs ih => rw [List.foldl_cons, ih, h]

theorem State.askPin_sec (s : State) (layer : Nat) : (s.askPin layer).2.sec = s.sec := by
  unfold State.askPin
  split
  · rfl
  · split
    · rfl
    · split_ifs <;> rfl

theorem State.settle_sec (s : State) (n : Nat) : (s.settle n).sec = s.sec := by
  refine foldl_sec (fun t x => ?_) _ _
  have hask := t.askPin_sec x.2.2.layer
  split
  · rfl
  · next heq => rw [State.updBlock_sec, ← hask, heq]

theorem State.wipe_sec (s : State) (scope stks : Nat) : (s.wipe scope stks).sec = s.sec := by
  have hstks : ((bitsOf numStacks stks).foldl (fun (t : State) n => (t.updStack n Stack.wiped).settle n) s).sec = s.sec :=
    foldl_sec (fun t n => State.settle_sec (t.updStack n Stack.wiped) n) _ s
  simp only [State.wipe]
  split_ifs
  · exact hstks
  · rfl
  · exact hstks
  · rfl

/-- A block's stores after a wipe of both its scratchpad and its accumulators. -/
theorem Block.wiped_both (b : Block) :
    (b.wiped true true).spad = Mem.empty ∧ (b.wiped true true).acc = Mem.empty ∧ (b.wiped true true).sideV = Mem.empty ∧
      (b.wiped true true).sideT = Mem.empty ∧ (b.wiped true true).tiles = [] := ⟨rfl, rfl, rfl, rfl, rfl⟩

/-- The state of a life-cycle wipe before its record is written. -/
def State.lcWiped (s : State) : State :=
  let s1 := (s.wipe 15 s.wipable).fullWipe
  { s1 with sec := { s1.sec with
    lastLc := s1.sec.fuses.lc, ident := if s1.sec.keys then Config.identityOf s1.sec.fuses.secret else s1.sec.ident } }

theorem State.lcWipe_eq (s : State) : s.lcWipe = if s.lcWiped.sec.keys then s.lcWiped.putSecRecord else s.lcWiped := rfl

theorem State.lcWipe_frame (s : State) : s.lcWipe.blocks = s.lcWiped.blocks ∧ s.lcWipe.regions = s.lcWiped.regions ∧
    s.lcWipe.sec.lastLc = s.lcWiped.sec.lastLc := by
  rw [State.lcWipe_eq]
  split
  · obtain ⟨hblocks, hregions, _⟩ := s.lcWiped.putOwn_frame 2 s.lcWiped.secBody
    obtain ⟨head, fl, _, hsec⟩ := s.lcWiped.putOwn_sec 2 s.lcWiped.secBody
    have hlast := congrArg SecS.lastLc hsec
    exact ⟨hblocks, hregions, hlast⟩
  · exact ⟨rfl, rfl, rfl⟩

theorem lifeCycleWipe : claimLifeCycleWipe := by
  intro s
  obtain ⟨hblocks, hregions, hlc⟩ := s.lcWipe_frame
  refine ⟨fun b hb => ?_, fun g hg => ?_, ?_⟩
  · rw [hblocks] at hb
    obtain ⟨b0, _, rfl⟩ := List.mem_map.1 hb
    exact b0.wiped_both
  · rw [hregions] at hg
    obtain ⟨g0, _, rfl⟩ := List.mem_map.1 hg
    rfl
  · rw [hlc]
    have hfuse := congrArg (fun x => (SecS.fuses x).lc) (State.wipe_sec s 15 s.wipable)
    exact hfuse

/-! The security commands. -/

theorem securityCommands : claimSecurityCommands := by
  intro s m c b
  refine ⟨?_, ?_, ?_, ?_⟩
  · intro h
    obtain ⟨_, _, hcm, _⟩ := id h
    exact (onUnit_cmdRow h State.attest).trans (by rw [State.attest, hcm]; rfl)
  · intro h
    obtain ⟨_, _, hcm, _⟩ := id h
    have hexec : exec (.secLifecycle m) s = .next (b.lifecycle c) := onUnit_cmdRow h State.lifecycle
    refine ⟨fun hbusy => hexec.trans (congrArg _ ?_), fun hidle hslice => ?_⟩
    · have hbusy' : (s.anyRunning || decide (s.fab.slice ≠ 0)) = true := by simpa using hbusy
      rw [State.lifecycle, hcm]
      exact if_pos hbusy'
    · intro us
      have hfree : ¬ (s.anyRunning || decide (s.fab.slice ≠ 0)) = true := by simp [hidle, hslice]
      refine ⟨({ b with
        sec := { b.sec with fuses := { b.sec.fuses with lc := fld c.pars 0 1 }, authCtr := fld c.pars 4 4 }
        stks := s.stks.map (fun (k : Stack) =>
          if k.st = .selfRefresh then { k with st := .waking, wake := s.now + 400, byReq := false } else k) } : State).lcWipes,
        hexec.trans (congrArg _ ?_), rfl, rfl, rfl, rfl⟩
      rw [State.lifecycle, hcm]
      exact if_neg hfree
  · intro h hidle hslice
    obtain ⟨_, _, hcm, _⟩ := id h
    have hfree : ¬ (s.anyRunning || decide (s.fab.slice ≠ 0)) = true := by simp [hidle, hslice]
    let d := keyDigest (fld c.pars 0 64)
    let s1 : State := { b with sec := { b.sec with owner := some (fld c.pars 0 64), authCtr := fld c.pars 64 4 } }
    obtain ⟨head, fl, _, hsec⟩ := s1.putOwn_sec 2 s1.secBody
    have hsec' : (s1.putSecRecord.emit 0x0B04 lvChip 0 (d % 2 ^ 64) 0).sec = _ := (State.emit_sec _ _ _ _ _ _).trans hsec
    refine ⟨s1.putSecRecord.emit 0x0B04 lvChip 0 (d % 2 ^ 64) 0, (onUnit_cmdRow h State.ownerKey).trans (congrArg _ ?_),
      by rw [hsec'], by rw [hsec'], fun hrestart hhalted => ?_⟩
    · rw [State.ownerKey, hcm]
      exact if_neg hfree
    · have hserves : (s1.boot.restart || s1.boot.halted) = false := by
        rw [show s1.boot = s.boot from rfl, hrestart, hhalted]
        rfl
      have hboot : s1.putSecRecord.boot = s1.boot := State.putOwn_boot hserves 2 s1.secBody
      rw [State.emit_plain _ _ _ _ _ _ (hboot ▸ hserves)]
      exact ⟨_, List.mem_append_right _ (List.mem_singleton.2 rfl), rfl, rfl⟩
  · intro hop hcm hcmd hdue
    have hends : decide (s.now ≥ c.keep.getD 0 0) = true := decide_eq_true hdue
    simp only [State.ending, hop, hends, if_true, State.lcDone, hcm]
    rfl

/-! The firmware and settings commands. -/

section
variable {s : State} {c : Cmd}

theorem State.fwStage_inRange {data : List Byte} (halign : fld c.pars 8 8 % 64 = 0) (hlen : fld c.pars 0 4 ≤ 2 ^ 25) :
    s.fwStage (some data) c =
      let k := 1 - s.boot.slot
      let t := s.flashBoth (fun f => f.write (slotOff k) (fitTo (fld c.pars 0 4) data))
      let f := t.flashAt (t.boot.dev.getD 0)
      if f.fwOk k t.sec.fuses.minSec then ({ t with sec := { t.sec with staged := 1 } }).ok c.m (f.read (slotOff k + 4) 8)
      else ({ t with sec := { t.sec with staged := 2 } }).answer c.m stParam [] := by
  have hpar : ¬ (decide (fld c.pars 8 8 % 64 ≠ 0) || decide (fld c.pars 0 4 > 2 ^ 25)) = true := by
    simp only [halign, ne_eq, not_true_eq_false, decide_false, Bool.false_or, decide_eq_true_eq]
    exact Nat.not_lt.2 hlen
  rw [State.fwStage]
  exact if_neg hpar

theorem State.setRead_mailbox {bs : List Byte} {ok : Bool} (hi : fld c.pars 0 2 < 256)
    (hset : (s.flashAt (s.boot.dev.getD 0)).setting (fld c.pars 0 2) = some bs) (hlen : fld c.pars 4 4 ≤ bs.length)
    (hmbx : fld c.pars 8 8 = 0) (hfits : fld c.pars 4 4 ≤ 4064) :
    s.setRead ok c = s.ok c.m (bs.take (fld c.pars 4 4)) := by
  have hpar : ¬ (decide (fld c.pars 4 4 > bs.length) || decide (fld c.pars 8 8 % 64 ≠ 0) ||
      (decide (fld c.pars 8 8 = 0) && decide (fld c.pars 4 4 > 4064))) = true := by
    simp [Nat.not_lt.2 hlen, hmbx, Nat.not_lt.2 hfits]
  simp only [State.setRead, if_pos hi, hset]
  exact (if_neg hpar).trans (if_pos hmbx)

end

theorem firmwareAndSettings : claimFirmwareAndSettings := by
  intro s m c b
  refine ⟨?_, ?_, ?_, ?_⟩
  · intro data h halign hlen k t f
    obtain ⟨_, _, hcm, _⟩ := id h
    have hexec : exec (.fwStage m (some data)) s = .next (b.fwStage (some data) c) := onUnit_cmdRow h (State.fwStage (some data))
    rw [hexec, State.fwStage_inRange halign hlen, hcm]
    exact ⟨fun hgood => congrArg _ (if_pos hgood), fun hbad => congrArg _ (if_neg (Bool.eq_false_iff.1 hbad))⟩
  · intro h k f
    obtain ⟨_, _, hcm, _⟩ := id h
    have hexec : exec (.fwSwitch m) s = .next (b.fwSwitch c) := onUnit_cmdRow h State.fwSwitch
    refine ⟨fun hstaged => hexec.trans (congrArg _ ?_), fun hstaged hbad => hexec.trans (congrArg _ ?_),
      fun hstaged hgood hstep => ?_⟩
    · rw [State.fwSwitch, hcm]
      exact if_pos hstaged
    · have hbad' : (!(f.fwOk k s.sec.fuses.minSec)) = true := by rw [hbad]; rfl
      rw [State.fwSwitch, hcm]
      exact (if_neg (not_not.2 hstaged)).trans (if_pos hbad')
    · intro t
      have hgood' : ¬ (!(f.fwOk k s.sec.fuses.minSec)) = true := by rw [hgood]; exact Bool.false_ne_true
      have hstep' : ¬ (decide (fld (f.read (slotOff k) 256) 12 1 ≠ fld s.boot.hdr 12 1) && !(bit (fld c.pars 0 1) 0)) = true := by
        rcases hstep with h | h <;> simp [h]
      refine hexec.trans (congrArg _ ?_)
      rw [State.fwSwitch]
      exact (if_neg (not_not.2 hstaged)).trans ((if_neg hgood').trans (if_neg hstep'))
  · intro bs ok h hi hset hlen hmbx hfits
    obtain ⟨_, _, hcm, _⟩ := id h
    refine (onUnit_cmdRow h (State.setRead ok)).trans (congrArg _ ?_)
    rw [State.setRead_mailbox (s := s.began m) hi hset hlen hmbx hfits, hcm]
  · intro data h halign hlow hhigh bs i old hi hbody h1 h2 h4 hclk hgood
    obtain ⟨_, _, hcm, _⟩ := id h
    have hpar : ¬ (decide (fld c.pars 8 8 % 64 ≠ 0) || decide (fld c.pars 0 4 < 128) || decide (fld c.pars 0 4 > 32768)) = true := by
      simp [halign, Nat.not_lt.2 hlow, Nat.not_lt.2 hhigh]
    have hhead : ¬ (decide (i > 255) || decide (fld bs 8 4 ≠ fld c.pars 0 4 - 128)) = true := by simp [Nat.not_lt.2 hi, hbody]
    have hown : ¬ (decide (i = 1) || decide (i = 2) || (decide (i = 4) && decide (s.sec.fuses.lc ≠ 0))) = true := by
      rcases h4 with h4 | h4 <;> simp [h1, h2, h4]
    have hcheck : ¬ (!(s.setOk i bs) || (decide (i = 0x0010) && !(decide (fld c.pars 0 4 ≥ 136) && clkOk (fld bs 128 8)))) = true := by
      simp [hgood, hclk]
    have hexec : exec (.setWrite m (some data)) s = .next (if fld bs 4 4 ≤ old then b.answer m 6 [] else
        (if bit (fld bs 2 1) 0 then (b.flashBoth (Flash.putSetting s.boot.slot i bs)).inForce i bs
          else b.flashBoth (Flash.putSetting s.boot.slot i bs)).ok m (toLE 2 i ++ toLE 1 (b2n (bit (fld bs 2 1) 0)) ++ [0])) := by
      refine (onUnit_cmdRow h (State.setWrite (some data))).trans (congrArg _ ?_)
      rw [State.setWrite, hcm]
      exact (if_neg hpar).trans ((if_neg hhead).trans ((if_neg hown).trans (if_neg hcheck)))
    rw [hexec]
    exact ⟨fun hle => congrArg _ (if_pos hle), fun hlt => congrArg _ (if_neg (Nat.not_le.2 hlt))⟩

/-! Thallus restarts. -/

theorem thallusRestarts : claimThallusRestarts := by
  refine ⟨fun s hcore hhalt hclk hchip hboot hrestart => ⟨fun hlate => congrArg Host.Outcome.next ?_, fun ⟨t, hend, hsoon⟩ => congrArg Host.Outcome.next ?_⟩,
    fun s hcore hhalt hclk hboot hrestart hswitch => ?_⟩
  · cases hend : s.boot.lockEnd with
    | none => simp [State.lockstep, hcore, hhalt, hclk, hchip, hboot, hrestart, hend]
    | some t =>
      have hpast : ¬ s.now < t + 100000000 := Nat.not_lt.2 (hlate t hend)
      simp [State.lockstep, hcore, hhalt, hclk, hchip, hboot, hrestart, hend, hpast]
  · simp [State.lockstep, hcore, hhalt, hclk, hchip, hboot, hrestart, hend, hsoon]
  · intro s1 t
    refine congrArg Host.Outcome.next ?_
    have hgo : (decide (s.boot.boot = 8) && s.boot.restart && s.coreUp && !s.boot.halted && !s.pwr.clkOff) = true := by
      simp [hboot, hrestart, hcore, hhalt, hclk]
    rw [State.restarted, if_pos hgo]
    simp only [hswitch, Bool.false_eq_true, if_false]
    rfl

/-- Settles O55. -/
theorem securityFirmwareAndRestart : Obligations.SecurityFirmwareAndRestart :=
  ⟨securityCommands, lifeCycleWipe, firmwareAndSettings, thallusRestarts⟩

end Sys2Proof.Machine
end

section
/-! PROOFS. Supplies, temperature and clocks (R441, R451 to R455, R484). -/

namespace Sys2Proof.Machine

/-! Supplies. -/

theorem State.canIssue_of_pause {s : State} {t : Nat} (h : s.pwr.pause = some t) (n : Nat) : s.canIssue n = false := by
  simp [State.canIssue, State.issueOn, h]

theorem suppliesWarnAndRecover : claimSupplies := by
  refine ⟨fun s rail hrail hup => ?_, fun s t hup hrails hpause =>
    ⟨fun htrip => congrArg Host.Outcome.next ?_, fun htrip => congrArg Host.Outcome.next ?_⟩⟩
  · intro s1
    refine ⟨(onUnit_of hrail _).trans (congrArg _ ?_), fun n => ?_, (onUnit_of hrail _).trans (congrArg _ (if_pos hup))⟩
    · rw [State.supplyWarn, if_pos hup]
      cases hp : s.pwr.pause <;> simp only [s1, hp] <;> rfl
    · exact State.canIssue_of_pause (congrArg PwrS.pause (State.emit_pwr s1 _ _ _ _ _)) n
  · simp [State.supplyResume, hup, hrails, hpause, htrip, lvChip]
  · simp [State.supplyResume, hup, hrails, hpause, Option.isSome_iff_ne_none.2 htrip]

/-! Temperature. -/

theorem exec_thermalSample {s : State} {core dies : List Int} (hcore : core.length = 5) (hdies : dies.length = 2) (hup : s.crustUp = true) :
    exec (.thermalSample core dies) s = .next ((({ s with pwr := { s.pwr with coreT := core, dieT := dies } }).thermWarn
      (hottest (core ++ dies)).1 (hottest (core ++ dies)).2).thermTrip (hottest (core ++ dies)).1 (hottest (core ++ dies)).2) := by
  have hlen : (core.length == 5 && dies.length == 2) = true := by simp [hcore, hdies]
  calc exec (.thermalSample core dies) s = onUnit (core.length == 5 && dies.length == 2) (s.thermal core dies) := rfl
    _ = .next (s.thermal core dies) := by rw [hlen]; rfl
    _ = _ := by rw [State.thermal, if_pos hup]

section
variable {s : State} {i : Nat} {t : Int}

theorem State.thermWarn_steady (hlow : 1552 < t) (hhigh : t < 1600 ∨ s.pwr.therm = true) : s.thermWarn i t = s := by
  have hwarn : ¬ (decide (t ≥ 1600) && !s.pwr.therm) = true := by
    rcases hhigh with h | h
    · simp [Int.not_le.2 h]
    · simp [h]
  rw [State.thermWarn, if_neg hwarn, if_neg (Int.not_le.2 hlow)]

theorem State.thermWarn_begins (hhigh : 1600 ≤ t) (hfresh : s.pwr.therm = false) :
    s.thermWarn i t = ({ s with pwr := { s.pwr with therm := true } }).emit 0x0504 lvChip 0 (i + 65536 * unsigned 16 t) 0 := by
  rw [State.thermWarn, if_pos (by simp [hhigh, hfresh])]

theorem State.thermWarn_ends (hlow : t ≤ 1552) : s.thermWarn i t = { s with pwr := { s.pwr with therm := false } } := by
  have hwarn : ¬ (decide (t ≥ 1600) && !s.pwr.therm) = true := by
    simp [show ¬ t ≥ 1600 by omega]
  rw [State.thermWarn, if_neg hwarn, if_pos hlow]

theorem State.thermTrip_below (h : t < 1840) : s.thermTrip i t = s := if_neg (by simp [Int.not_le.2 h])

theorem State.thermTrip_trips (h : 1840 ≤ t) (hfresh : s.pwr.trip = none) :
    s.thermTrip i t = ({ s with pwr := { s.pwr with
      trip := some s.now, pause := some (s.pwr.pause.getD s.now) } }).emit 0x0505 lvChip 0 (i + 65536 * unsigned 16 t) 0 := by
  rw [State.thermTrip, if_pos (by simp [h, hfresh])]
  cases hp : s.pwr.pause <;> rfl

end

theorem temperatureWarnsAndTrips : claimTemperature := by
  refine ⟨fun s core dies hcore hdies hup => ?_, fun s t hup htrip hdue => ?_, fun s n hn hup hclk hfresh htrained hfit => ?_⟩
  · intro x s1
    have hexec : exec (.thermalSample core dies) s = .next ((s1.thermWarn x.1 x.2).thermTrip x.1 x.2) :=
      exec_thermalSample hcore hdies hup
    rw [hexec]
    refine ⟨fun hlow hhigh => congrArg _ ?_, fun hlow => congrArg _ ?_, fun hlow hhigh hfresh => congrArg _ ?_,
      fun hhigh htherm htrip => congrArg _ ?_⟩
    · rw [State.thermWarn_steady hlow (.inl hhigh), State.thermTrip_below (by omega)]
    · rw [State.thermWarn_ends hlow, State.thermTrip_below (by omega)]
    · rw [State.thermWarn_begins (s := s1) hlow hfresh, State.thermTrip_below hhigh]
      rfl
    · rw [State.thermWarn_steady (s := s1) (by omega) (.inr htherm), State.thermTrip_trips (s := s1) hhigh htrip]
      rfl
  · exact congrArg Host.Outcome.next (by simp [State.tripClocks, htrip, hup, hdue])
  · intro t
    refine (onUnit_of hn _).trans (congrArg _ ?_)
    have hgo : (s.crustUp && s.pwr.clkOff && !(s.pwr.spOff.contains n)) = true := by rw [hup, hclk, hfresh]; rfl
    have hlive : ((s.stack n).st != .untrained && (s.stack n).st != .failed) = true := by simp [htrained, hfit]
    rw [State.tripStack, if_pos hgo]
    simp only [hlive, if_true]
    rfl

/-! Clocks. -/

theorem clocksStop : claimClockLoss := by
  refine ⟨fun s hcrust => congrArg _ (if_pos hcrust), fun s d hd => ⟨fun hstop => ?_, fun hon => ?_, fun hup hsilent => ?_, fun hearly => ?_⟩⟩
  · exact (onUnit_of hd _).trans (congrArg _ (if_pos hstop))
  · exact (onUnit_of hd _).trans (congrArg _ (if_pos hon))
  · refine (onUnit_of hd _).trans (congrArg _ (if_pos ?_))
    obtain ⟨x, hx, hxd, hdue⟩ := hsilent
    have hany : s.pwr.dieAt.any (fun x => x.1 == d && decide (s.now ≥ x.2 + 100)) = true :=
      List.any_eq_true.2 ⟨x, hx, by simp [hxd, hdue]⟩
    rw [hup, hany]
    rfl
  · refine (onUnit_of hd _).trans (congrArg _ (if_neg ?_))
    have hany : s.pwr.dieAt.any (fun x => x.1 == d && decide (s.now ≥ x.2 + 100)) = false := by
      simpa using hearly
    rw [hany, Bool.and_false]
    exact Bool.false_ne_true

/-- Settles O58. -/
theorem suppliesHeatAndClocks : Obligations.SuppliesHeatAndClocks := ⟨suppliesWarnAndRecover, temperatureWarnsAndTrips, clocksStop⟩

end Sys2Proof.Machine
end

section
/-! PROOFS. Start-up (R456 to R471). -/

namespace Sys2Proof.Machine

/-! Stages 1 to 5. -/

/-- An event changes nothing of start-up but the events held back. -/
theorem State.emit_boot (s : State) (code level unit info detail : Nat) :
    (s.emit code level unit info detail).boot = { s.boot with heldEv := (s.emit code level unit info detail).boot.heldEv } := by
  unfold State.emit
  dsimp only
  split_ifs <;> rfl

/-- Taking settings changes what is in force and no fuse. -/
theorem State.takeSetting_fuses (s : State) (f : Flash) (i : Nat) : (s.takeSetting f i).sec.fuses = s.sec.fuses := by
  unfold State.takeSetting
  split
  · rfl
  · split
    · rfl
    · rw [State.emit_sec]

theorem State.foldl_takeSetting_fuses (f : Flash) (l : List Nat) (s : State) :
    (l.foldl (fun (t : State) i => t.takeSetting f i) s).sec.fuses = s.sec.fuses := by
  induction l generalizing s with
  | nil => rfl
  | cons i is ih => rw [List.foldl_cons, ih, State.takeSetting_fuses]

/-- What the settings in force set (R437, R461, R508). -/
theorem State.applySettings_sec (s : State) : s.applySettings.sec =
    { s.sec with vmap := s.sec.fuses.vmap ||| fld (s.setBody 1) 0 18, downs := fld (s.setBody 1) 18 2 } := by
  unfold State.applySettings
  dsimp only
  split
  · rw [State.emit_sec]
  · rfl

theorem State.setBody_congr {s t : State} (h : t.sec.sets = s.sec.sets) (i : Nat) : t.setBody i = s.setBody i := by
  rw [State.setBody, State.setBody, h]

/-- The state in which the settings of the running device are in force (R461). -/
def State.settled (s : State) : State :=
  (((List.range 256).filter (fun i => i != 2)).foldl (fun (t : State) i => t.takeSetting (s.flashAt (s.boot.dev.getD 0)) i)
    (({ s with sec := { s.sec with sets := [] } }).takeSecRecord (s.flashAt (s.boot.dev.getD 0)))).applySettings

theorem State.settled_sec (s : State) :
    s.settled.sec.fuses = s.sec.fuses ∧ s.settled.sec.vmap = s.sec.fuses.vmap ||| fld (s.settled.setBody 1) 0 18 := by
  have hsec := State.applySettings_sec (((List.range 256).filter (fun i => i != 2)).foldl
    (fun (t : State) i => t.takeSetting (s.flashAt (s.boot.dev.getD 0)) i)
    (({ s with sec := { s.sec with sets := [] } }).takeSecRecord (s.flashAt (s.boot.dev.getD 0))))
  have hfuses : s.settled.sec.fuses = s.sec.fuses := by
    rw [State.settled, hsec]
    exact (State.foldl_takeSetting_fuses _ _ _).trans (State.takeSetting_fuses _ _ _)
  have hsets := State.setBody_congr (s := s.settled) (congrArg SecS.sets hsec).symm 1
  have hvmap := congrArg SecS.vmap hsec
  refine ⟨hfuses, hvmap.trans ?_⟩
  rw [hsets, ← hfuses, State.settled, hsec]

theorem State.setVerify_fresh {s : State} (hstage : s.stage 5 = true) (hrestart : s.boot.restart = false) :
    s.setVerify =
      { s.settled with
        boot := { s.settled.boot with boot := if s.boot.warm then 9 else 6, stageAt := s.now, fetched := [] }
        fab := { s.settled.fab with links := s.settled.fab.links.map (fun (k : Link) =>
          if k.st = .up || k.st = .standby || !k.cable then k
          else { k with st := .training, goal := .up, gate := false, tries := 0, full := k.full || !s.boot.warm }) } } := by
  rw [State.setVerify, if_pos hstage, if_neg (Bool.eq_false_iff.1 hrestart)]
  rfl

/-- The first device whose firmware passes runs, with or without a word of the one passed over (R460). -/
theorem State.fwVerify_runs {s : State} {d : Nat} (hstage : s.stage 4 = true)
    (hfind : s.boot.cand.find? (fun d => (s.flashAt d).fwOk (s.flashAt d).active s.sec.fuses.minSec) = some d) :
    let s1 := { s with boot := { s.boot with
      boot := 5, dev := some d, slot := (s.flashAt d).active, hdr := (s.flashAt d).read (slotOff (s.flashAt d).active) 256
      fall := none } }
    s.fwVerify = s1 ∨ ∃ c, s.fwVerify = s1.emit 0x0606 lvThallus 0 c 0 := by
  simp only [State.fwVerify, hstage, hfind, if_true]
  cases s.boot.fall with
  | some c => exact .inr ⟨c, rfl⟩
  | none =>
    by_cases hd : d = 1
    · exact .inr ⟨4, by simp only [hd, if_true]⟩
    · exact .inl (by simp only [hd, if_false])

theorem startUpStages : claimStartUpStages := by
  refine ⟨fun s hup hboot => ⟨congrArg Host.Outcome.next ?_, congrArg Host.Outcome.next ?_⟩,
    fun s hstage htamper => ⟨congrArg Host.Outcome.next ?_, congrArg Host.Outcome.next ?_⟩, fun s f0 f1 hstage => ?_,
    fun s hstage => ?_, fun s hstage => ?_⟩
  · simp [State.fuseRead, hup, hboot]
  · simp [State.fuseRead, hup, hboot]
  · simp [State.romBoot, hstage, htamper]
  · simp [State.romBoot, hstage]
  · intro s1
    have hexec : exec (.flashDiscovery f0 f1) s = .next (if ([0, 1].filter (fun d => (s1.flashAt d).bad.isNone)).isEmpty
        then s1.halt 14 true else { s1 with boot := { s1.boot with
          boot := 4, cand := [0, 1].filter (fun d => (s1.flashAt d).bad.isNone), fall := (s1.flashAt 0).bad } }) :=
      congrArg _ (if_pos hstage)
    rw [hexec]
    refine ⟨fun hbad => congrArg _ (if_pos ?_), fun ⟨d, hd, hgood⟩ => congrArg _ (if_neg fun hempty => ?_)⟩
    · refine List.isEmpty_iff.2 (List.filter_eq_nil_iff.2 fun d hd => ?_)
      have hlt : d < 2 := by
        simp only [List.mem_cons, List.not_mem_nil, or_false] at hd
        omega
      simpa using hbad d hlt
    · have hmem : d ∈ [0, 1] := by
        simp only [List.mem_cons, List.not_mem_nil, or_false]
        omega
      exact List.filter_eq_nil_iff.1 (List.isEmpty_iff.1 hempty) d hmem (by simp [hgood])
  · intro good
    refine ⟨fun hnone => congrArg Host.Outcome.next ?_, fun d hfind => ⟨s.fwVerify, rfl, ?_⟩⟩
    · have hnone' : s.boot.cand.find? (fun d => (s.flashAt d).fwOk (s.flashAt d).active s.sec.fuses.minSec) = none := hnone
      simp only [State.fwVerify, hstage, hnone', if_true]
    · rcases State.fwVerify_runs hstage hfind with h | ⟨c, h⟩
      · rw [h]
        exact ⟨rfl, rfl, rfl⟩
      · rw [h]
        exact ⟨State.emit_boot _ _ _ _ _ _, State.emit_sec _ _ _ _ _ _, State.emit_fab _ _ _ _ _ _⟩
  · refine ⟨fun hrestart => congrArg Host.Outcome.next ?_, fun hrestart => ⟨s.setVerify, rfl, ?_⟩⟩
    · simp [State.setVerify, hstage, hrestart]
    · rw [State.setVerify_fresh hstage hrestart]
      obtain ⟨hfuses, hvmap⟩ := s.settled_sec
      exact ⟨rfl, rfl, hfuses, hvmap⟩

/-! Training. -/

section
variable {s : State} {l : Nat} {t : Train} (htr : s.trains l = true)
include htr

theorem State.trainer_laneFault {lane kind : Nat} (hfault : t.fault = some (lane, kind)) :
    s.trainer l t = ((s.updLink l (fun k => { k with st := .laneHeld, gate := false, retrain := none })).emit 0x020A lvLink l
      (l + 65536 * lane + 2 ^ 32 * kind) 0).bootStage := by
  simp [State.trainer, htr, hfault]

theorem State.trainer_eqFail (hfault : t.fault = none) (hlanes : t.lanes = 0) (heq : t.eqFail = true) :
    s.trainer l t = (s.trainFail l 0 0).bootStage := by
  simp [State.trainer, htr, hfault, hlanes, heq]

theorem State.trainer_noSlot (hfault : t.fault = none) (heq : t.eqFail = false) (hslot : trainOk t.slot 5 = false) :
    s.trainer l t = s := by
  simp [State.trainer, htr, hfault, heq, hslot]

end

theorem trainingOfLinksAndStacks : claimTraining := by
  refine ⟨fun s l t hl hclk htr => ?_, fun s l corr unc slot hl hclk hdie hst hgate hgoal hretrain hslot => ?_,
    fun s n repairs hn hup hboot hst => ?_⟩
  · have hexec : exec (.linkTrainerStart l t) s = .next (s.trainer l t) := onPart_of hclk hl _
    rw [hexec]
    refine ⟨fun lane kind hfault => congrArg _ (State.trainer_laneFault htr hfault),
      fun hfault hlanes heq => congrArg _ (State.trainer_eqFail htr hfault hlanes heq),
      fun hfault heq hslot => congrArg _ (State.trainer_noSlot htr hfault heq hslot), fun hfault hlanes heq hslot => ?_⟩
    intro i own s1 s2 hid
    refine congrArg _ ?_
    simp only [State.trainer, htr, hfault, hlanes, heq, hslot, Bool.not_true, Bool.false_eq_true, if_false, if_true]
    exact if_pos hid
  · intro won lost good s0
    have hexec : exec (.linkGateVerdict l corr unc slot) s = .next (s.gateEnd l corr unc slot) := onPart_of hclk hl _
    have hopen : (!(s.dieUp (l / 32)) || decide ((s.link l).st ≠ .training) || !(s.link l).gate || decide ((s.link l).goal = .off) ||
        !(trainOk slot 6)) = false := by
      rw [hdie, hst, hgate, hgoal, hslot]
      rfl
    have hmine : (decide (corr ≤ 10000) && unc == 0) = decide good := by
      simp only [good, Bool.decide_and]
      rfl
    have hshown : (if decide good = true then 2 else 4) = if corr ≤ 10000 ∧ unc = 0 then 2 else 4 := by simp [good]
    have hend : won = true ∨ lost = true → s.gateEnd l corr unc slot =
        if (decide good && won && !lost) = true then
          (((s0.updLink l (fun k => { k with
            gate := false, tries := 0, full := false, retrain := none
            stored := k.ident.map (fun i => (k.lanes, k.delay, i)) })).recount l).linkUp l).bootStage
        else (s0.trainFail l corr unc).bootStage := by
      intro hverdict
      have hgo : ¬ (!(s.dieUp (l / 32)) || decide ((s.link l).st ≠ .training) || !(s.link l).gate || decide ((s.link l).goal = .off) ||
          !(trainOk slot 6) || !(won || lost)) = true := by
        rw [hopen]
        rcases hverdict with h | h <;> simp [h]
      simp only [State.gateEnd, hretrain, hmine]
      have hstays : ¬ (s.link l).goal = .standby := by
        rw [hgoal]
        decide
      rw [if_neg hgo, hshown, if_neg hstays]
    rw [hexec]
    refine ⟨fun hwon hlost => congrArg _ ?_, fun hgood hwon hlost => congrArg _ ?_, fun hbad => congrArg _ ?_⟩
    · refine if_pos ?_
      rw [hopen, show bit (fld slot 1 1) 1 = false from hwon, show bit (fld slot 1 1) 2 = false from hlost]
      rfl
    · rw [hend (.inl hwon)]
      exact if_pos (by simp [hgood, hwon, hlost])
    · rw [hend (hbad.elim .inr (fun h => .inl h.1))]
      refine if_neg ?_
      rcases hbad with h | ⟨_, h⟩ <;> simp [h]
  · have hfresh : ¬ (!s.crustUp || decide (s.boot.boot < 6) || decide (s.boot.boot ≥ 14) || decide (s.boot.boot = 8) ||
        (!((s.stack n).st == .untrained) && decide (s.boot.boot ≠ 9)) || decide ((s.stack n).st = .failed)) = true := by
      rcases hboot with h | h <;> simp [hup, h, hst]
    have hnine : ¬ s.boot.boot = 9 := by omega
    refine ⟨?_, fun k hlow hhigh => ?_⟩
    · have hexec : exec (.memoryTrainingComplete n (.trained repairs)) s = .next (s.memTrained n (.trained repairs)) := by
        calc exec (.memoryTrainingComplete n (.trained repairs)) s =
            onUnit (decide (n < 12) && true) (s.memTrained n (.trained repairs)) := rfl
          _ = .next (s.memTrained n (.trained repairs)) := by simp [hn]
      refine hexec.trans (congrArg _ ?_)
      simp only [State.memTrained]
      rw [if_neg hfresh, hst, if_neg hnine]
      rfl
    · have hexec : exec (.memoryTrainingComplete n (.failed k)) s = .next (s.memTrained n (.failed k)) := by
        calc exec (.memoryTrainingComplete n (.failed k)) s =
            onUnit (decide (n < 12) && (decide (1 ≤ k) && decide (k ≤ 6))) (s.memTrained n (.failed k)) := rfl
          _ = .next (s.memTrained n (.failed k)) := by simp [hn, hlow, hhigh]
      refine hexec.trans (congrArg _ ?_)
      simp only [State.memTrained]
      rw [if_neg hfresh]
      rfl

/-! READY, block fetch and block test. -/

theorem readyFetchTest : claimReadyFetchTest := by
  refine ⟨fun s hcore hhalt hclk hmay hlc hreset => congrArg Host.Outcome.next ?_, fun s hmay => congrArg Host.Outcome.next ?_,
    fun s hboot hmay => ?_, ?_, fun s fails hfails hboot htest hfirst hcore => ?_⟩
  · simp [State.setReady, hcore, hhalt, hclk, hmay, hlc, hreset]
  · exact if_neg (by simp [hmay])
  · have hstage : (decide (s.boot.boot = 6) || decide (s.boot.boot = 7)) = true := by simpa using hboot
    have hready := hmay
    rw [State.mayReady] at hready
    dsimp only at hready
    rw [if_pos hstage] at hready
    simp only [Bool.and_eq_true, Bool.or_eq_true, List.all_eq_true, bne_iff_ne, decide_eq_true_eq] at hready
    obtain ⟨⟨hstks, hlinks⟩, _⟩ := hready
    exact ⟨hstks, hlinks⟩
  · intro s n hn hboot hfirst hfetch hcore e sp len a hreg hext hgate hclean bs s2
    have hgo : ¬ (decide (s.boot.boot ≠ 9) || s.boot.fetched.contains n || !(s.fetches n) || !s.coreUp) = true := by
      rw [hfirst, hfetch, hcore]
      simp [hboot]
    have hreach : ¬ (decide ((s.region (n / 36)).st = .off) || !(extentOk sp 0 a len) || decide (s.gateAt sp 0 a len = .refused)) =
        true := by
      rw [hext, hgate]
      simp [hreg]
    have hnowait : ¬ s.gateAt sp 0 a len = .wait := by rw [hgate]; exact Gate.noConfusion
    have hexec : exec (.blockFetch n) s = .next (
        if (if Config.sm3 bs ≠ fld e 16 32 then 2 else if imageStatus bs ≠ stOk then 3 else 0) = 0 then
          s2.loadBlocks [n] bs (fld e 16 32)
        else (({ s2 with freeN := s2.freeN + 1 }).updBlock n (fun b => b.badFetch s2.freeN)).emit 0x0106 lvBlock n
          (if Config.sm3 bs ≠ fld e 16 32 then 2 else if imageStatus bs ≠ stOk then 3 else 0) 0) := by
      refine (onUnit_of hn _).trans (congrArg _ ?_)
      rw [State.fetchImage]
      exact (if_neg hgo).trans ((if_neg hreach).trans ((if_neg hnowait).trans (if_neg (Bool.eq_false_iff.1 hclean))))
    rw [hexec]
    refine ⟨fun hdig himg => ?_, fun hdig => ?_⟩
    · rw [if_neg (not_not.2 hdig), if_neg (not_not.2 (show imageStatus bs = stOk from himg)), if_pos rfl]
    · rw [if_pos hdig]
      rfl
  · have hall : fails.all (fun x => decide (x.1 < 144)) = true := List.all_eq_true.2 fun x hx => decide_eq_true (hfails x hx)
    have hgo : ((decide (s.boot.boot = 6) || decide (s.boot.boot = 7)) && s.testSet && !(s.boot.fetched.contains numBlocks) &&
        s.coreUp) = true := by
      have hstage : (decide (s.boot.boot = 6) || decide (s.boot.boot = 7)) = true := by simpa using hboot
      rw [hstage, htest, show s.boot.fetched.contains numBlocks = false from hfirst, hcore]
      rfl
    calc exec (.blockTest fails) s = onUnit (fails.all (fun x => decide (x.1 < 144))) (s.blockTest fails) := rfl
      _ = .next (s.blockTest fails) := by rw [hall]; rfl
      _ = _ := congrArg _ (if_pos hgo)

/-- Settles O59. -/
theorem startUp : Obligations.StartUp := ⟨startUpStages, trainingOfLinksAndStacks, readyFetchTest⟩

end Sys2Proof.Machine
end

section
/-! PROOFS. Tamper, debug ports, cables and SMBus (R495, R513, R517, R536 to R539). -/

namespace Sys2Proof.Machine

/-! Tamper events. -/

theorem tamperEmptiesTheKeyStore : claimTamper := by
  intro s sensor hsensor hup s1
  have hexec : exec (.tamperEvent sensor) s = .next (s.tamper sensor) := onUnit_of hsensor _
  rw [hexec]
  refine ⟨fun hlive => congrArg _ (if_neg ?_), fun hpin hoff => congrArg _ (if_pos ?_)⟩
  · rcases hlive with h | h
    · simp [hup, Nat.not_le.2 h]
    · simp [hup, h]
  · simp [hpin, hoff]

/-! Debug ports. -/

section
variable {s : State} {n : Nat} {wr : Bool} {off len : Nat} {data : List Byte}

theorem exec_hostDebugAccess (hn : n < 144)
    (hfit : off + (if wr then data.length else len) ≤ debugRegs ∨
      (debugRegs ≤ off ∧ off + (if wr then data.length else len) ≤ debugRegs + debugRegBytes)) :
    exec (.hostDebugAccess n wr off len data) s = .next (s.hostDebug n wr off len data) := by
  have hok : (decide (n < 144) && (decide (off + (if wr then data.length else len) ≤ debugRegs) ||
      (decide (debugRegs ≤ off) && decide (off + (if wr then data.length else len) ≤ debugRegs + debugRegBytes)))) = true := by
    simpa [hn] using hfit
  calc exec (.hostDebugAccess n wr off len data) s = onUnit (decide (n < 144) &&
        (decide (off + (if wr then data.length else len) ≤ debugRegs) ||
          (decide (debugRegs ≤ off) && decide (off + (if wr then data.length else len) ≤ debugRegs + debugRegBytes))))
        (s.hostDebug n wr off len data) := rfl
    _ = .next (s.hostDebug n wr off len data) := by rw [hok]; rfl

variable (hcore : s.coreUp = true) (hclk : s.pwr.clkOff = false)
include hcore hclk

section
variable (hoff : off < debugRegs)
include hoff

theorem State.hostDebug_denied (hdenied : s.deniedAt 1 (n * 2 ^ 21 + off) (if wr then data.length else len) = true) :
    s.hostDebug n wr off len data =
      let sd := (if s.locked then s.debugDenied 1 else s).emit 0x17 lvHost 0 (n * 2 ^ 21 + off) 0
      if wr then sd else sd.debugOut (List.replicate (if wr then data.length else len) 0) := by
  simp only [State.hostDebug, hcore, hclk, hdenied, hoff, Bool.not_true, Bool.or_false, Bool.false_eq_true, if_false, decide_true,
    Bool.and_self, if_true]

omit hoff in
theorem State.hostDebug_locked (hdenied : s.deniedAt 1 (n * 2 ^ 21 + off) (if wr then data.length else len) = false)
    (hlocked : s.locked = true) : s.hostDebug n wr off len data =
      if wr then s.debugDenied 1 else (s.debugDenied 1).debugOut (List.replicate (if wr then data.length else len) 0) := by
  simp only [State.hostDebug, hcore, hclk, hdenied, hlocked, Bool.not_true, Bool.or_false, Bool.false_eq_true, if_false,
    Bool.and_false, if_true]

theorem State.hostDebug_scratchpad (hlocked : s.locked = false)
    (hgate : s.gateAt 1 0 (n * 2 ^ 21 + off) (if wr then data.length else len) = .ok)
    (hdenied : s.deniedAt 1 (n * 2 ^ 21 + off) (if wr then data.length else len) = false) :
    s.hostDebug n wr off len data =
      if wr then s.writeAt 0 1 0 (n * 2 ^ 21 + off) (cleanBytes data)
      else (s.touchAt 0 clsBulk 1 0 (n * 2 ^ 21 + off) (if wr then data.length else len)).debugOut
        ((s.readAt 0 1 0 (n * 2 ^ 21 + off) (if wr then data.length else len)).map Prod.fst) := by
  have hwait : (Gate.ok == Gate.wait) = false := rfl
  have hrefused : (Gate.ok == Gate.refused) = false := rfl
  simp only [State.hostDebug, hcore, hclk, hdenied, hlocked, hgate, hoff, hwait, hrefused, Nat.not_le.2 hoff, Bool.not_true,
    Bool.or_false, Bool.false_eq_true, if_false, Bool.and_false, if_true]

end

theorem State.hostDebug_registers (hlocked : s.locked = false) (hgate : s.regionGate (n / 36) = .ok) (hoff : debugRegs ≤ off) :
    s.hostDebug n wr off len data =
      if wr then
        if off + data.length ≤ debugRegs + 0x40 || debugRegs + 0x44 ≤ off then s
        else s.putBlock n ((s.block n).ctlWrite (off - debugRegs) data)
      else s.debugOut ((s.block n).ctlBytes (off - debugRegs) len) := by
  have hwait : (Gate.ok == Gate.wait) = false := rfl
  have hrefused : (Gate.ok == Gate.refused) = false := rfl
  cases wr <;>
  simp only [State.hostDebug, hcore, hclk, hlocked, hgate, hoff, Nat.not_lt.2 hoff, hwait, hrefused, Bool.not_true,
    Bool.or_false, Bool.false_eq_true, if_false, Bool.false_and, if_true, decide_false]

end

/-! Control registers of a block. -/

theorem toLE_eq_map (n w : Nat) : toLE n w = (List.range n).map (fun i => BitVec.ofNat 8 (w / 2 ^ (8 * i))) := by
  induction n generalizing w with
  | zero => rfl
  | succ n ih =>
    rw [toLE, ih, List.range_succ_eq_map, List.map_cons, List.map_map]
    refine congrArg₂ List.cons (by simp) (List.map_congr_left fun i _ => congrArg _ ?_)
    rw [Nat.div_div_eq_div_mul, Nat.mul_succ, Nat.pow_add, Nat.mul_comm]

theorem Block.ctlBytes_word (b : Block) {o : Nat} (halign : o % 8 = 0) : b.ctlBytes o 8 = toLE 8 (b.ctlWord o) := by
  rw [Block.ctlBytes, toLE_eq_map]
  refine List.map_congr_left fun i hi => ?_
  have hlt : i < 8 := List.mem_range.1 hi
  rw [show (o + i) / 8 * 8 = o by omega, show (o + i) % 8 = i by omega]

/-- The control registers from the queues' state on (Tables 7-10 and 7-11). -/
theorem Block.ctlWord_high (b : Block) {o : Nat} (ho : 0x140 ≤ o) (hlt : o < 0x300) :
    b.ctlWord o =
      if o < 0x180 then (b.qs.getD ((o - 0x140) / 8) Queue.zero).statWord
      else if 0x200 ≤ o then b.toks.getD ((o - 0x200) / 4) 0 % 2 ^ 32 + b.toks.getD ((o - 0x200) / 4 + 1) 0 % 2 ^ 32 * 2 ^ 32
      else 0 := by
  have hctr : ¬ (decide (0x80 ≤ o) && decide (o < 0xA0)) = true := by simp; omega
  have hcfg : ¬ (decide (0x100 ≤ o) && decide (o < 0x140)) = true := by simp; omega
  have hlcr : ¬ (decide (0x300 ≤ o) && decide (o < 0x320)) = true := by simp; omega
  have himm : ¬ (decide (0x340 ≤ o) && decide (o < 0x380)) = true := by simp; omega
  have hpin : ¬ (decide (0x800 ≤ o) && decide (o < 0x1000)) = true := by simp; omega
  simp only [Block.ctlWord]
  rw [if_neg (by omega), if_neg (by omega), if_neg (by omega), if_neg (by omega), if_neg (by omega), if_neg hctr, if_neg hcfg,
    if_neg hlcr, if_neg himm, if_neg hpin]
  simp only [ho, hlt, decide_true, Bool.true_and, Bool.and_true, decide_eq_true_eq]

theorem Block.ctlWord_queue (b : Block) {q : Nat} (hq : q < 8) : b.ctlWord (0x140 + 8 * q) = (b.qs.getD q Queue.zero).statWord := by
  rw [b.ctlWord_high (by omega) (by omega), if_pos (by omega), show (0x140 + 8 * q - 0x140) / 8 = q by omega]

theorem Block.ctlWord_tokens (b : Block) {j : Nat} (hj : j < 32) :
    b.ctlWord (0x200 + 8 * j) = b.toks.getD (2 * j) 0 % 2 ^ 32 + b.toks.getD (2 * j + 1) 0 % 2 ^ 32 * 2 ^ 32 := by
  rw [b.ctlWord_high (by omega) (by omega), if_neg (by omega), if_pos (by omega), show (0x200 + 8 * j - 0x200) / 4 = 2 * j by omega]

/-- The bytes of the two halves of a word. -/
theorem ofNat_pair_byte {lo hi i : Nat} (h : i < 4) :
    BitVec.ofNat 8 ((lo % 2 ^ 32 + hi % 2 ^ 32 * 2 ^ 32) / 2 ^ (8 * i)) = BitVec.ofNat 8 (lo / 2 ^ (8 * i)) ∧
      BitVec.ofNat 8 ((lo % 2 ^ 32 + hi % 2 ^ 32 * 2 ^ 32) / 2 ^ (8 * (4 + i))) = BitVec.ofNat 8 (hi / 2 ^ (8 * i)) := by
  constructor <;> refine BitVec.eq_of_toNat_eq ?_ <;> rw [BitVec.toNat_ofNat, BitVec.toNat_ofNat] <;>
    interval_cases i <;> norm_num <;> omega

theorem Block.ctlBytes_token (b : Block) {k : Nat} (hk : k < 64) : b.ctlBytes (0x200 + 4 * k) 4 = toLE 4 (b.toks.getD k 0) := by
  rw [Block.ctlBytes, toLE_eq_map]
  refine List.map_congr_left fun i hi => ?_
  have hlt : i < 4 := List.mem_range.1 hi
  have hword := b.ctlWord_tokens (j := k / 2) (by omega)
  rw [show (0x200 + 4 * k + i) / 8 * 8 = 0x200 + 8 * (k / 2) by omega, hword]
  rcases Nat.even_or_odd' k with ⟨j, rfl | rfl⟩
  · rw [show 2 * j / 2 = j by omega, show (0x200 + 4 * (2 * j) + i) % 8 = i by omega]
    exact (ofNat_pair_byte hlt).1
  · rw [show (2 * j + 1) / 2 = j by omega, show (0x200 + 4 * (2 * j + 1) + i) % 8 = 4 + i by omega]
    exact (ofNat_pair_byte hlt).2

theorem Block.ctlWrite_arrCtl (b : Block) {d : List Byte} (hd : d.length = 4) :
    b.ctlWrite 0x40 d = { b.flushPack with arrCtl := ofLE d &&& 0xFFC1 } := by
  have hbytes : (List.range 4).map (fun i => if 0x40 ≤ 0x40 + i && 0x40 + i < 0x40 + d.length then d.getD (0x40 + i - 0x40) 0
      else BitVec.ofNat 8 (b.arrCtl / 2 ^ (8 * i))) = d := by
    refine List.ext_getElem (by simp [hd]) fun i _ hi => ?_
    have hin : (decide (0x40 ≤ 0x40 + i) && decide (0x40 + i < 0x40 + d.length)) = true := by simp [hi]
    rw [List.getElem_map, List.getElem_range, if_pos hin, Nat.add_sub_cancel_left, List.getD_eq_getElem _ _ hi]
  simp only [Block.ctlWrite]
  rw [hbytes]

theorem debugPorts : claimDebugPorts := by
  refine ⟨?_, ?_, fun s ir v hgood => ?_, fun s port hrecent => if_pos ?_⟩
  · intro s n wr off len data hn hcore hclk hoff hfit a size sd
    rw [exec_hostDebugAccess hn (.inl hfit)]
    refine ⟨fun hdenied hwr => congrArg _ ?_, fun hdenied hwr => congrArg _ ?_, fun hopen hlocked hwr => congrArg _ ?_,
      fun hopen hlocked hwr => congrArg _ ?_, fun hlocked hwr hgate hopen => congrArg _ ?_,
      fun hlocked hwr hgate hopen => congrArg _ ?_⟩
    · subst hwr
      exact State.hostDebug_denied hcore hclk hoff hdenied
    · subst hwr
      exact State.hostDebug_denied hcore hclk hoff hdenied
    · subst hwr
      exact State.hostDebug_locked hcore hclk hopen hlocked
    · subst hwr
      exact State.hostDebug_locked hcore hclk hopen hlocked
    · subst hwr
      exact State.hostDebug_scratchpad hcore hclk hoff hlocked hgate hopen
    · subst hwr
      exact State.hostDebug_scratchpad hcore hclk hoff hlocked hgate hopen
  · intro s n d hn hcore hclk hlocked hgate
    have hread : ∀ o len, o + len ≤ debugRegBytes → exec (.hostDebugAccess n false (debugRegs + o) len d) s =
        .next (s.debugOut ((s.block n).ctlBytes o len)) := by
      intro o len hfit
      rw [exec_hostDebugAccess hn (.inr ⟨Nat.le_add_right _ _, by simpa [Nat.add_assoc] using hfit⟩),
        State.hostDebug_registers hcore hclk hlocked hgate (Nat.le_add_right _ _), Nat.add_sub_cancel_left]
      rfl
    have hwrite : ∀ o, debugRegs ≤ o → o + d.length ≤ debugRegs + debugRegBytes → exec (.hostDebugAccess n true o 0 d) s =
        .next (if o + d.length ≤ debugRegs + 0x40 || debugRegs + 0x44 ≤ o then s
          else s.putBlock n ((s.block n).ctlWrite (o - debugRegs) d)) := by
      intro o ho hfit
      rw [exec_hostDebugAccess (wr := true) (data := d) hn (.inr ⟨ho, hfit⟩), State.hostDebug_registers hcore hclk hlocked hgate ho]
      rfl
    refine ⟨(hread 0 8 (by decide)).trans ?_, fun q hq => ?_, fun k hk => ?_, fun hd => ?_, fun off hoff hfit hbeside => ?_⟩
    · rw [Block.ctlBytes_word _ rfl]
      rfl
    · rw [Nat.add_assoc (2 ^ 21)]
      refine (hread (0x140 + 8 * q) 8 (by simp only [debugRegBytes]; omega)).trans ?_
      rw [Block.ctlBytes_word _ (by omega), Block.ctlWord_queue _ hq]
    · rw [Nat.add_assoc (2 ^ 21)]
      refine (hread (0x200 + 4 * k) 4 (by simp only [debugRegBytes]; omega)).trans ?_
      rw [Block.ctlBytes_token _ hk]
    · refine (hwrite (debugRegs + 0x40) (by decide) (by rw [hd]; decide)).trans ?_
      rw [if_neg (by rw [hd]; decide), Nat.add_sub_cancel_left, Block.ctlWrite_arrCtl _ hd]
    · refine (hwrite off hoff hfit).trans (congrArg _ (if_pos ?_))
      rw [Bool.or_eq_true, decide_eq_true_eq, decide_eq_true_eq]
      exact hbeside
  · refine ⟨congrArg Host.Outcome.next ?_, congrArg Host.Outcome.next ?_, fun hir hlocked => congrArg Host.Outcome.next ?_,
      fun hir hlocked => congrArg Host.Outcome.next ?_⟩
    · simp [State.jtag, hgood]
    · simp [State.jtag, hgood]
    · simp [State.jtag, hgood, hlocked, show ir ≠ 0 by omega, show ir ≠ 1 by omega]
    · simp [State.jtag, hgood, hlocked, show ir ≠ 0 by omega, show ir ≠ 1 by omega, State.draw]
  · obtain ⟨x, hx, hsoon⟩ := hrecent
    exact List.any_eq_true.2 ⟨x, hx, decide_eq_true hsoon⟩

/-! The cables and the SMBus port. -/

theorem cablesTrainOrDrop : claimCables := by
  intro s p hp
  have hplug : exec (.cablePresent p) s = .next (s.plugged p) := onUnit_of hp _
  have hunplug : exec (.cableRemoved p) s = .next (s.unplugged p) := onUnit_of hp _
  refine ⟨fun hgood => hplug.trans (congrArg _ (if_neg (Bool.eq_false_iff.1 hgood))), fun k => ⟨?_, ?_, fun hoff => ?_⟩,
    fun hgood => hunplug.trans (congrArg _ (if_neg (Bool.eq_false_iff.1 hgood))),
    fun hbad => ⟨hplug.trans (congrArg _ (if_pos hbad)), hunplug.trans (congrArg _ (if_pos hbad))⟩, fun pin hpin hup => ?_⟩
  · simp [Link.plug]
  · simp [Link.plug]
  · simp [Link.plug, hoff]
  · have hshort : exec (.sidebandShort p pin) s = .next (s.sideShort p pin) := onUnit_of_two hp hpin _
    rw [hshort]
    refine ⟨fun hknown => congrArg _ (if_pos ?_), fun hfresh => congrArg _ (if_neg ?_)⟩
    · rw [hknown, Bool.or_true]
    · rw [hfresh, hup]
      exact Bool.false_ne_true

section
variable {s : State} (hup : s.crustUp = true)
include hup

theorem exec_smbusRead {code : Nat} {bs : List Byte} {t : State} (hreg : s.smbReg code = some (bs, t)) :
    exec (.smbusCommand code false) s = .next { t with
      smb := some bs, out := t.out ++ [Out.smbus (some (toLE 1 bs.length ++ bs ++ [s.smbPec code bs]))] } :=
  congrArg Host.Outcome.next (by simp [State.smbus, hup, hreg])

theorem exec_smbusUnlisted {code : Nat} (hreg : s.smbReg code = none) : exec (.smbusCommand code false) s = .next s.smbNack :=
  congrArg Host.Outcome.next (by simp [State.smbus, hup, hreg])

theorem exec_smbusWrite (code : Nat) : exec (.smbusCommand code true) s = .next s.smbNack :=
  congrArg Host.Outcome.next (by simp [State.smbus, hup])

end

theorem smbusAnswers : claimSmbus := by
  intro s hup
  refine ⟨fun code bs hmem => ?_, ⟨toLE 4 (Config.free s.freeN), ?_, length_toLE _ _⟩, fun code hcode => ?_, exec_smbusWrite hup,
    fun halert => congrArg Host.Outcome.next ?_, fun halert => congrArg Host.Outcome.next ?_, congrArg _ (if_pos hup)⟩
  · simp only [List.mem_cons, List.not_mem_nil, or_false, Prod.mk.injEq] at hmem
    rcases hmem with ⟨hc, hb⟩ | ⟨hc, hb⟩ | ⟨hc, hb⟩ | ⟨hc, hb⟩ | ⟨hc, hb⟩ <;> subst hc <;> subst hb <;> exact exec_smbusRead hup rfl
  · have hread := exec_smbusRead (s := s) (code := 5) hup rfl
    rw [length_toLE] at hread
    exact hread
  · refine exec_smbusUnlisted hup ?_
    rcases hcode with h | h
    · rw [h]
      rfl
    · obtain ⟨j, rfl⟩ := Nat.exists_eq_add_of_lt h
      rw [show 6 + j + 1 = j + 7 by omega]
      rfl
  · simp [State.smbArp, hup, halert, State.smbAddr]
  · simp [State.smbArp, hup, halert]

/-- Settles O60. -/
theorem tamperDebugAndPins : Obligations.TamperDebugAndPins :=
  ⟨tamperEmptiesTheKeyStore, debugPorts, cablesTrainOrDrop, smbusAnswers⟩

end Sys2Proof.Machine
end
